-- ==== Sys2Proof/Word.lean ====
section
/-!
DEFINITION. Words of the Dzisin architecture (R2, R116, R157): the widths that the manual gives its registers.
-/

namespace Sys2Proof

/-- A byte of memory (R2). -/
abbrev Byte := BitVec 8

/-- A 64-bit scalar, predicate or address (R116). -/
abbrev Word := BitVec 64

/-- A vector register: 512 bits, 8 lanes of 64 bits (R157). -/
abbrev Vec := BitVec 512

/-- A 9-bit cause code: class × 8 + detail (R363). -/
abbrev Cause := BitVec 9

end Sys2Proof
end

