-- ==== Sys2Proof/Config.lean ====
section
/-!
DEFINITION. What an implementation fixes and the manual leaves open: free values, as constants without a body. Nothing can be
proved of a value of theirs, so a statement about them holds whatever they are (assumptions 3 and 4).
-/

namespace Sys2Proof.Config

/-- A choice between two outcomes that the manual allows; the state's counter `freeCount` picks a fresh one each time. -/
opaque freeBit : Nat → Bool

/-- A word that the manual leaves undefined. -/
opaque freeWord : Nat → BitVec 64

/-- A choice of one of many, by number. -/
opaque freeNat : Nat → Nat

/-- The byte at an address of the undefined range with a given number (R73, R82, R242, R367). -/
opaque freeByte : Nat → Nat → BitVec 8

/-- Cycles a step takes, less one (R127, R226, R255, R297, R324, R341: timing, DESIGN CHOICE, assumption 4). -/
opaque cycles : Nat → Nat

/-- Size in bytes of a partition image (R371: "in a form that only a CX4 of the same stepping reads"), less its header. -/
opaque imageBody : Nat → Nat

/-- A byte of the body of a partition image (R371). -/
opaque imageByte : Nat → Nat → BitVec 8

/-- What a SECDED or HBM check reports as syndrome (R395). -/
opaque syndrome : Nat → BitVec 32

/-- The HBM controller, of eight, that holds a line: the manual numbers the controllers and does not say how lines interleave over them
(R8, R394; DESIGN CHOICE, assumption 76). -/
opaque hbmController : Nat → BitVec 3

/-- The UALink port, modulo 24, that serves a device: each port serves one link, and which is not said (R8, R394, R419; DESIGN CHOICE,
assumption 76). -/
opaque peerPort : BitVec 10 → Nat

/-- The stepping number that an image header holds for B0 (R371). -/
opaque stepping : BitVec 16

end Sys2Proof.Config
end

