-- ==== Sys2Proof/Syntax.lean ====
section
/-!
DEFINITION. The steps of the CX4: one constructor of `Instr` per row of spec/opcode_table.json, in the table's order.
The first part are the instructions of R101 (and the forms that the table lists as rows of their own); the rest are the
commands of a stream (R45) and the events of the device. Operand fields are decoded to their classes (R92, R93).
-/

namespace Sys2Proof

/-- Number of a scalar register g0-g63 (R92). -/
abbrev GReg := BitVec 6
/-- Number of a vector register v0-v31 (R92). -/
abbrev VReg := BitVec 5
/-- Number of a predicate register q0-q7 (R92). -/
abbrev QReg := BitVec 3
/-- Number of an accumulator z0-z15 (R92, R175). -/
abbrev ZReg := BitVec 4
/-- Number of an operand slot s0-s15 (R92, R175). -/
abbrev SReg := BitVec 4

/-- A source that accepts a scalar register or a small constant (R93). -/
inductive GK where
  | g (r : GReg)
  | k (c : BitVec 6)
  deriving DecidableEq, Repr

/-- A source that accepts a vector register, a scalar register or a small constant (R158). -/
inductive VGK where
  | v (r : VReg)
  | g (r : GReg)
  | k (c : BitVec 6)
  deriving DecidableEq, Repr

/-- A vector or a scalar register (R162, R313, R319). -/
inductive VG where
  | v (r : VReg)
  | g (r : GReg)
  deriving DecidableEq, Repr

/-- The two directions of QMOV (R140). -/
inductive QMov where
  | toG (d : GReg) (a : QReg)
  | toQ (d : QReg) (a : GReg)
  deriving DecidableEq, Repr

/-- Guard and lookahead of a word (R88, R89, R90). -/
structure Header where
  gneg : Bool
  guard : QReg
  la : BitVec 4
  deriving DecidableEq, Repr

/-- The memory hint of a word: NUD and L1P (R88, R91). -/
structure Hint where
  nud : BitVec 6
  l1p : BitVec 2
  deriving DecidableEq, Repr

/-- The X field of form M (R97) with the word's hint. -/
structure MX where
  disp : BitVec 24
  size : BitVec 3
  scope : BitVec 3
  space : BitVec 2
  scale : BitVec 2
  mod : BitVec 6
  hint : Hint
  deriving DecidableEq, Repr

/-- The X field of form F without C (R98). `mask` is `none` for the field value 0x00. -/
structure FX where
  fmt : BitVec 6
  rnd : BitVec 2
  fmt2 : BitVec 6
  nanp : Bool
  sat : Bool
  opm : BitVec 8
  mask : Option QReg
  deriving DecidableEq, Repr

/-- The X field of TCP, TSHAPE and TFREE (R241). A register field 0 means none. -/
structure TX where
  dk : Bool
  sk : Bool
  cnud : BitVec 6
  ctr : GReg
  amt : GReg
  recp : GReg
  deriving DecidableEq, Repr

/-- The header of a command: the stream it stands in and its TAG (R41, R45). -/
structure CmdHdr where
  pid : BitVec 2
  stream : BitVec 2
  tag : BitVec 32
  deriving DecidableEq, Repr

/-- A message of 1 + F flits (R316): its destination is the cluster whose queue it joins. -/
structure Message where
  id : BitVec 32
  srcDev : BitVec 10
  srcCore : BitVec 16
  cls : BitVec 4
  flits : BitVec 3
  payload : List (BitVec 512)
  deriving DecidableEq, Repr

/-- What a fabric message asks a future table to do (R34, R284). A request with a reply is `touch`, whose `op` is 0 TOUCH, 1 JOIN,
2 TOUCHQ and 3 FSTAT. -/
inductive FEvent where
  | resolve (v : Word)
  | poison (c : Cause)
  | cancel
  | fdup
  | fdrop
  | producerExit (v : Word)
  | producerFail (c : Cause)
  | producerLost (c : Cause)
  | touch (dev : BitVec 10) (tid : BitVec 32) (op : BitVec 3)
  deriving DecidableEq, Repr

/-- What another agent does to a line (R205). -/
inductive LineEvent where
  | read
  | write
  deriving DecidableEq, Repr

/-- What the packet with a poisoned tail carried (R401). -/
inductive TailPacket where
  | futureEvent (handle : Word)
  | request (tid : BitVec 32)
  | message (pid : BitVec 2) (id : BitVec 32)
  | other
  deriving DecidableEq, Repr

/-- Fields of a Periscope record that the reporting unit supplies (R394). -/
structure PRecord where
  type : BitVec 8
  sev : BitVec 3
  unit : BitVec 4
  layer : BitVec 2
  cluster : BitVec 6
  slice : BitVec 4
  core : BitVec 5
  port : BitVec 7
  lane : BitVec 11
  address : Word
  syndrome : BitVec 32
  count : BitVec 32
  localctr : Word
  detail : Word
  asid : BitVec 16
  tid : BitVec 32
  deriving DecidableEq, Repr

/-- How a beat that failed parity ended (R399): after n resends; by a swap, with the one lane that misread in each failing group; or
not at all. -/
inductive VbusOutcome where
  | retry (n : BitVec 2)
  | swap (lanes : List (BitVec 11))
  | fail
  deriving DecidableEq, Repr

/-- What a SECDED or ECC check found (R391, R396): a corrected bit, an uncorrectable error in a clean or in a home copy, or an
uncorrectable error that has arisen and that no check has met yet. -/
inductive EccOutcome where
  | corrected (bit : BitVec 7)
  | uncorrectableClean
  | uncorrectableHome
  | undiscovered
  deriving DecidableEq, Repr

/-- How a sample was decided (R216). -/
inductive SampleResult where
  | used
  | unused
  | discarded
  deriving DecidableEq, Repr

/-- The answer to an ATS request (R418). -/
inductive AtsAnswer where
  | granted (pa : Word)
  | refused
  | noWrite
  deriving DecidableEq, Repr

/-- What a UALink peer asks of this device (R419, R420). -/
inductive PeerOp where
  | read (n : BitVec 7)
  | write (data : List Byte)
  | atomic (op : BitVec 4) (size : BitVec 3) (bf : Bool) (b cmp : Word)
  deriving DecidableEq, Repr

/-- How a response to a remote request ends it (R420). -/
inductive RemoteReply where
  | data (v : BitVec 512)
  | key
  | targetFault
  | poisoned
  deriving DecidableEq, Repr

/-- The shared engines of the base die (R406). -/
inductive BaseEngine where
  | prism
  | collective
  | ingress
  | marionette
  | root
  deriving DecidableEq, Repr

/-- An event that the device meets, with what it carries. The agenda of the state holds these; the step of the same name
acts on the one that the step has taken up. -/
inductive Ev where
  | sequencerRunCommand (core : BitVec 16)
  | matrixDeferredTrap (core : BitVec 16) (shadow : Bool) (row : BitVec 5) (col : BitVec 4)
  | waitctrSatisfied (pid stream : BitVec 2)
  | fenceCmdComplete (pid stream : BitVec 2)
  | streamResume (pid stream : BitVec 2)
  | apertureAdd (rid : BitVec 16) (off : Word) (len : BitVec 16) (n : Word)
  | apertureRead (rid : BitVec 16) (off : Word)
  | hostPostedWrite (rid : BitVec 16) (relaxed : Bool) (off : Word) (data : List Byte)
  | hostBarRead (rid : BitVec 16) (off : Word) (len : BitVec 16)
  | lotteryDraw (pid : BitVec 2)
  | clusterWakeComplete (cl : BitVec 8)
  | clusterGate (cl : BitVec 8)
  | coreGate (core : BitVec 16)
  | coreWakeComplete (core : BitVec 16)
  | heldRecordPush (cl : BitVec 8)
  | coreSelectWork (core : BitVec 16)
  | tileFrameAllocate (tid : BitVec 32)
  | tileFillComplete (cl : BitVec 8) (frame : BitVec 11)
  | tileFillError (cl : BitVec 8) (frame : BitVec 11)
  | taskDispatch (tid : BitVec 32)
  | tileDrainComplete (cl : BitVec 8) (frame : BitVec 11)
  | copyEngineComplete (cl : BitVec 8) (op : BitVec 32)
  | copyEngineFault (cl : BitVec 8) (op : BitVec 32) (va : Word)
  | launchFutureAllocate (cl : BitVec 8)
  | quantumBoundary (core : BitVec 16)
  | quantumEnd (pid : BitVec 2)
  | layerRoleChange (pid layer role : BitVec 2) (clock : Bool)
  | roleChangeEnd (pid stream : BitVec 2)
  | followTimeout (core : BitVec 16)
  | icacheParityError (core : BitVec 16) (line : Word)
  | budgetExpiry (core : BitVec 16)
  | preemptRequest (pid : BitVec 2) (stop : Bool)
  | futureFabricEvent (handle : Word) (ev : FEvent) (msgid : BitVec 32)
  | remoteWake (tid : BitVec 32)
  | messageArrive (cl : BitVec 8) (m : Message)
  | handlerAbort (core : BitVec 16) (cause : Cause)
  | scopeMissNotice (core : BitVec 16) (scope : BitVec 3)
  | uLineCombine (line : Word)
  | l1dCoherenceRequest (core : BitVec 16) (line : Word) (ev : LineEvent)
  | sliceAgeTick (slice : BitVec 6)
  | ageingSweepVisit (core : Option (BitVec 16)) (slice : BitVec 6) (line : Word)
  | sliceSample (slice : BitVec 6) (line : Word) (pid : BitVec 2) (tenant : BitVec 16)
  | sampleOutcome (slice : BitVec 6) (line : Word) (pid : BitVec 2) (tenant : BitVec 16) (res : SampleResult)
  | ktAdjust (slice : BitVec 6) (pid : BitVec 2) (tenant : BitVec 16)
  | capsuleAdoptTimer (tid : BitVec 32)
  | capsuleDeliveryAck (block : Word)
  | collectiveComplete (id : BitVec 32)
  | reductionPartialSum (core : BitVec 16) (id : BitVec 32)
  | periscopeRecord (r : PRecord)
  | prbaseWrite (v : Word)
  | prstatusWrite (v : Word)
  | registerWrite (off v : Word)
  | vbusParityFail (layer : BitVec 2) (cluster : BitVec 6) (port : BitVec 7) (groups : BitVec 32) (address : Word) (out : VbusOutcome)
  | linkCrcError (layer : BitVec 2) (cluster : BitVec 6) (dir : BitVec 3) (crc : BitVec 16) (failed : Bool)
  | sramEccError (store : BitVec 4) (layer : BitVec 2) (cluster : BitVec 6) (core : BitVec 5) (slice : BitVec 4) (address : Word) (out : EccOutcome)
  | hbmEccError (address : Word) (channel : BitVec 3) (out : EccOutcome)
  | regfileParityError (core : BitVec 16) (file : BitVec 2) (reg : BitVec 6)
  | clusterContainment (cl : BitVec 8) (badEntries : List (BitVec 9 × BitVec 16))
  | schedulerWatchdogTimeout (cl : BitVec 8)
  | poisonedTailReceived (cl : BitVec 8) (p : TailPacket)
  | engineWatchdogTimeout (e : BaseEngine) (pids : BitVec 4)
  | atsInvalidation (asid : BitVec 16) (va len : Word)
  | atsResponse (tid : BitVec 32) (va : Word) (a : AtsAnswer)
  | hostReadCompletion (tid : BitVec 32) (va : Word) (data : BitVec 512)
  | hostReadTimeout (tid : BitVec 32) (va : Word)
  | ualinkInboundRequest (dev : BitVec 10) (key : BitVec 26) (va : Word) (op : PeerOp)
  | ualinkResponse (tid : BitVec 32) (va : Word) (r : RemoteReply)
  | peerFence (dev : BitVec 10)
  | fencedClear (dword : BitVec 4) (mask : Word)
  | partitionStart (pid : BitVec 2)
  | partitionStop (pid : BitVec 2)
  | partitionRestart (pid : BitVec 2)
  | mgmtSetModuleLimit (watts : BitVec 16)
  | mgmtReadStandbyBuffer
  | mgmtSpdmAttestation (nonce : Word)
  | mgmtFirmwareRecovery (rsaOk slhOk : Bool)
  | powerUp
  | pcieConfigRequest
  | rootControllerContextSwitch (pid : BitVec 2)
  | mainSidePowerDown
  deriving DecidableEq, Repr

/-- One indivisible step of the device: one constructor per row of the opcode table. -/
inductive Instr where
  -- Control-misc, major 0x00 (R129)
  | ill
  | nop
  | follow (d : QReg)
  | leave
  | yield
  | brk (imm : BitVec 40)
  | trap (n : BitVec 3) (a : GK)
  | sysr (d : GReg) (idx : BitVec 12)
  | sysrX (d : GReg) (a : GK) (idx : BitVec 12)
  | sysw (idx : BitVec 12) (a : GK)
  | syswClasstab (a : GK)
  | syswLotseed (a : GK)
  | syswTenscale (a : GK)
  | ifence
  | getmc (d : GReg)
  | eret
  | setnud (code : BitVec 6)
  -- Integer register, major 0x01 (R134)
  | add (d : GReg) (a b : GK)
  | sub (d : GReg) (a b : GK)
  | mul (d : GReg) (a b : GK)
  | mulh (d : GReg) (a b : GK)
  | mulhn (d : GReg) (a b : GK)
  | div (d : GReg) (a b : GK)
  | divn (d : GReg) (a b : GK)
  | rem (d : GReg) (a b : GK)
  | remn (d : GReg) (a b : GK)
  | and (d : GReg) (a b : GK)
  | or (d : GReg) (a b : GK)
  | xor (d : GReg) (a b : GK)
  | andn (d : GReg) (a b : GK)
  | shl (d : GReg) (a b : GK)
  | shr (d : GReg) (a b : GK)
  | sha (d : GReg) (a b : GK)
  -- Integer immediate, major 0x02 (R134, R136)
  | addi (d : GReg) (a : GK) (imm : BitVec 40)
  | muli (d : GReg) (a : GK) (imm : BitVec 40)
  | andi (d : GReg) (a : GK) (imm : BitVec 40)
  | ori (d : GReg) (a : GK) (imm : BitVec 40)
  | xori (d : GReg) (a : GK) (imm : BitVec 40)
  | shli (d : GReg) (a : GK) (sh : BitVec 6)
  | shri (d : GReg) (a : GK) (sh : BitVec 6)
  | shai (d : GReg) (a : GK) (sh : BitVec 6)
  | ldi (d : GReg) (imm : BitVec 40)
  | ldhi (d : GReg) (a : GK) (imm : BitVec 40)
  | cmpi (d : QReg) (a : GK) (imm : BitVec 36) (cc : BitVec 4)
  -- Compare and bit, major 0x03 (R137, R138)
  | cmp (d : QReg) (a b : GK) (cc : BitVec 4)
  | sel (d : GReg) (a b : GK)
  | min (d : GReg) (a b : GK)
  | max (d : GReg) (a b : GK)
  | minn (d : GReg) (a b : GK)
  | maxn (d : GReg) (a b : GK)
  | clz (d a : GReg)
  | ctz (d a : GReg)
  | popc (d a : GReg)
  | bext (d a : GReg) (pos len : BitVec 6) (sgn : Bool)
  | bins (d : GReg) (a : GK) (pos len : BitVec 6)
  | abs (d a : GReg)
  | sext (d a : GReg) (n : BitVec 6)
  | zext (d a : GReg) (n : BitVec 6)
  -- Address and identity, major 0x04 (R139)
  | lea (d : GReg) (a b : GK) (x : MX)
  | lea2 (d : GReg) (a b : GK) (x : MX)
  | getid (d : GReg) (sel : BitVec 3)
  -- Predicates, major 0x05 (R140)
  | pand (d a b : QReg)
  | por (d a b : QReg)
  | pxor (d a b : QReg)
  | pnot (d a : QReg)
  | pmov (d a : QReg)
  | qmov (m : QMov)
  | pany (d a b : QReg)
  | pall (d a b : QReg)
  | pset (d : QReg) (a : GK) (imm : BitVec 40)
  -- Control, major 0x06 (R141)
  | bra (disp : BitVec 40)
  | jmp (a : GReg)
  | call (d : GReg) (disp : BitVec 40)
  | callr (d a : GReg)
  | ret (a : GReg)
  | loop (d : GReg) (disp : BitVec 40)
  | exit (a : GK)
  -- Tasks and futures, major 0x07 (R283)
  | spawn (d a b : GReg)
  | spawnr (d a b : GReg)
  | join (d a : GReg) (e : Option QReg)
  | touch (d a : GReg) (e : Option QReg)
  | touchq (d a : GReg) (e : QReg)
  | resolve (a : GReg) (b : GK)
  | poison (a : GReg) (b : GK)
  | cancel (a : GReg)
  | fstat (d a : GReg)
  | fdup (a : GReg)
  | fdrop (a : GReg)
  | self (d : GReg)
  | selfDup (d : GReg)
  -- Counters, major 0x08 (R307)
  | ctradd (a : GReg) (b : GK) (x : MX)
  | ctrwait (d a : GReg) (b : GK) (x : MX)
  | ctrread (d a : GReg) (x : MX)
  | ctrarm (d a : GReg) (b : GK) (x : MX)
  | ctrdisarm (d a : GReg) (x : MX)
  | ctrwaitq (d : QReg) (a : GReg) (b : GK) (x : MX)
  -- Atomics, major 0x09 (R298)
  | aadd (d a : GReg) (b : GK) (x : MX)
  | amin (d a : GReg) (b : GK) (x : MX)
  | amax (d a : GReg) (b : GK) (x : MX)
  | aminn (d a : GReg) (b : GK) (x : MX)
  | amaxn (d a : GReg) (b : GK) (x : MX)
  | aand (d a : GReg) (b : GK) (x : MX)
  | aor (d a : GReg) (b : GK) (x : MX)
  | axor (d a : GReg) (b : GK) (x : MX)
  | aswp (d a : GReg) (b : GK) (x : MX)
  | acas (d a : GReg) (b : GK) (x : MX)
  | afadd (d a : GReg) (b : GK) (x : MX)
  | afmin (d a : GReg) (b : GK) (x : MX)
  | afmax (d a : GReg) (b : GK) (x : MX)
  -- Reductions at memory, major 0x0A (R303)
  | rdadd (a : GReg) (b : GK) (x : MX)
  | rdmin (a : GReg) (b : GK) (x : MX)
  | rdmax (a : GReg) (b : GK) (x : MX)
  | rdor (a : GReg) (b : GK) (x : MX)
  | rdfadd (a : GReg) (b : GK) (x : MX)
  | rdflush (a : GReg) (x : MX)
  -- Fence, major 0x0B (R306)
  | fence (kind scope : BitVec 6)
  -- Queues and messages, major 0x0C (R313, R315)
  | qput (d : QReg) (a : GReg) (b : VG) (x : MX)
  | qget (d : QReg) (a : GReg) (b : VG) (x : MX)
  | msend (d a b : GReg) (cls n : BitVec 4)
  | msendv (d a : GReg) (b : VReg) (cls n : BitVec 4)
  | mmask (m : BitVec 16)
  | munmask (m : BitVec 16)
  | marg (d : VG) (b : GK)
  | mid (d : GReg)
  -- Capsules, major 0x0D (R330)
  | capenter (a : GReg) (x : MX)
  | capstep (h : Hint)
  | capexit (h : Hint)
  | capres (d : GReg) (n : BitVec 2) (h : Hint)
  -- Collectives, major 0x0E (R320)
  | coll (a : GReg)
  | collwait (a : GReg)
  -- System, major 0x0F (R368)
  | tlbinvPage (a : GReg) (asid : BitVec 16)
  | tlbinvRange (a b : GReg) (asid : BitVec 16)
  | tlbinvAsid (asid : BitVec 16)
  | tlbinvAsidg (asid : BitVec 16)
  | tlbinvAll
  | replayAll (d : GReg)
  | replayResume (d b : GReg)
  | replayFail (d b : GReg)
  | ctxsave (d a b : GReg)
  | ctxsaveT (d a b : GReg)
  | ctxload (d a : GReg)
  | ctxloadT (d a b : GReg)
  -- Scalar memory, major 0x10 (R231)
  | ld (d : GReg) (a b : GK) (x : MX)
  | st (d : GReg) (a b : GK) (x : MX)
  | lda (d : GReg) (a b : GK) (x : MX)
  | stl (d : GReg) (a b : GK) (x : MX)
  | pref (a b : GK) (x : MX)
  | dcwb (a b : GK) (x : MX)
  -- Vector memory, major 0x11 (R233)
  | vld (d : VReg) (a b : GK) (x : MX)
  | vst (d : VReg) (a b : GK) (x : MX)
  | vgath (d : VReg) (a : GReg) (b : VReg) (x : MX)
  | vscat (d : VReg) (a : GReg) (b : VReg) (x : MX)
  | vbld (d : VReg) (a b : GK) (x : MX)
  | vlsl (d : VReg) (a b : GK) (x : MX)
  | vlss (d : VReg) (a b : GK) (x : MX)
  | vspill (d : VReg) (a b : GK) (x : MX)
  | vfill (d : VReg) (a b : GK) (x : MX)
  -- Tiles and copy, major 0x12 (R240, R241)
  | tld (d a : GReg) (b : GK) (x : MX)
  | tsv (d a : GReg) (b : GK) (x : MX)
  | tcp (d a b : GReg) (x : TX)
  | tshape (d a b : GReg) (st : Bool) (x : TX)
  | rcfence
  | twait (a : GReg)
  | tstat (d a : GReg)
  | talloc (d a : GReg)
  | tfree (a : GReg) (x : TX)
  | tldv (d : VReg) (a : GReg) (b : GK) (x : MX)
  | tsvv (d : VReg) (a : GReg) (b : GK) (x : MX)
  -- Vector float, major 0x18 (R162)
  | vadd (d a : VReg) (b : VGK) (x : FX)
  | vsub (d a : VReg) (b : VGK) (x : FX)
  | vmul (d a : VReg) (b : VGK) (x : FX)
  | vfma (d a : VReg) (b : VGK) (c : VG) (x : FX)
  | vfms (d a : VReg) (b : VGK) (c : VG) (x : FX)
  | vmin (d a : VReg) (b : VGK) (x : FX)
  | vmax (d a : VReg) (b : VGK) (x : FX)
  | vabs (d a : VReg) (x : FX)
  | vneg (d a : VReg) (x : FX)
  | vdiv (d a : VReg) (b : VGK) (x : FX)
  | vsqrt (d a : VReg) (x : FX)
  | vrcp (d a : VReg) (x : FX)
  | vrsq (d a : VReg) (x : FX)
  | vexp2 (d a : VReg) (x : FX)
  | vlog2 (d a : VReg) (x : FX)
  -- Vector integer, major 0x19 (R165)
  | viadd (d a : VReg) (b : VGK) (x : FX)
  | visub (d a : VReg) (b : VGK) (x : FX)
  | vimul (d a : VReg) (b : VGK) (x : FX)
  | vimad (d a : VReg) (b : VGK) (c : VG) (x : FX)
  | vimin (d a : VReg) (b : VGK) (x : FX)
  | vimax (d a : VReg) (b : VGK) (x : FX)
  | vand (d a : VReg) (b : VGK) (x : FX)
  | vor (d a : VReg) (b : VGK) (x : FX)
  | vxor (d a : VReg) (b : VGK) (x : FX)
  | vshl (d a : VReg) (b : VGK) (x : FX)
  | vshr (d a : VReg) (b : VGK) (x : FX)
  | vsha (d a : VReg) (b : VGK) (x : FX)
  -- Vector compare and permute, major 0x1A (R166-R168)
  | vcmp (d : QReg) (a : VReg) (b : VGK) (x : FX)
  | vsel (d a : VReg) (b : VGK) (c : QReg) (x : FX)
  | vshuf (d a b c : VReg) (x : FX)
  | vbcast (d : VReg) (a : VGK) (x : FX)
  | vmov (d a : VReg) (x : FX)
  | viota (d : VReg) (a b : GK) (x : FX)
  | vext (d : GReg) (a : VReg) (b : GK) (x : FX)
  | vins (d : VReg) (a b : GK) (x : FX)
  | vcomp (d a : VReg) (b : GK) (x : FX)
  -- Vector conversion and reduction, major 0x1B (R169-R173)
  | vcvt (d a : VReg) (c : GReg) (x : FX)
  | vred (d : GReg) (a : VReg) (b : GK) (x : FX)
  | vscan (d a : VReg) (b : GK) (x : FX)
  | vdot4 (d a b : VReg) (x : FX)
  | vrng (d : VReg) (a b : GReg) (x : FX)
  | vscale (d : GReg) (a : VReg) (x : FX)
  -- Matrix, major 0x1C (R180, R181)
  | mclaim (s z : BitVec 16)
  | mrel (s z : BitVec 16)
  | mlds (d : SReg) (a : GReg) (b : GK) (fmt : BitVec 6) (space : BitVec 2) (rows : BitVec 5) (rbytes : BitVec 7) (h : Hint)
  | mlatch (a : SReg) (fmt : BitVec 6) (nmaj : Bool) (kofs : BitVec 9) (klen : BitVec 6)
  | mma (d : ZReg) (a : SReg) (fmt : BitVec 6) (rows : BitVec 5) (kofs : BitVec 9)
  | mzero (d : ZReg) (fmt : BitVec 6)
  | mstz (d : ZReg) (a : GReg) (b : GK) (fmt : BitVec 6) (rnd space : BitVec 2) (sat : Bool) (rows : BitVec 5)
  | mrdz (d : VReg) (a : ZReg) (b : GK) (half : Bool)
  | mwrz (d : ZReg) (a : VReg) (b : GK) (half : Bool)
  | mwait
  | mstat (d : GReg) (clr : BitVec 7)
  | mstatSnapshot (d : GReg)
  | mscale (d : ZReg) (a : GReg) (fmt : BitVec 6) (rnd : BitVec 2)
  -- The matrix sequencer (R183, R196)
  | sequencerRunCommand (core : BitVec 16)
  | matrixDeferredTrap (core : BitVec 16) (shadow : Bool) (row : BitVec 5) (col : BitVec 4)
  -- Commands of a stream (R45)
  | cmdLaunch (h : CmdHdr) (record done slot : Word)
  | cmdLaunchn (h : CmdHdr) (first count done : Word)
  | cmdLoop (h : CmdHdr) (len iters : Word)
  | cmdIf (h : CmdHdr) (va value skip : Word) (cond : BitVec 2)
  | cmdWaitctr (h : CmdHdr) (va t : Word)
  | waitctrSatisfied
  | cmdAddctr (h : CmdHdr) (va amount : Word)
  | cmdCopy (h : CmdHdr) (src dst len ctr amount : Word)
  | cmdFence (h : CmdHdr)
  | cmdFenceReload (h : CmdHdr)
  | fenceCmdComplete
  | cmdReplay (h : CmdHdr)
  | cmdRole (h : CmdHdr) (layer role clock ctr : Word)
  | cmdBadOpcode (h : CmdHdr) (op : BitVec 8)
  | streamResume
  -- The host ingress (R44, R60, R61)
  | apertureAdd
  | apertureRead
  | hostPostedWrite
  | hostBarRead
  -- Placement (R57-R75)
  | lotteryDraw
  | clusterWakeComplete
  | clusterGate
  | coreGate
  | coreWakeComplete
  | heldRecordPush
  | coreSelectWork
  | tileFrameAllocate
  | tileFillComplete
  | tileFillError
  | taskDispatch
  | tileDrainComplete
  | copyEngineComplete
  | copyEngineFault
  | launchFutureAllocate
  | quantumBoundary
  | quantumEnd
  | layerRoleChange
  | roleChangeEnd
  -- Fetch and interruption (R87, R104, R364-R366)
  | followTimeout
  | icacheParityError
  | budgetExpiry
  | preemptRequest
  -- Futures, messages and coherence between agents
  | futureFabricEvent
  | remoteWake
  | messageArrive
  | handlerAbort
  | scopeMissNotice
  | uLineCombine
  | l1dCoherenceRequest
  -- Slice caches (R212-R216)
  | sliceAgeTick
  | ageingSweepVisit
  | sliceSample
  | sampleOutcome
  | ktAdjust
  -- Capsules and collectives
  | capsuleAdoptTimer
  | capsuleDeliveryAck
  | collectiveComplete
  | reductionPartialSum
  -- Reliability (R392-R406)
  | periscopeRecord
  | prbaseWrite
  | prstatusWrite
  | registerWrite
  | vbusParityFail
  | linkCrcError
  | sramEccError
  | hbmEccError
  | regfileParityError
  | clusterContainment
  | schedulerWatchdogTimeout
  | poisonedTailReceived
  | engineWatchdogTimeout
  -- Edges (R414-R422)
  | atsInvalidation
  | atsResponse
  | hostReadCompletion
  | hostReadTimeout
  | ualinkInboundRequest
  | ualinkResponse
  | peerFence
  | fencedClear
  -- Partitions and management (R423-R427)
  | partitionStart
  | partitionStop
  | partitionRestart
  | mgmtSetModuleLimit
  | mgmtReadStandbyBuffer
  | mgmtSpdmAttestation
  | mgmtFirmwareRecovery
  | powerUp
  | pcieConfigRequest
  | unassignedEncoding
  | rootControllerContextSwitch
  | mainSidePowerDown
  deriving DecidableEq, Repr

/-- The step that acts on an event. -/
def Ev.instr : Ev → Instr
  | .sequencerRunCommand c => .sequencerRunCommand c
  | .matrixDeferredTrap c a r l => .matrixDeferredTrap c a r l
  | .waitctrSatisfied _ _ => .waitctrSatisfied
  | .fenceCmdComplete _ _ => .fenceCmdComplete
  | .streamResume _ _ => .streamResume
  | .apertureAdd _ _ _ _ => .apertureAdd
  | .apertureRead _ _ => .apertureRead
  | .hostPostedWrite _ _ _ _ => .hostPostedWrite
  | .hostBarRead _ _ _ => .hostBarRead
  | .lotteryDraw _ => .lotteryDraw
  | .clusterWakeComplete _ => .clusterWakeComplete
  | .clusterGate _ => .clusterGate
  | .coreGate _ => .coreGate
  | .coreWakeComplete _ => .coreWakeComplete
  | .heldRecordPush _ => .heldRecordPush
  | .coreSelectWork _ => .coreSelectWork
  | .tileFrameAllocate _ => .tileFrameAllocate
  | .tileFillComplete _ _ => .tileFillComplete
  | .tileFillError _ _ => .tileFillError
  | .taskDispatch _ => .taskDispatch
  | .tileDrainComplete _ _ => .tileDrainComplete
  | .copyEngineComplete _ _ => .copyEngineComplete
  | .copyEngineFault _ _ _ => .copyEngineFault
  | .launchFutureAllocate _ => .launchFutureAllocate
  | .quantumBoundary _ => .quantumBoundary
  | .quantumEnd _ => .quantumEnd
  | .layerRoleChange _ _ _ _ => .layerRoleChange
  | .roleChangeEnd _ _ => .roleChangeEnd
  | .followTimeout _ => .followTimeout
  | .icacheParityError _ _ => .icacheParityError
  | .budgetExpiry _ => .budgetExpiry
  | .preemptRequest _ _ => .preemptRequest
  | .futureFabricEvent _ _ _ => .futureFabricEvent
  | .remoteWake _ => .remoteWake
  | .messageArrive _ _ => .messageArrive
  | .handlerAbort _ _ => .handlerAbort
  | .scopeMissNotice _ _ => .scopeMissNotice
  | .uLineCombine _ => .uLineCombine
  | .l1dCoherenceRequest _ _ _ => .l1dCoherenceRequest
  | .sliceAgeTick _ => .sliceAgeTick
  | .ageingSweepVisit _ _ _ => .ageingSweepVisit
  | .sliceSample _ _ _ _ => .sliceSample
  | .sampleOutcome _ _ _ _ _ => .sampleOutcome
  | .ktAdjust _ _ _ => .ktAdjust
  | .capsuleAdoptTimer _ => .capsuleAdoptTimer
  | .capsuleDeliveryAck _ => .capsuleDeliveryAck
  | .collectiveComplete _ => .collectiveComplete
  | .reductionPartialSum _ _ => .reductionPartialSum
  | .periscopeRecord _ => .periscopeRecord
  | .prbaseWrite _ => .prbaseWrite
  | .prstatusWrite _ => .prstatusWrite
  | .registerWrite _ _ => .registerWrite
  | .vbusParityFail _ _ _ _ _ _ => .vbusParityFail
  | .linkCrcError _ _ _ _ _ => .linkCrcError
  | .sramEccError _ _ _ _ _ _ _ => .sramEccError
  | .hbmEccError _ _ _ => .hbmEccError
  | .regfileParityError _ _ _ => .regfileParityError
  | .clusterContainment _ _ => .clusterContainment
  | .schedulerWatchdogTimeout _ => .schedulerWatchdogTimeout
  | .poisonedTailReceived _ _ => .poisonedTailReceived
  | .engineWatchdogTimeout _ _ => .engineWatchdogTimeout
  | .atsInvalidation _ _ _ => .atsInvalidation
  | .atsResponse _ _ _ => .atsResponse
  | .hostReadCompletion _ _ _ => .hostReadCompletion
  | .hostReadTimeout _ _ => .hostReadTimeout
  | .ualinkInboundRequest _ _ _ _ => .ualinkInboundRequest
  | .ualinkResponse _ _ _ => .ualinkResponse
  | .peerFence _ => .peerFence
  | .fencedClear _ _ => .fencedClear
  | .partitionStart _ => .partitionStart
  | .partitionStop _ => .partitionStop
  | .partitionRestart _ => .partitionRestart
  | .mgmtSetModuleLimit _ => .mgmtSetModuleLimit
  | .mgmtReadStandbyBuffer => .mgmtReadStandbyBuffer
  | .mgmtSpdmAttestation _ => .mgmtSpdmAttestation
  | .mgmtFirmwareRecovery _ _ => .mgmtFirmwareRecovery
  | .powerUp => .powerUp
  | .pcieConfigRequest => .pcieConfigRequest
  | .rootControllerContextSwitch _ => .rootControllerContextSwitch
  | .mainSidePowerDown => .mainSidePowerDown

end Sys2Proof
end

