-- ==== Sys2Proof/Machine/State.lean ====
section
/-!
DEFINITION. The state of the device as plain data: tasks, cores, matrix units, clusters, slices, partitions, memories, the
reliability and edge units, and the state right after reset. INVENTORY.md lists every field with its rule.
-/

namespace Sys2Proof.Machine

/-! ### Memory (R2, R201, R202) -/

/-- Bytes by address. `cells` is strictly rising by address. A byte that no cell lists reads as 0 (DESIGN CHOICE, assumption 1), but inside a
range of `undef` (lowest, one past the highest, number) it reads as a free value that the manual leaves undefined; there a
cell may hold any byte, elsewhere a cell holds a byte other than 0. -/
structure Memory where
  cells : List Host.Cell := []
  undef : List (Nat × Nat × Nat) := []
  deriving DecidableEq, Repr, Inhabited

/-- The number of the youngest undefined range that covers an address. -/
def Memory.undefAt (m : Memory) (a : Nat) : Option Nat :=
  (m.undef.find? fun r => r.1 ≤ a && a < r.2.1).map (·.2.2)

/-- Addresses rise strictly from above `lo`. -/
def risingFrom (lo : Nat) : List Host.Cell → Bool
  | [] => true
  | c :: cs => lo ≤ c.1 && risingFrom (c.1 + 1) cs

/-- The canonical form: addresses rise strictly, and no cell outside an undefined range holds what an unlisted byte reads as. -/
def Memory.wf (m : Memory) : Bool :=
  risingFrom 0 m.cells && m.cells.all fun c => (m.undefAt c.1).isSome || c.2 != 0

/-! ### Names -/

/-- Role of a layer die (R10, R80). -/
inductive Role where
  | compute
  | memory
  | off
  deriving DecidableEq, Repr, Inhabited

/-- States of a task (R355). A task that is gone has no entry; a task whose EXIT has been applied is `retiring` until the
steps of retirement that go on without it have ended (R385). -/
inductive TaskSt where
  | retiring
  | queued
  | preparing
  | running
  | parked
  | fault
  | trapped
  deriving DecidableEq, Repr, Inhabited

/-- States of an allocated future entry (R33). -/
inductive FutSt where
  | empty
  | resolved
  | poisoned
  | cancelPending
  | cancelled
  deriving DecidableEq, Repr, Inhabited

/-- States of a tile that has a table entry (R73). -/
inductive TileSt where
  | filling
  | ready
  | draining
  deriving DecidableEq, Repr, Inhabited

/-- Modes of a tile (R26, R242). -/
inductive TileMode where
  | inp
  | out
  | inout
  | scratch
  deriving DecidableEq, Repr, Inhabited

/-- States of a command stream (R56). -/
inductive StreamSt where
  | run
  | wait
  | fault
  | error
  | stopped
  deriving DecidableEq, Repr, Inhabited

/-- States of an L1D line other than I and U (R205). -/
inductive L1St where
  | s
  | e
  | m
  deriving DecidableEq, Repr, Inhabited

/-- Format tag of an accumulator (R175). -/
inductive ZTag where
  | fp32
  | i32
  | fp64
  deriving DecidableEq, Repr, Inhabited

/-- A register as the lookahead rule names it (R125). -/
inductive RegName where
  | g (r : GReg)
  | v (r : VReg)
  | q (r : QReg)
  | sys (idx : BitVec 12)
  deriving DecidableEq, Repr

/-- Operators of a reduction at memory (R303). -/
inductive RedOp where
  | add
  | min (uns : Bool)
  | max (uns : Bool)
  | or
  | fadd (bf : Bool)
  deriving DecidableEq, Repr

/-! ### The matrix unit (R175 to R200) -/

/-- State of a claimed slot (R179). -/
inductive SlotSt where
  | empty
  | loading
  | full
  deriving DecidableEq, Repr, Inhabited

/-- What a slot carries beside its bytes (R178). -/
structure SlotTag where
  st : SlotSt := .empty
  fmt : BitVec 6 := 0
  rows : Nat := 0
  rbytes : Nat := 0
  deriving DecidableEq, Repr, Inhabited

/-- A latch (R188): the slot it was taken from, and how. -/
structure Latch where
  slot : SReg
  fmt : BitVec 6
  nmaj : Bool
  kofs : Nat
  klen : Nat
  deriving DecidableEq, Repr

/-- Where 64 KiB lie, as their translation said when a command issued (R186), with its ordering and the size of its page. -/
structure PageAt where
  page : Nat
  kind : BitVec 3
  pa : Nat
  ord : BitVec 2 := 0
  log : Nat := 16
  deriving DecidableEq, Repr

/-- A queued matrix command with the word's address, the operand values read at issue (R182) and its translations (R186);
`stale` once a TLBINV has dropped one of them while the queue was held. -/
structure MCmd where
  instr : Instr
  addr : Word
  a : Word := 0
  b : Word := 0
  scale : Word := 0
  vec : Vec := 0
  pages : List PageAt := []
  stale : Bool := false
  deriving DecidableEq, Repr

/-- A byte that an MSTZ wrote over (R198): its space (0 global memory) and key, and the values before and after. -/
structure ShadeByte where
  space : BitVec 2
  key : Nat
  old : Byte
  new : Byte
  deriving DecidableEq, Repr

/-- A matrix unit. `img` holds the slot and accumulator bytes in the layout of R199. `sIssue`, `zIssue` and `latchIssue` are
the issue view; `sRun`, `zRun` and `latchRun` are the run state (R179). `sclaim` and `zclaim` are the claims as the issue view has them,
`sHas` and `zHas` as the commands that have run leave them (R183). `shade` lists, youngest first, bytes that an MSTZ has
replaced and that its task's loads may still see (R198). -/
structure Matrix where
  bound : BitVec 32 := 0
  sclaim : BitVec 16 := 0
  zclaim : BitVec 16 := 0
  sHas : BitVec 16 := 0
  zHas : BitVec 16 := 0
  sIssue : Vector SlotTag 16 := Vector.replicate 16 {}
  sRun : Vector SlotTag 16 := Vector.replicate 16 {}
  zIssue : Vector ZTag 16 := Vector.replicate 16 .fp32
  zRun : Vector ZTag 16 := Vector.replicate 16 .fp32
  latchIssue : Option Latch := none
  latchRun : Option Latch := none
  queue : List MCmd := []
  held : Option Cause := none
  pendingTrap : Option (Cause × Word) := none
  shadowCol : BitVec 4 := 0
  img : Memory := {}
  shade : List ShadeByte := []
  deriving DecidableEq, Repr, Inhabited

/-! ### Tasks -/

/-- Where something lies that has left its core (R68, R75, R76, R82, R238): nowhere else; in system frames of the cluster, from a first
frame; at an offset of the partition spill area, or of the partition context area; or in a partition image. -/
inductive Room where
  | core
  | frames (f : Nat)
  | spillArea (off : Nat)
  | ctxArea (off : Nat)
  | image
  deriving DecidableEq, Repr, Inhabited

/-- A staged line (R252): the physical line, the VA of its first byte as its stores named it, its byte mask and its bytes. -/
structure StagedLine where
  line : Nat
  va : Word := 0
  mask : BitVec 64
  data : BitVec 512
  way : Nat := 0
  deriving DecidableEq, Repr

/-- A store of a task, from a key on, that its cluster's copy engine may not see yet (R30, R251, R260): its length and the bytes that it
replaced. -/
structure Unseen where
  key : Nat
  len : Nat
  old : Nat
  deriving DecidableEq, Repr

/-- State of a spill map entry that is not EMPTY (R236). -/
inductive SpillSt where
  | row (r : Nat)
  | reserve
  | image (v : Vec)
  deriving DecidableEq, Repr

/-- An open shadow of the lookahead rule (R125). -/
structure Shadow where
  left : Nat
  regs : List RegName
  deriving DecidableEq, Repr

/-- The capsule context of a task (R331 to R339). -/
structure Cap where
  block : Word := 0
  foot : Word := 0
  ret : Word := 0
  expected : Nat := 0
  adopting : Bool := false
  save : List Word := []
  pending : Option (Word × Nat × Word) := none
  instrs : Nat := 0
  stores : Nat := 0
  steps : Nat := 0
  displaced : Bool := false
  deriving DecidableEq, Repr, Inhabited

/-- The return record (R339). -/
structure RetRec where
  res0 : Word := 0
  res1 : Word := 0
  res2 : Word := 0
  how : BitVec 2 := 0
  steps : BitVec 7 := 0
  deriving DecidableEq, Repr, Inhabited

/-- A buffered send of a handler task (R318). -/
structure Send where
  dest : Word
  msg : Message
  deriving DecidableEq, Repr

/-- A task (R37, R116, R119, R120, R355). Tid 0 is no task. `away`, `imgAway` and `mxAway` say where its context, its spill image and
its matrix state lie when they have left their core (R75, R76, R82, R238). `ctxBad` says that an error destroyed the context meanwhile (R363). `unseen` lists,
youngest first, its stores since it last made them visible to its copy engine, and `relStaged` the lines and scopes of its staged release
writes (R252). -/
structure Task where
  tid : BitVec 32 := 0
  pid : BitVec 2 := 0
  asid : BitVec 16 := 0
  st : TaskSt := .queued
  pc : Word := 0
  g : Vector Word 64 := Vector.replicate 64 0
  v : Vector Vec 32 := Vector.replicate 32 0
  q : Vector Word 8 := Vector.replicate 8 0
  fflags : BitVec 7 := 0
  self : Word := 0
  mclk : BitVec 48 := 0
  budget : BitVec 32 := 0
  spawned : BitVec 32 := 0
  cause : Cause := 0
  tval : Word := 0
  tpc : Word := 0
  thandler : Word := 0
  nuddef : BitVec 6 := 0
  smiss : BitVec 32 := 0
  laviol : BitVec 32 := 0
  lost : BitVec 2 := 0
  capsule : Bool := false
  intrap : Bool := false
  det : Bool := false
  replayable : Bool := false
  tw : Vector Word 8 := Vector.replicate 8 0
  resultSlot : Word := 0
  launched : Option (BitVec 2) := none
  tag : BitVec 32 := 0
  parkCause : Cause := 0
  parkArg : Word := 0
  trapTval : Word := 0
  core : BitVec 16 := 0
  cl : BitVec 8 := 0
  slot : Option (BitVec 2) := none
  away : Room := .core
  imgAway : Room := .core
  mxAway : Room := .core
  ctxBad : Bool := false
  desched : Nat := 0
  dispatched : Nat := 0
  ran : Nat := 0
  rollbacks : Nat := 0
  cap : Cap := {}
  ret : RetRec := {}
  spill : List (Nat × SpillSt) := []
  staged : List StagedLine := []
  stagedCore : Option (BitVec 16) := none
  unseen : List Unseen := []
  relStaged : List (Nat × BitVec 3) := []
  shadows : List Shadow := []
  retired : Nat := 0
  mctx : Option Matrix := none
  reissue : List MCmd := []
  msg : Option Message := none
  sends : List Send := []
  started : Bool := false
  retiring : Nat := 0
  detSpawn : Option (BitVec 6 × List Word) := none
  deriving DecidableEq, Repr, Inhabited

/-! ### Cores -/

/-- Translation entry of any TLB level (R218, R221, R223). `page` is VA shifted right by `log`. -/
structure TlbEnt where
  pid : BitVec 2
  asid : BitVec 16
  log : Nat
  page : Nat
  kind : BitVec 3
  pa : Nat
  ord : BitVec 2
  perms : BitVec 7
  deriving DecidableEq, Repr

/-- An L1D line (R204, R205, R212). -/
structure L1Line where
  line : Nat
  way : Nat
  st : L1St
  due : BitVec 32 := 0
  code : BitVec 6 := 0
  streaming : Bool := false
  stale : Bool := false
  deriving DecidableEq, Repr

/-- A U line, or a pending partial of one (R206). -/
structure ULine where
  line : Nat
  op : RedOp
  size : Nat
  mask : BitVec 16
  data : BitVec 512
  live : Bool := true
  way : Nat := 0
  due : BitVec 32 := 0
  streaming : Bool := false
  stale : Bool := false
  deriving DecidableEq, Repr

/-- An instruction-cache line with the bytes it was filled with (R86). -/
structure ICLine where
  asid : BitVec 16
  va : Nat
  bytes : List Byte
  deriving DecidableEq, Repr

/-- A reduction of a task with DET set, logged until its quantum ends; its entry stands in the partition spill area (R304, R423). -/
structure RedLog where
  key : Nat
  op : RedOp
  size : Nat
  b : Word
  room : Room := .core
  deriving DecidableEq, Repr

/-- A request that a DET task made, served when the quantum ends (R78). -/
inductive DetReq where
  | spawn (tid : BitVec 32)
  | wake (tid : BitVec 32)
  | steal
  | expire (tid : BitVec 32)
  deriving DecidableEq, Repr

/-- A core (R17, R66, R67, R75, R77, R104, R118, R204, R211, R223). -/
structure Core where
  id : BitVec 16 := 0
  awake : Bool := true
  waking : Bool := false
  halted : Bool := false
  running : BitVec 32 := 0
  slots : Vector (BitVec 32) 4 := Vector.replicate 4 0
  deque : List (BitVec 32) := []
  blocks : List (List (BitVec 32) × Room) := []
  prep : List (BitVec 32) := []
  mx : Matrix := {}
  l1d : List L1Line := []
  ulines : List ULine := []
  icache : List ICLine := []
  tlb : List TlbEnt := []
  cclk : BitVec 32 := 0
  msgSeq : BitVec 16 := 0
  redtree : Word := 0
  leader : Option (BitVec 16) := none
  members : List (BitVec 16) := []
  followAt : Option (Word × Nat) := none
  retiredDet : Nat := 0
  boundary : Bool := false
  qlog : List RedLog := []
  detReqs : List DetReq := []
  shadowErr : List (Nat × Bool × Nat) := []
  mxShadowErr : List (Nat × Nat × Bool × Nat) := []
  deriving DecidableEq, Repr, Inhabited

/-! ### Clusters -/

/-- A waiter of a future entry; `dev` is the waiter's device (R33, R296). -/
structure Waiter where
  dev : BitVec 10
  tid : BitVec 32
  deriving DecidableEq, Repr

/-- An entry of a future table with its tag (R33, R285). -/
structure Fut where
  slot : BitVec 9
  ent : BitVec 9
  gen : BitVec 16
  st : FutSt := .empty
  val : Word := 0
  refs : BitVec 32 := 1
  producer : BitVec 32 := 0
  live : Bool := true
  waiters : List Waiter := []
  used : Nat := 0
  pid : BitVec 2 := 0
  deriving DecidableEq, Repr

/-- A lease (R73, R74): a page's translation, and whether a TLBINV revoked it. -/
structure Lease where
  va : Nat
  ent : TlbEnt
  revoked : Bool := false
  deriving DecidableEq, Repr

/-- A run of bytes of a tile: VA, frame offset and length (R239). -/
structure Seg where
  va : Word
  off : Nat
  len : Nat
  deriving DecidableEq, Repr

/-- One side of a copy: global VA or cluster memory offset (R246). -/
inductive Place where
  | va (a : Word)
  | cm (off : Nat)
  deriving DecidableEq, Repr

/-- A tile-table entry (R73). `todo` are the runs that its fill or drain has left; `paused` are the pages that stop it. -/
structure Tile where
  frame : Nat
  frames : Nat
  st : TileSt
  mode : TileMode
  va : Word
  bytes : Nat
  segs : List Seg
  asid : BitVec 16
  owner : BitVec 32
  leases : List Lease := []
  arg : Bool := true
  failed : Bool := false
  paused : List Word := []
  freeOp : Option (BitVec 32) := none
  todo : List (Place × Place × Nat) := []
  deriving DecidableEq, Repr

/-- An engine operation of a cluster (R249). Its remaining runs are (source, destination, length). -/
structure EngOp where
  id : BitVec 32
  tid : BitVec 32
  pid : BitVec 2
  asid : BitVec 16
  runs : List (Place × Place × Nat)
  bytes : Nat
  ctr : Option Word
  amt : Word
  push : Option (Vector Word 8)
  code : BitVec 6
  paused : Option (Word × Cause) := none
  ended : Bool := false
  drain : Option Nat := none
  stream : Option (BitVec 2) := none
  tag : BitVec 32 := 0
  deriving DecidableEq, Repr

/-- A pending fault of the L2 TLB (R224). -/
structure PendFault where
  pid : BitVec 2
  asid : BitVec 16
  page : Nat
  cause : Cause
  deriving DecidableEq, Repr

/-- An entry of the class table (R38). -/
structure ClassEnt where
  entry : Word := 0
  prio : BitVec 2 := 0
  budget : BitVec 8 := 0
  enable : Bool := false
  mask : Bool := false
  route : BitVec 2 := 0
  deriving DecidableEq, Repr, Inhabited

/-- A cached shape record (R30). -/
structure RcEnt where
  asid : BitVec 16
  va : Word
  words : List Word
  deriving DecidableEq, Repr

/-- What a report says of the task that it concerns (R361). -/
structure About where
  tid : BitVec 32 := 0
  handle : Word := 0
  asid : BitVec 16 := 0
  lqid : BitVec 12 := 0
  mclk : BitVec 48 := 0
  deriving DecidableEq, Repr, Inhabited

/-- What an internal access that met a translation fault, or a gated cluster, still has to do (R65, R430). `serves` is the task that a fault
record of a counter add names (R369); `id` is the message that brought an event; `afterSlot` is a done-counter add that comes after a
future's result slot (R270). -/
inductive IntAcc where
  | ctrAdd (w : About) (serves : BitVec 32) (asid : BitVec 16) (va n : Word)
  | resultSlot (asid : BitVec 16) (va fut : Word)
  | event (handle : Word) (ev : FEvent) (id : Option (BitVec 32))
  | afterSlot (handle : Word) (w : About) (serves : BitVec 32) (asid : BitVec 16) (va : Word)
  | watchEval (key : Nat)
  | retire (tid : BitVec 32)
  deriving DecidableEq, Repr

/-- A run of units that something holds: its first unit and its length (R68, R75, R423). -/
structure Run where
  at_ : Nat
  len : Nat
  deriving DecidableEq, Repr

/-- A cluster (R16, R33, R65 to R75, R224, R249, R317). `sysFrames` are the runs of system frames in use, and
`msgFrames` those that hold its class queues. -/
structure Cluster where
  id : BitVec 8 := 0
  awake : Bool := true
  waking : Bool := false
  ready : List (BitVec 32) := []
  futs : List Fut := []
  gens : List (Nat × BitVec 16) := []
  kept : List (BitVec 9 × BitVec 16 × List Waiter) := []
  standing : Bool := false
  tiles : List Tile := []
  sysFrames : List Run := []
  ops : List EngOp := []
  rcache : List RcEnt := []
  pend : List PendFault := []
  tlb : List TlbEnt := []
  classTab : Vector ClassEnt 16 := Vector.replicate 16 {}
  live : BitVec 16 := 0
  msgs : List Message := []
  msgFrames : List Nat := []
  held : List (BitVec 32 × BitVec 16) := []
  launchWait : List (BitVec 32) := []
  meanTimes : List (BitVec 2 × List Nat) := []
  intAcc : List (BitVec 2 × IntAcc) := []
  deriving DecidableEq, Repr, Inhabited

/-! ### Slices -/

/-- A slice-cache line or replica (R207, R208, R212). `code` is the NUD code last recorded with it; a replica carries its victim's. -/
structure SLine where
  line : Nat
  way : Nat
  due : BitVec 32 := 0
  streaming : Bool := false
  stale : Bool := false
  dirty : Bool := false
  replica : Bool := false
  code : BitVec 6 := 0
  tenant : BitVec 16 := 0
  pid : BitVec 2 := 0
  deriving DecidableEq, Repr

/-- A tenant's scale and counts (R215). -/
structure Tenant where
  asid : BitVec 16
  pid : BitVec 2
  kt : BitVec 16
  samples : Nat := 0
  unused : Nat := 0
  deriving DecidableEq, Repr

/-- An outstanding sample (R216). -/
structure Sample where
  line : Nat
  asid : BitVec 16
  pid : BitVec 2
  due : BitVec 32
  deriving DecidableEq, Repr

/-- What a watch entry does when it is due (R310). -/
inductive WatchAct where
  | wait (tid : BitVec 32)
  | arm (asid : BitVec 16) (target : BitVec 8) (recva : Word) (rec : Vector Word 8)
  deriving DecidableEq, Repr

/-- A watch entry (R310). `key` is the counter's physical place. -/
structure Watch where
  key : Nat
  t : Word
  act : WatchAct
  arrival : Word
  pid : BitVec 2
  deriving DecidableEq, Repr

/-- A slice (R207 to R216, R225, R310). `dir` are the lines that its directory has an entry for (R207): lines homed here that an L1D or a
replica holds. The core of each copy and the layers of the replicas stand once, in the L1Ds and the slices themselves. -/
structure Slice where
  id : BitVec 6 := 0
  age : BitVec 32 := 0
  served : Nat := 0
  lines : List SLine := []
  dir : List Nat := []
  tenants : List Tenant := []
  hinted : Nat := 0
  samples : List Sample := []
  watch : List Watch := []
  marks : List (Nat × Watch) := []
  arrivals : Word := 0
  pins : List (TlbEnt × Nat) := []
  tlb : List TlbEnt := []
  deriving DecidableEq, Repr, Inhabited

/-! ### Partitions -/

/-- A stream descriptor (R42). -/
structure StreamDesc where
  base : Word := 0
  submit : Word := 0
  consumed : Word := 0
  status : Word := 0
  resume : Word := 0
  asid : BitVec 16 := 0
  log2n : Nat := 0
  enable : Bool := false
  roleOk : Bool := false
  deriving DecidableEq, Repr, Inhabited

/-- A command stream (R42 to R56). `loopAt` is the LOOP that holds the loop register, `count` what a LAUNCHN in progress has read,
`owed` a status block not yet written, `resumeTo` the state that replay-all brings a stream in FAULT back to, `idle` says that
ERROR came while no command was being served, `unread` that RESUME is still to be read, and `roleDone` that the sequence of its ROLE has
ended. -/
structure Stream where
  desc : StreamDesc := {}
  cmd : Word := 0
  loopReg : Nat := 0
  skip : Nat := 0
  st : StreamSt := .stopped
  cause : Cause := 0
  sub : Nat := 0
  tag : BitVec 32 := 0
  resumes : Word := 0
  consumed : Word := 0
  hold : Option Word := none
  loopAt : Word := 0
  count : Option Nat := none
  owed : Bool := false
  resumeTo : StreamSt := .run
  idle : Bool := false
  unread : Bool := false
  roleDone : Bool := false
  tasks : List (BitVec 32) := []
  copies : List (BitVec 32) := []
  waiting : Option Instr := none
  deriving DecidableEq, Repr, Inhabited

/-- A launch queue (R55, R59). -/
structure LaunchQ where
  enable : Bool := false
  tickets : BitVec 12 := 0
  recs : List (BitVec 32) := []
  started : List (BitVec 32) := []
  deriving DecidableEq, Repr, Inhabited

/-- The system-level registers but REDTREE (R121). -/
structure SysRegs where
  ftlimit : Word := 512
  fspill : Word := 0
  trapring : Word := 0
  faultring : Word := 0
  quant : Word := 4096
  detctl : Word := 0
  maxmsg : Word := 4
  classtab : Word := 0
  adoptdly : Word := 2000
  tenscale : Word := 0x10
  tencap : Word := 0x0400_0000_8000
  lotseed : Word := 0
  budgetmax : Word := 0x9C_000F_8000
  watcharea : Word := 0
  deriving DecidableEq, Repr, Inhabited

/-- An access tracked for DET tasks (R280). `wOp` is the operator and format of the epoch's writes where they are commuting updates of
one kind. -/
structure DetLine where
  line : Nat
  writer : BitVec 32 := 0
  wEpoch : Nat := 0
  wOp : Option (Nat × Nat) := none
  reader : Option (BitVec 32) := none
  many : Bool := false
  rEpoch : Nat := 0
  deriving DecidableEq, Repr

/-- An outstanding collective of one task (R320, R321). `named` are the bytes of its buffers (VA and length), `spoiled` those that
its task stored to meanwhile (R276); `waiting` says that its task parks at COLLWAIT, `paused` that a page stops the engine,
and `moved` that its bytes have left and that only answers of other devices are outstanding. -/
structure CollPart where
  tid : BitVec 32
  pid : BitVec 2
  asid : BitVec 16
  id : BitVec 32
  desc : Word
  op : Nat
  rop : Nat
  root : Nat
  group : List (BitVec 16)
  rank : Nat
  ctag : Word
  fmt : Nat
  ext : List Nat
  src : List Word
  dst : List Word
  ctr : Word
  named : List (Word × Nat) := []
  spoiled : List (Word × Nat) := []
  waiting : Bool := false
  paused : Bool := false
  moved : Bool := false
  outcome : Option Cause := none
  finished : Bool := false
  deriving DecidableEq, Repr

/-- Where a partition context switch in progress writes its image (R371, R423): an address space and a VA, or the partition context
area; `key` is the number of the image. -/
structure SaveArea where
  asid : BitVec 16 := 0
  va : Word := 0
  phys : Bool
  key : Nat
  deriving DecidableEq, Repr

/-- A partition (R121, R365, R423, R424). `saveTo` is the area of a context switch in progress. `spRuns` and `ctxRuns` are the runs of
bytes in use of its spill area and of its context area. -/
structure Partition where
  run : Bool := false
  cause : Cause := 0
  va : Word := 0
  prec : Word := 0
  sysasid : BitVec 16 := 0
  nstream : Nat := 0
  scratchw : Nat := 0
  collen : Bool := false
  nuddef : BitVec 6 := 0
  grace : Nat := 0
  layers : BitVec 16 := 0
  astab : Nat := 0
  ctxbase : Nat := 0
  ctxsize : Nat := 0
  spbase : Nat := 0
  spsize : Nat := 0
  lqtab : Nat := 0
  cells : BitVec 1536 := 0
  regs : SysRegs := {}
  streams : Vector Stream 4 := Vector.replicate 4 {}
  queues : Vector LaunchQ 64 := Vector.replicate 64 {}
  x : BitVec 32 := 0
  quantum : Nat := 0
  quantNow : Nat := 4096
  trapSeq : Word := 0
  faultSeq : Word := 0
  preempt : Bool := false
  stopping : Bool := false
  detMem : Option Memory := none
  detFuts : List (BitVec 8 × List Fut) := []
  detLines : List DetLine := []
  spRuns : List Run := []
  ctxRuns : List Run := []
  saveTo : Option SaveArea := none
  deriving DecidableEq, Repr, Inhabited

/-- A saved partition image (R371): its size, the number of its bytes, and what it holds. -/
structure Image where
  size : Nat
  key : Nat
  pid : BitVec 2
  part : Partition
  tasks : List Task
  cores : List Core
  clusters : List Cluster
  cm : List Host.Cell
  watch : List (BitVec 6 × Watch)
  capWaits : List (Nat × BitVec 32)
  deriving DecidableEq, Repr

/-! ### The device -/

/-- An outstanding host read or remote request of a task (R417, R421). `seq` is what the task had retired when it issued,
`elem` the element of a vector that it serves, and `fut` says that it asks a future table (`va` is then the handle and `n` the
operation); `ord` is its page's ordering attribute, and `fetch` says that it reads an instruction. `epoch` is the quantum in which its task
last found no answer (R279). -/
structure OutReq where
  tid : BitVec 32
  dev : Option (BitVec 10)
  va : Word
  n : Nat
  store : Bool := false
  reply : Option (RemoteReply) := none
  lost : Bool := false
  seq : Nat := 0
  elem : Nat := 0
  fut : Bool := false
  ord : BitVec 2 := 0
  fetch : Bool := false
  epoch : Nat := 0
  deriving DecidableEq, Repr

/-- An ATS request in progress or its answer (R418). -/
structure AtsReq where
  tid : BitVec 32
  va : Word
  answer : Option AtsAnswer := none
  deriving DecidableEq, Repr

/-- What this device sends to another over UALink beside memory requests (R284, R296, R316, R322). -/
inductive Fabric where
  | future (handle : Word) (ev : FEvent) (id : BitVec 32)
  | reply (tid : BitVec 32) (data : BitVec 512)
  | wake (tid : BitVec 32)
  | message (cl : BitVec 8) (m : Message)
  | partialSum (core : BitVec 16) (id : BitVec 32)
  deriving DecidableEq, Repr

/-- Status of a PCIe completion (R44, R427). -/
inductive CplStatus where
  | success
  | unsupported
  | retry
  deriving DecidableEq, Repr, Inhabited

/-- Periscope (R392, R393). The standby buffer holds the last 64 records, oldest first. -/
structure Periscope where
  prbase : Word := 0
  prtail : Word := 0
  prhead : Word := 0
  overflow : Bool := false
  dropcnt : BitVec 32 := 0
  prctl : Word := 3
  prseq : Word := 0
  standby : List (Word × PRecord) := []
  deriving DecidableEq, Repr, Inhabited

/-- What the management controller answers on its own port (R425): the reliability registers with the standby buffer, or a
measurement with its two signatures. -/
inductive MgmtReply where
  | standby (regs : List Word) (records : List (Word × PRecord))
  | measurement (nonce rsa slh : Word)
  deriving DecidableEq, Repr

/-- The pod control block (R422). -/
structure Pod where
  keybase : Word := 0
  keylog2n : BitVec 5 := 0
  rmaxout : BitVec 10 := 512
  rtimeout : BitVec 16 := 2000
  fenced : BitVec 1024 := 0
  deriving DecidableEq, Repr, Inhabited

/-- A vertical port that lost a lane, or that is disabled (R398, R399). -/
structure VPort where
  layer : BitVec 2
  cluster : BitVec 6
  port : BitVec 7
  swaps : List (BitVec 11) := []
  disabled : Bool := false
  deriving DecidableEq, Repr

/-- Whose turn is next when no event is pending. -/
inductive Turn where
  | core (c : BitVec 16)
  | stream (pid n : BitVec 2)
  /-- An event that waits for a condition looks again. -/
  | poll (e : Ev)
  deriving DecidableEq, Repr

/-- The whole device. `poison` and `latent` list physical lines; `localPoison` lists lines of the local stores, numbered by
`localLine`; `latent` and `localLatent` list errors that no access has met. `completions`, `pcieErr`, `peerReplies`, `mgmtOut`, `hostWrites`,
`sentRemote`, `fabricOut`, `msix` and `pri` hold what the device has sent, and `poisonOut` the bytes of its writes that left poisoned (page
kind, address and offsets; R250). `drains` names the layers whose role is changing, `drainFull` says that the change has reported a full future spill area, and
`waits` names the events that wait for a condition. `core` is the core whose turn it is and `me` is the task it runs (tid 0: none); the other cores and tasks
stand in `cores` and `tasks`. -/
structure State where
  me : Task := {}
  core : Core := {}
  tasks : List Task := []
  cores : List Core := []
  clusters : List Cluster := []
  slices : List Slice := []
  parts : Vector Partition 4 := Vector.replicate 4 {}
  mem : Memory := {}
  cm : Memory := {}
  sp : Memory := {}
  ls : Memory := {}
  poison : List Nat := []
  latent : List Nat := []
  localPoison : List Nat := []
  localLatent : List Nat := []
  nextTid : BitVec 32 := 1
  nextOp : BitVec 32 := 1
  roles : Vector Role 4 := Vector.replicate 4 .off
  slow : BitVec 4 := 0
  limit : Nat := 2000
  throttle : Nat := 16
  harvested : BitVec 1536 := 0
  peri : Periscope := {}
  pod : Pod := {}
  msix : List (BitVec 12) := []
  outs : List OutReq := []
  ats : List AtsReq := []
  pri : List (BitVec 16 × Word) := []
  hostWrites : List (Word × List Byte) := []
  sentRemote : List (BitVec 10 × BitVec 26 × Word × PeerOp) := []
  fabricOut : List (BitVec 10 × Fabric) := []
  colls : List CollPart := []
  capWaits : List (Nat × BitVec 32) := []
  completions : List (BitVec 16 × CplStatus × List Byte) := []
  pcieErr : List (BitVec 16) := []
  peerReplies : List (BitVec 10 × BitVec 26 × Word × RemoteReply) := []
  mgmtOut : List MgmtReply := []
  msixTab : Memory := {}
  vports : List VPort := []
  lost : BitVec 4 := 0
  stopped : Bool := false
  recovery : Bool := false
  power : Nat := 1
  deviceId : BitVec 10 := 0
  peers : List (BitVec 10) := []
  images : List Image := []
  poisonOut : List (BitVec 3 × Word × List Nat) := []
  drains : BitVec 4 := 0
  drainFull : Bool := false
  lastWake : Nat := 0
  fwOk : Bool := true
  waits : List Ev := []
  agenda : List Ev := []
  turns : List Turn := []
  ev : Option Ev := none
  clock : Nat := 0
  stamp : Nat := 0
  freeCount : Nat := 0
  deriving DecidableEq, Repr, Inhabited

/-- Why a step has no next state. -/
inductive Fault where
  /-- Raised by every step but a management step of a device that has stopped after LINK-FAIL (R396): the manual says that the
  device stops, and gives it nothing further. Safe. -/
  | deviceStopped
  deriving DecidableEq, Repr

/-- Why a step is refused. -/
inductive Refusal where
  /-- Raised by an arm of `exec` whose meaning is not written. Safe: nothing can be proved of such a step. -/
  | notModelled (mnemonic : String)
  deriving DecidableEq, Repr

/-- The device right after reset: power has come up to stage 1 (R427), every register at the value of its map. -/
def State.reset : State := {}

end Sys2Proof.Machine
end

