-- ==== Sys2Proof/Machine/Base.lean ====
section
/-!
DEFINITION. Homes and accessors: lists kept by number, bytes of a memory, registers of the running task, tasks, cores, clusters,
slices and partitions by their ids, and how an instruction can end.
-/

namespace Sys2Proof.Machine

/-! ### Lists by number -/

/-- The entry with number `n`. -/
def findBy {α : Type} (k : α → Nat) (n : Nat) (l : List α) : Option α := l.find? fun y => k y == n

/-- Puts an entry in its place in a list that rises by number, over an entry of the same number. -/
def putBy {α : Type} (k : α → Nat) (x : α) : List α → List α
  | [] => [x]
  | y :: ys => if k x < k y then x :: y :: ys else if k x = k y then x :: ys else y :: putBy k x ys

/-- Takes the entry with number `n` out. -/
def dropBy {α : Type} (k : α → Nat) (n : Nat) (l : List α) : List α := l.filter fun y => k y != n

/-- The list with entry `n` replaced. -/
def setNth {α : Type} (n : Nat) (x : α) (l : List α) : List α := l.set n x

/-! ### Bytes of a memory (R2) -/

/-- The cell list with the byte at `a` set; a byte that need not be kept is left out. -/
def putCell (keep : Bool) (a : Nat) (b : Byte) : List Host.Cell → List Host.Cell
  | [] => if keep then [(a, b)] else []
  | c :: cs =>
    if a < c.1 then (if keep then (a, b) :: c :: cs else c :: cs)
    else if a = c.1 then (if keep then (a, b) :: cs else cs)
    else c :: putCell keep a b cs

/-- The cell that lists an address. -/
def findCell (a : Nat) : List Host.Cell → Option Byte
  | [] => none
  | c :: cs => if c.1 = a then some c.2 else findCell a cs

/-- What a byte that no cell lists reads as: 0 (DESIGN CHOICE, assumption 1), or the free value of an undefined range. -/
def Memory.unlisted (m : Memory) (a : Nat) : Byte :=
  match m.undefAt a with
  | some tag => Config.freeByte tag a
  | none => 0

/-- The byte at an address. -/
def Memory.get (m : Memory) (a : Nat) : Byte :=
  match findCell a m.cells with
  | some b => b
  | none => m.unlisted a

/-- Sets one byte. -/
def Memory.set (m : Memory) (a : Nat) (b : Byte) : Memory :=
  { m with cells := putCell (b != 0 || (m.undefAt a).isSome) a b m.cells }

/-- The little-endian value of `n` bytes. -/
def Memory.read (m : Memory) (a : Nat) : Nat → Nat
  | 0 => 0
  | n + 1 => (m.get a).toNat + 256 * m.read (a + 1) n

/-- Writes the low `n` bytes of a value. -/
def Memory.write (m : Memory) (a : Nat) : Nat → Nat → Memory
  | 0, _ => m
  | n + 1, v => (m.set a (BitVec.ofNat 8 v)).write (a + 1) n (v / 256)

/-- Writes the bytes of a value that a mask names, bit i for byte i. -/
def Memory.writeMasked (m : Memory) (a : Nat) : Nat → Nat → Nat → Memory
  | 0, _, _ => m
  | n + 1, mask, v =>
    (if mask % 2 = 1 then m.set a (BitVec.ofNat 8 v) else m).writeMasked (a + 1) n (mask / 2) (v / 256)

/-- The bytes of a range become undefined (R73, R82, R242). -/
def Memory.forget (m : Memory) (lo hi tag : Nat) : Memory :=
  { cells := m.cells.filter fun c => !(lo ≤ c.1 && c.1 < hi)
    undef := (lo, hi, tag) :: m.undef.filter fun r => !(lo ≤ r.1 && r.2.1 ≤ hi) }

/-- The cells of a range are dropped: outside undefined ranges the bytes read 0. -/
def Memory.clear (m : Memory) (lo hi : Nat) : Memory :=
  { m with cells := m.cells.filter fun c => !(lo ≤ c.1 && c.1 < hi) }

/-- The listed cells of a range. -/
def Memory.slice (m : Memory) (lo hi : Nat) : List Host.Cell := m.cells.filter fun c => lo ≤ c.1 && c.1 < hi

/-- Lines of n bytes. -/
def linesOf (key n : Nat) : List Nat := (List.range ((key % 64 + n + 63) / 64)).map fun i => key / 64 + i

/-- Keys of the local stores of a core (R201). -/
def cmKey (cl : BitVec 8) (off : Nat) : Nat := 2 ^ 23 * cl.toNat + off
def spKey (c : BitVec 16) (off : Nat) : Nat := 2 ^ 17 * c.toNat + off
def lsKey (c : BitVec 16) (off : Nat) : Nat := 2 ^ 13 * c.toNat + off

/-- Lines of the local stores, by store: 0 cluster memory, 1 scratchpad, 2 lane slices. -/
def localLine (store : Nat) (addr : Nat) : Nat := 2 ^ 40 * store + addr / 64

/-! ### How an instruction can end (R5, R355 to R357) -/

/-- Kinds of access (R6, R369). -/
inductive Access where
  | read
  | write
  | exec
  | atomic
  deriving DecidableEq, Repr

/-- Why an instruction does not simply go on at the next word. -/
inductive Stop where
  /-- A precise trap: the resume point is the instruction itself. -/
  | trap (c : Cause) (tval : Word)
  /-- A trap taken after the instruction completed: the resume point is the next word. -/
  | trapDone (c : Cause) (tval : Word)
  /-- A trap with a resume point of its own (R335, R196). -/
  | trapAt (c : Cause) (tval at_ : Word)
  /-- A translation fault: the task parks in FAULT with a fault record (R220, R369). -/
  | fault (c : Cause) (va : Word) (acc : Access) (source : Nat)
  /-- The task parks; the instruction issues again when it resumes. -/
  | park (c : Cause) (arg : Word)
  /-- The task parks at the next word. -/
  | parkNext (c : Cause) (arg : Word)
  /-- The instruction waits on its core and issues again at the next turn. -/
  | stall
  /-- The task no longer runs on this core; nothing is left to do. -/
  | gone
  deriving DecidableEq, Repr

/-- An action on the state that may stop. -/
abbrev Act := EStateM Stop State

/-- Stops with a precise trap. -/
def trap {α : Type} (c : Cause) (tval : Word) : Act α := throw (.trap c tval)

/-- Changes the state by a function. -/
def upd (f : State → State) : Act Unit := modify f

/-- Reads from the state. -/
def look {α : Type} (f : State → α) : Act α := do return f (← get)

/-- A fresh number for a free value; the counter moves on (DESIGN CHOICE, assumption 3). -/
def fresh : Act Nat := modifyGet fun s => (s.freeCount, { s with freeCount := s.freeCount + 1 })

/-- Stops with a precise trap whose TVAL the manual does not state: a free value (DESIGN CHOICE, assumption 11). -/
def trapFree {α : Type} (c : Cause) : Act α := do throw (.trap c (Config.freeWord (← fresh)))

/-! ### The running task and its registers (R116) -/

/-- An element of a register file. -/
def rd {α : Type} {n w : Nat} (v : Vector α n) (r : BitVec w) (h : 2 ^ w ≤ n := by decide) : α :=
  v[r.toNat]'(Nat.lt_of_lt_of_le r.isLt h)

/-- The register file with an element replaced. -/
def wr {α : Type} {n w : Nat} (v : Vector α n) (r : BitVec w) (x : α) (h : 2 ^ w ≤ n := by decide) : Vector α n :=
  v.set r.toNat x (Nat.lt_of_lt_of_le r.isLt h)

/-- g0 reads 0 (R116). -/
def Task.readG (t : Task) (r : GReg) : Word := if r = 0 then 0 else rd t.g r

/-- g0 discards writes (R116). -/
def Task.writeG (t : Task) (r : GReg) (x : Word) : Task := { t with g := if r = 0 then t.g else wr t.g r x }

/-- q0 reads all ones (R116). -/
def Task.readQ (t : Task) (r : QReg) : Word := if r = 0 then BitVec.allOnes 64 else rd t.q r

/-- q0 discards writes (R116). -/
def Task.writeQ (t : Task) (r : QReg) (x : Word) : Task := { t with q := if r = 0 then t.q else wr t.q r x }

def Task.readV (t : Task) (r : VReg) : Vec := rd t.v r
def Task.writeV (t : Task) (r : VReg) (x : Vec) : Task := { t with v := wr t.v r x }

/-- A scalar register of the running task. -/
def State.g (s : State) (r : GReg) : Word := s.me.readG r
def State.setG (s : State) (r : GReg) (x : Word) : State := { s with me := s.me.writeG r x }
/-- A predicate register of the running task. -/
def State.q (s : State) (r : QReg) : Word := s.me.readQ r
def State.setQ (s : State) (r : QReg) (x : Word) : State := { s with me := s.me.writeQ r x }
/-- A vector register of the running task. -/
def State.v (s : State) (r : VReg) : Vec := s.me.readV r
def State.setV (s : State) (r : VReg) (x : Vec) : State := { s with me := s.me.writeV r x }
/-- The PC of the running task. -/
def State.pc (s : State) : Word := s.me.pc
def State.setPc (s : State) (x : Word) : State := { s with me := { s.me with pc := x } }

/-- A change of the running task. -/
def State.onMe (s : State) (f : Task → Task) : State := { s with me := f s.me }
/-- A change of the active core. -/
def State.onCore (s : State) (f : Core → Core) : State := { s with core := f s.core }

/-- All bits 1 for true, 0 for false (R116). -/
def truth (b : Bool) : Word := if b then BitVec.allOnes 64 else 0

/-- An absolute value as a number. -/
def natOfOpt (o : Option Nat) : Nat := o.getD 0

/-! ### Tasks, cores, clusters, slices and partitions by id -/

/-- The number by which tasks stand in the list. -/
def Task.key (t : Task) : Nat := t.tid.toNat
def Core.key (c : Core) : Nat := c.id.toNat
def Cluster.key (c : Cluster) : Nat := c.id.toNat
def Slice.key (c : Slice) : Nat := c.id.toNat

/-- A task by id, if it has not gone. -/
def State.findTask (s : State) (t : BitVec 32) : Option Task :=
  if t = 0 then none else if s.me.tid = t then some s.me else findBy Task.key t.toNat s.tasks

def State.getTask (s : State) (t : BitVec 32) : Task := (s.findTask t).getD {}

/-- Puts a task back where it stands. -/
def State.putTask (s : State) (t : Task) : State :=
  if t.tid = 0 then s
  else if s.me.tid = t.tid then { s with me := t } else { s with tasks := putBy Task.key t s.tasks }

/-- Changes a task that has not gone. -/
def State.onTask (s : State) (t : BitVec 32) (f : Task → Task) : State :=
  match s.findTask t with
  | some x => s.putTask (f x)
  | none => s

def State.getCore (s : State) (c : BitVec 16) : Core :=
  if s.core.id = c then s.core else (findBy Core.key c.toNat s.cores).getD { id := c }

def State.putCore (s : State) (c : Core) : State :=
  if s.core.id = c.id then { s with core := c } else { s with cores := putBy Core.key c s.cores }

def State.onCoreId (s : State) (c : BitVec 16) (f : Core → Core) : State := s.putCore (f (s.getCore c))

def State.getCluster (s : State) (c : BitVec 8) : Cluster := (findBy Cluster.key c.toNat s.clusters).getD { id := c }

def State.putCluster (s : State) (c : Cluster) : State := { s with clusters := putBy Cluster.key c s.clusters }

def State.onCluster (s : State) (c : BitVec 8) (f : Cluster → Cluster) : State := s.putCluster (f (s.getCluster c))

def State.getSlice (s : State) (c : BitVec 6) : Slice := (findBy Slice.key c.toNat s.slices).getD { id := c }

def State.putSlice (s : State) (c : Slice) : State := { s with slices := putBy Slice.key c s.slices }

def State.onSlice (s : State) (c : BitVec 6) (f : Slice → Slice) : State := s.putSlice (f (s.getSlice c))

def State.part (s : State) (p : BitVec 2) : Partition := rd s.parts p

def State.onPart (s : State) (p : BitVec 2) (f : Partition → Partition) : State :=
  { s with parts := wr s.parts p (f (rd s.parts p)) }

/-- Every task that has not gone. -/
def State.allTasks (s : State) : List Task := if s.me.tid = 0 then s.tasks else s.me :: s.tasks

/-- Every core that is not in its power-up state. -/
def State.allCores (s : State) : List Core := s.core :: s.cores.filter fun c => c.id != s.core.id

/-- The unit without a task (R176); only the bytes stay, and a new claim clears those (R177). -/
def Matrix.unbind (m : Matrix) : Matrix := { img := m.img }

/-- Accumulators that the issue view or a queued command uses (R183). -/
def Matrix.zTaken (m : Matrix) : BitVec 16 :=
  m.queue.foldl (fun z c => match c.instr with | .mclaim _ zm => z ||| zm | _ => z) (m.zclaim ||| m.zHas)

/-- What is done for a task that need not run on the active core. -/
def State.forTask (s : State) (t : BitVec 32) (f : State → State) : State :=
  if s.me.tid = t then f s
  else
    match s.findTask t with
    | none => s
    | some x =>
      let rest := dropBy Task.key t.toNat s.tasks
      let u := f { s with me := x, tasks := if s.me.tid = 0 then rest else putBy Task.key s.me rest }
      { u with me := (u.findTask s.me.tid).getD s.me, tasks := putBy Task.key u.me (dropBy Task.key s.me.tid.toNat u.tasks) }

/-! ### Ids (R10, R16, R18, R77) -/

/-- Layer and cluster of a core id, bits [12:5] (R18). -/
def clusterOf (c : BitVec 16) : BitVec 8 := c.extractLsb' 5 8
/-- Layer of a cluster number. -/
def layerOf (cl : BitVec 8) : BitVec 2 := cl.extractLsb' 6 2
/-- The core id of a cluster's core n. -/
def coreIn (cl : BitVec 8) (n : Nat) : BitVec 16 := (0 : BitVec 3) ++ cl ++ BitVec.ofNat 5 n
/-- The cell bit of a core: 8 × (layer × 48 + cluster) + cell (R423). -/
def cellBit (c : BitVec 16) : Nat :=
  8 * ((layerOf (clusterOf c)).toNat * 48 + ((clusterOf c).extractLsb' 0 6).toNat) + (c.extractLsb' 2 3).toNat

/-- A core id that names a core (R18): bits [15:13] zero and a cluster below 48. -/
def coreExists (c : BitVec 16) : Bool := c.extractLsb' 13 3 == 0 && ((clusterOf c).extractLsb' 0 6).toNat < 48

/-- The core belongs to the partition and its cell is usable (R77). -/
def State.inPart (s : State) (p : BitVec 2) (c : BitVec 16) : Bool :=
  coreExists c && (s.part p).cells.getLsbD (cellBit c) && !s.harvested.getLsbD (cellBit c)

/-- The role of a layer. -/
def State.role (s : State) (l : BitVec 2) : Role := rd s.roles l

/-- The partition uses a cell of the cluster (R62). -/
def State.clusterInPart (s : State) (p : BitVec 2) (cl : BitVec 8) : Bool :=
  (List.range 8).any fun n => s.inPart p (coreIn cl (4 * n))

/-- Cores of a cluster that belong to the partition, in order. -/
def State.partCores (s : State) (p : BitVec 2) (cl : BitVec 8) : List (BitVec 16) :=
  ((List.range 32).map (coreIn cl)).filter (s.inPart p)

/-- Every cluster number, lowest layer first (R63). -/
def allClusters : List (BitVec 8) :=
  (List.range 4).flatMap fun l => (List.range 48).map fun c => BitVec.ofNat 8 (64 * l + c)

/-- The clusters of a partition. -/
def State.partClusters (s : State) (p : BitVec 2) : List (BitVec 8) := allClusters.filter (s.clusterInPart p)

/-- System privilege (R359). -/
def State.privileged (s : State) (t : Task) : Bool := t.asid == (s.part t.pid).sysasid

end Sys2Proof.Machine
end

