-- ==== Sys2Proof/WellFormed.lean ====
section
/-!
DEFINITION. Which instructions a word can hold (R91, R95, R97, R98, R100 checks 5 to 7): the values that each instruction
accepts in its fields, beyond what the types of `Instr` say. The decoder refuses a word whose instruction fails one.
-/

namespace Sys2Proof

/-- The formats of R143, by what the instructions ask of them. -/
def fmtWidth (f : BitVec 6) : Nat :=
  match f.toNat with
  | 0x00 => 64 | 0x01 => 32 | 0x02 => 16 | 0x03 => 16 | 0x04 => 8 | 0x05 => 8 | 0x06 => 6 | 0x07 => 6 | 0x08 => 4
  | 0x09 => 64 | 0x0A => 32 | 0x0B => 16 | 0x0C => 8 | 0x0D => 8 | 0x0E => 4 | 0x0F => 4 | 0x10 => 4 | 0x11 => 2
  | 0x20 => 8 | 0x21 => 8 | 0x22 => 6 | 0x23 => 6 | 0x24 => 4 | 0x25 => 8 | 0x26 => 4 | 0x27 => 4
  | 0x28 => 8 | 0x29 => 8 | 0x2A => 6 | 0x2B => 6 | 0x2C => 4 | 0x2D => 8 | 0x2E => 4 | 0x2F => 4
  | _ => 0

/-- Codes that R143 assigns, 0x3F apart. -/
def fmtAssigned (f : BitVec 6) : Bool := fmtWidth f != 0

/-- Block-scaled formats, 0x20 to 0x2F (R143). -/
def fmtBlock (f : BitVec 6) : Bool := 0x20 ≤ f.toNat && f.toNat ≤ 0x2F

/-- FP64, FP32, FP16, BF16 (R162). -/
def fmtVFloat (f : BitVec 6) : Bool := f.toNat ≤ 3

/-- I64, I32, I16, I8 (R165). -/
def fmtVInt (f : BitVec 6) : Bool := 0x09 ≤ f.toNat && f.toNat ≤ 0x0C

/-- FP8E4 and FP8E5: formats that refuse a constant (R158). -/
def fmtFp8 (f : BitVec 6) : Bool := f == 0x04 || f == 0x05

/-- The width formats of R167. -/
def fmtWidthSet (f : BitVec 6) : Bool := f.toNat ≤ 5 || fmtVInt f || f == 0x0D

/-- FMT2 is 0x3F where it is unused (R160). -/
def fmt2None (x : FX) : Bool := x.fmt2 == 0x3F

/-- A hint that R91 accepts; `red` for group 0x0A. -/
def Hint.ok (h : Hint) (allowed red : Bool) : Bool :=
  if allowed then h.l1p != 3 && (h.l1p != 2 || red) else h.nud == 0 && h.l1p == 0

/-- The mask of R91: NUD and L1P are defined in space 00. -/
def MX.hintOk (x : MX) (red : Bool) : Bool := x.hint.ok (x.space == 0) red

def MX.std (x : MX) (scope scale : Bool) : Bool :=
  x.hintOk false && (scope || x.scope == 0) && (scale || x.scale == 0) && x.scope.toNat ≤ 5 && x.size != 7

/-- Vector loads and stores (R233). -/
def MX.vecOk (x : MX) : Bool := x.std false true && 4 ≤ x.size.toNat && x.size.toNat ≤ 6

/-- Element accesses: SIZE names the element width of MOD[5:4] (R233, R234). -/
def MX.elemOk (x : MX) : Bool := x.std false true && x.size.toNat == (x.mod.extractLsb' 4 2).toNat

/-- Integer atomics (R298). -/
def MX.atomOk (x : MX) : Bool := x.std true false && (x.size == 2 || x.size == 3) && x.mod == 0

/-- Floating atomics (R298). -/
def MX.fatomOk (x : MX) : Bool :=
  x.std true false && (x.size == 1 || x.size == 2 || x.size == 3) && (x.mod == 0 || (x.mod == 1 && x.size == 1))

/-- Reductions at memory (R303). -/
def MX.redOk (x : MX) (u : Bool) : Bool :=
  x.hintOk true && x.scope == 0 && x.scale == 0 && x.space == 0 && (x.size == 2 || x.size == 3) &&
    (x.mod == 0 || (u && x.mod == 1))

/-- Counters (R307). -/
def MX.ctrOk (x : MX) (scope : Bool) (mods : Nat) : Bool :=
  x.std scope false && x.size == 3 && x.space == 0 && x.mod.toNat ≤ mods

/-- Form F fields that an instruction does not define are zero (R160). -/
def FX.only (x : FX) (rnd nanp sat : Bool) (opm : Nat → Bool) : Bool :=
  (rnd || x.rnd == 0) && (nanp || !x.nanp) && (sat || !x.sat) && opm x.opm.toNat

/-- Conditions of integer compares, 0 to 11 (R137). -/
def ccInt (c : Nat) : Bool := c ≤ 11

/-- Conditions of float compares (R166). -/
def ccFloat (c : Nat) : Bool := c ≤ 3 || c == 6 || c == 7 || c == 12 || c == 13

/-- The part P of VCVT is valid (R169). -/
def cvtPartOk (x : FX) : Bool :=
  let wt := fmtWidth x.fmt
  let ws := fmtWidth x.fmt2
  let n := 512 / Nat.max wt ws
  let p := x.opm.toNat
  p ≤ 63 && (if wt == ws then p == 0 else (p + 1) * n * Nat.min wt ws ≤ 512)

/-- The formats that VCVT pairs (R169). -/
def cvtFmtOk (x : FX) : Bool :=
  fmtAssigned x.fmt && fmtAssigned x.fmt2 && (8 ≤ fmtWidth x.fmt || 8 ≤ fmtWidth x.fmt2) &&
    !(fmtBlock x.fmt && fmtBlock x.fmt2) &&
    (!fmtBlock x.fmt || (1 ≤ x.fmt2.toNat && x.fmt2.toNat ≤ 3)) &&
    (!fmtBlock x.fmt2 || (1 ≤ x.fmt.toNat && x.fmt.toNat ≤ 3))

/-- The operator of VRED and VSCAN (R171). -/
def redOpOk (x : FX) : Bool :=
  if fmtVFloat x.fmt then
    x.only (x.opm == 0) true false (fun o => o ≤ 2)
  else x.only false false false (fun o => o ≤ 7)

/-- A constant is refused with 8-bit floating elements (R158). -/
def GK.fp8Ok (a : GK) (f : BitVec 6) : Bool := match a with | .k _ => !fmtFp8 f | .g _ => true
def VGK.fp8Ok (a : VGK) (f : BitVec 6) : Bool := match a with | .k _ => !fmtFp8 f | _ => true

/-- The format fields hold codes that the instruction accepts (R98, R160; RESERVED.format). -/
def Instr.fmtOk : Instr → Bool
  | .vadd _ _ _ x | .vsub _ _ _ x | .vmul _ _ _ x | .vfma _ _ _ _ x | .vfms _ _ _ _ x | .vmin _ _ _ x | .vmax _ _ _ x
  | .vabs _ _ x | .vneg _ _ x | .vdiv _ _ _ x | .vsqrt _ _ x | .vrcp _ _ x | .vrsq _ _ x | .vexp2 _ _ x | .vlog2 _ _ x =>
    fmtVFloat x.fmt && fmt2None x
  | .viadd _ _ _ x | .visub _ _ _ x | .vimul _ _ _ x | .vimad _ _ _ _ x | .vimin _ _ _ x | .vimax _ _ _ x | .vand _ _ _ x
  | .vor _ _ _ x | .vxor _ _ _ x | .vshl _ _ _ x | .vshr _ _ _ x | .vsha _ _ _ x | .vshuf _ _ _ _ x | .vmov _ _ x
  | .viota _ _ _ x => fmtVInt x.fmt && fmt2None x
  | .vcmp _ _ _ x | .vred _ _ _ x | .vscan _ _ _ x => (fmtVFloat x.fmt || fmtVInt x.fmt) && fmt2None x
  | .vsel _ _ _ _ x | .vbcast _ _ x | .vext _ _ _ x | .vins _ _ _ x => fmtWidthSet x.fmt && fmt2None x
  | .vcomp _ _ _ x => (x.fmt == 1 || x.fmt == 2 || x.fmt == 3 || x.fmt == 0x0A || x.fmt == 0x0B || x.fmt == 0x0C) && fmt2None x
  | .vcvt _ _ _ x => cvtFmtOk x
  | .vdot4 _ _ _ x =>
    ((x.fmt == 0x0C || x.fmt == 0x0D) && x.fmt2 == 0x0A) || ((x.fmt == 0x04 || x.fmt == 0x05) && x.fmt2 == 0x01)
  | .vrng _ _ _ x => (x.fmt == 0x09 || x.fmt == 0x0A || x.fmt == 0x00 || x.fmt == 0x01) && fmt2None x
  | .vscale _ _ x => fmtBlock x.fmt && (x.fmt2 == 1 || x.fmt2 == 2 || x.fmt2 == 3)
  | _ => true

/-- Operand limits that no type states (R158, R167, R168, R169; OPERAND.class and OPERAND.unused). -/
def Instr.opOk : Instr → Bool
  | .vsel _ _ b _ x => b.fp8Ok x.fmt
  | .vbcast _ a x => a.fp8Ok x.fmt
  | .vext _ _ b x => b.fp8Ok x.fmt && x.mask == none
  | .vins _ a b x => a.fp8Ok x.fmt && b.fp8Ok x.fmt && x.mask == none
  | .vcomp _ _ _ x => match x.mask with | some q => q != 0 | none => false
  | .vcvt _ _ c x => fmtBlock x.fmt || fmtBlock x.fmt2 || c == 0
  | _ => true

/-- The hint that a word may carry (R91). -/
def Instr.hintOk : Instr → Bool
  | .lea _ _ _ x | .lea2 _ _ _ x => x.hint.ok false false
  | .rdadd _ _ x | .rdmin _ _ x | .rdmax _ _ x | .rdor _ _ x | .rdfadd _ _ x | .rdflush _ x => x.hintOk true
  | .ctradd _ _ x | .ctrwait _ _ _ x | .ctrread _ _ x | .ctrarm _ _ _ x | .ctrdisarm _ _ x | .ctrwaitq _ _ _ x
  | .aadd _ _ _ x | .amin _ _ _ x | .amax _ _ _ x | .aminn _ _ _ x | .amaxn _ _ _ x | .aand _ _ _ x | .aor _ _ _ x
  | .axor _ _ _ x | .aswp _ _ _ x | .acas _ _ _ x | .afadd _ _ _ x | .afmin _ _ _ x | .afmax _ _ _ x
  | .qput _ _ _ x | .qget _ _ _ x | .capenter _ x
  | .ld _ _ _ x | .st _ _ _ x | .lda _ _ _ x | .stl _ _ _ x | .pref _ _ x | .dcwb _ _ x
  | .vld _ _ _ x | .vst _ _ _ x | .vgath _ _ _ x | .vscat _ _ _ x | .vbld _ _ _ x | .vlsl _ _ _ x | .vlss _ _ _ x
  | .vspill _ _ _ x | .vfill _ _ _ x | .tld _ _ _ x | .tsv _ _ _ x | .tldv _ _ _ x | .tsvv _ _ _ x => x.hintOk false
  | .capstep h | .capexit h | .capres _ _ h | .mlds _ _ _ _ _ _ _ h => h.ok true false
  | _ => true

/-- The values of X that the instruction accepts (RESERVED.x-field). -/
def Instr.xOk : Instr → Bool
  | .sysw idx _ => idx != 0x107 && idx != 0x10C && idx != 0x109
  | .cmpi _ _ _ cc | .cmp _ _ _ cc => ccInt cc.toNat
  | .lea _ _ _ x => x.size == 0 && x.scope == 0 && x.mod == 0
  | .lea2 _ _ _ x => x.scale == 0 && x.size == 0 && x.scope == 0
  | .ctradd _ _ x | .ctrread _ _ x | .ctrwaitq _ _ _ x => x.ctrOk true 0
  | .ctrwait _ _ _ x => x.ctrOk true 1
  | .ctrarm _ _ _ x | .ctrdisarm _ _ x => x.ctrOk false 0
  | .aadd _ _ _ x | .amin _ _ _ x | .amax _ _ _ x | .aminn _ _ _ x | .amaxn _ _ _ x | .aand _ _ _ x | .aor _ _ _ x
  | .axor _ _ _ x | .aswp _ _ _ x | .acas _ _ _ x => x.atomOk
  | .afadd _ _ _ x | .afmin _ _ _ x | .afmax _ _ _ x => x.fatomOk
  | .rdadd _ _ x | .rdor _ _ x => x.redOk false
  | .rdmin _ _ x | .rdmax _ _ x => x.redOk true
  | .rdfadd _ _ x =>
    x.scope == 0 && x.scale == 0 && x.space == 0 && (x.size == 1 || x.size == 2 || x.size == 3) &&
      (x.mod == 0 || (x.mod == 1 && x.size == 1))
  | .rdflush _ x => x.scope == 0 && x.scale == 0 && x.space == 0 && x.size == 0 && x.mod == 0
  | .qput _ _ _ x | .qget _ _ _ x => x.std false false && x.space == 0 && x.mod == 0
  | .msend _ _ _ _ n => n.toNat ≤ 8
  | .msendv _ _ _ _ n => 1 ≤ n.toNat && n.toNat ≤ 3
  | .mmask m | .munmask m => m.getLsbD 15 == false
  | .capenter _ x => x.size == 0 && x.scope == 0 && x.space == 0 && x.scale == 0 && x.mod == 0
  | .ld _ _ _ x => x.std false true && x.size.toNat ≤ 3 && x.mod.toNat ≤ 1
  | .st _ _ _ x => x.std false true && x.size.toNat ≤ 3 && x.mod == 0
  | .lda _ _ _ x => x.std true true && x.scope != 0 && x.size.toNat ≤ 3 && x.space == 0 && x.mod.toNat ≤ 1
  | .stl _ _ _ x => x.std true true && x.scope != 0 && x.size.toNat ≤ 3 && x.space == 0 && x.mod == 0
  | .pref _ _ x | .dcwb _ _ x => x.std false true && x.size == 0 && x.space == 0 && x.mod.toNat ≤ 1
  | .vld _ _ _ x | .vst _ _ _ x => x.vecOk
  | .vgath _ _ _ x | .vscat _ _ _ x | .vbld _ _ _ x => x.elemOk
  | .vlsl _ _ _ x | .vlss _ _ _ x => x.std false true && x.size.toNat ≤ 3 && x.space == 3 && x.mod.extractLsb' 4 2 == 3
  | .vspill _ _ _ x | .vfill _ _ _ x => x.std false true && x.size == 6 && x.space == 0 && x.mod == 0
  | .tld _ _ _ x => x.std false true && x.size.toNat ≤ 3 && x.space == 2 && x.mod.toNat ≤ 1
  | .tsv _ _ _ x => x.std false true && x.size.toNat ≤ 3 && x.space == 2 && x.mod == 0
  | .tldv _ _ _ x | .tsvv _ _ _ x => x.vecOk && x.space == 2
  | .tshape _ _ _ _ x => !x.dk && !x.sk
  | .tfree _ x => !x.dk && !x.sk && x.cnud == 0
  | .vadd _ _ _ x | .vsub _ _ _ x | .vmul _ _ _ x | .vfma _ _ _ _ x | .vfms _ _ _ _ x | .vdiv _ _ _ x | .vsqrt _ _ x
  | .vrcp _ _ x | .vrsq _ _ x | .vexp2 _ _ x | .vlog2 _ _ x => x.only true true false (fun o => o == 0)
  | .vmin _ _ _ x | .vmax _ _ _ x => x.only false true false (fun o => o == 0)
  | .vabs _ _ x | .vneg _ _ x => x.only false false false (fun o => o == 0)
  | .viadd _ _ _ x | .visub _ _ _ x | .vimul _ _ _ x | .vimad _ _ _ _ x => x.only false false true (fun o => o ≤ 1)
  | .vimin _ _ _ x | .vimax _ _ _ x => x.only false false false (fun o => o ≤ 1)
  | .vand _ _ _ x | .vor _ _ _ x | .vxor _ _ _ x | .vshl _ _ _ x | .vshr _ _ _ x | .vsha _ _ _ x
  | .vsel _ _ _ _ x | .vshuf _ _ _ _ x | .vmov _ _ x | .viota _ _ _ x | .vext _ _ _ x | .vins _ _ _ x | .vcomp _ _ _ x
  | .vrng _ _ _ x | .vscale _ _ x => x.only false false false (fun o => o == 0)
  | .vcmp _ _ _ x => x.only false false false (if fmtVFloat x.fmt then ccFloat else ccInt)
  | .vbcast _ a x =>
    x.only false false false (match a with | .v _ => fun o => o < 512 / fmtWidth x.fmt | _ => fun o => o == 0)
  | .vcvt _ _ _ x => cvtPartOk x
  | .vred _ _ _ x | .vscan _ _ _ x => redOpOk x
  | .vdot4 _ _ _ x => x.only (x.fmt2 == 0x01) false false (fun o => o == 0)
  | .mlds _ _ _ _ space _ _ _ => space != 3
  | .mstz _ _ _ _ _ space _ _ => space != 3
  | _ => true

/-- The instruction is one that a word which passes the checks of R100 can hold. -/
def Instr.wf (i : Instr) : Bool := i.hintOk && i.opOk && i.fmtOk && i.xOk

/-- A guard that R89 does not reserve. -/
def Header.wf (h : Header) : Bool := !(h.gneg && h.guard == 0)

end Sys2Proof
end

