-- ==== Sys2Proof/Machine/Format.lean ====
section
/-!
DEFINITION. Number formats: decoding to exact values (R143 to R150), the one rounding of R152, encoding with the NaN rule of
R146, conversion to integers (R153), and exact sums and products. A value is exact: a natural number times a power of two, with
a mark where a root, a quotient or a logarithm leaves a remainder below.
-/

namespace Sys2Proof.Machine

/-- An exact value (R145, R146). `num` is (n + r) × 2^e with 0 < r < 1 where `sticky`, else r = 0. A NaN that comes from a source
keeps its sign, its mantissa with the mantissa's width, and whether it signals. -/
inductive Val where
  | num (neg : Bool) (n : Nat) (e : Int) (sticky : Bool)
  | inf (neg : Bool)
  | nan (neg : Bool) (m w : Nat) (sig : Bool)
  | canon
  deriving DecidableEq, Repr, Inhabited

/-- Bits of FFLAGS (R151). -/
abbrev Fl := BitVec 7
def flNV : Fl := 1
def flOF : Fl := 2
def flUF : Fl := 4
def flNX : Fl := 8
def flDZ : Fl := 16
def flNS : Fl := 32
def flT2R : Fl := 64

/-- Flags where a condition holds. -/
def flIf (b : Bool) (f : Fl) : Fl := if b then f else 0

/-- Rounding modes, in the codes of R98. -/
inductive Rnd where
  | rne
  | rtz
  | rup
  | rdn
  deriving DecidableEq, Repr

def Rnd.of (r : BitVec 2) : Rnd :=
  match r.toNat with | 0 => .rne | 1 => .rtz | 2 => .rup | _ => .rdn

/-- A floating-point layout (R145, R146). `top` is the code of the largest finite magnitude. -/
structure FLay where
  e : Nat
  m : Nat
  bias : Nat
  hasInf : Bool
  hasNan : Bool
  top : Nat
  deriving DecidableEq, Repr

/-- The layouts of R145; FP64 for codes that are no float. -/
def flay (f : Nat) : FLay :=
  match f with
  | 0x01 => ⟨8, 23, 127, true, true, 0x7F7FFFFF⟩
  | 0x02 => ⟨5, 10, 15, true, true, 0x7BFF⟩
  | 0x03 => ⟨8, 7, 127, true, true, 0x7F7F⟩
  | 0x04 => ⟨4, 3, 7, false, true, 0x7E⟩
  | 0x05 => ⟨5, 2, 15, true, true, 0x7B⟩
  | 0x06 => ⟨3, 2, 3, false, false, 0x1F⟩
  | 0x07 => ⟨2, 3, 1, false, false, 0x1F⟩
  | 0x08 => ⟨2, 1, 1, false, false, 0x7⟩
  | _ => ⟨11, 52, 1023, true, true, 0x7FEFFFFFFFFFFFFF⟩

/-- Codes 0x00 to 0x08 (R143). -/
def isFloat (f : Nat) : Bool := f ≤ 8

/-- The element format of a block-scaled code (R143). -/
def elemFmt (f : Nat) : Nat :=
  if 0x20 ≤ f && f ≤ 0x2F then
    match f % 8 with
    | 0 => 0x04 | 1 => 0x05 | 2 => 0x06 | 3 => 0x07 | 4 => 0x08 | 5 => 0x0C | 6 => 0x0E | _ => 0x10
  else f

/-- The scale of a code is S8 (R143). -/
def isS8 (f : Nat) : Bool := 0x20 ≤ f && f ≤ 0x27

/-- Width of an element (R143). -/
def widthOf (f : Nat) : Nat := fmtWidth (BitVec.ofNat 6 f)

/-- A float code's magnitude (R145). -/
def decMag (l : FLay) (neg : Bool) (c : Nat) : Val :=
  let ex := c / 2 ^ l.m
  let m := c % 2 ^ l.m
  if ex = 0 then .num neg m (1 - (l.bias : Int) - l.m) false
  else .num neg (2 ^ l.m + m) ((ex : Int) - l.bias - l.m) false

/-- Decoding of a float element (R145, R146). -/
def decFloat (f : Nat) (x : Nat) : Val :=
  let l := flay f
  let neg := x / 2 ^ (l.e + l.m) % 2 = 1
  let c := x % 2 ^ (l.e + l.m)
  let m := c % 2 ^ l.m
  if c ≤ l.top then decMag l neg c
  else if l.hasInf && m = 0 then .inf neg
  else .nan neg m l.m (l.hasInf && m < 2 ^ (l.m - 1))

/-- An integer as a value. -/
def ofInt (z : Int) : Val := .num (z < 0) z.natAbs 0 false

/-- A w-bit two's complement number. -/
def sgn (w x : Nat) : Int := if 2 * x < 2 ^ w then (x : Int) else (x : Int) - 2 ^ w

/-- The two elements of an O4 pair from its byte (R149). -/
def decO4 (b : Nat) : Val × Val :=
  let l := b % 16
  let h := b / 16 % 16
  if l = 8 then (decFloat 0x04 (h * 16 + 8), ofInt 0)
  else if h = 8 then (ofInt 0, decFloat 0x04 (l * 16 + 8))
  else (ofInt (sgn 4 l), ofInt (sgn 4 h))

/-- Decoding of an element other than O4 (R145 to R148). -/
def decElem (f : Nat) (x : Nat) : Val × Fl :=
  if isFloat f then (decFloat f x, 0)
  else
    match f with
    | 0x09 => (ofInt (sgn 64 x), 0)
    | 0x0A => (ofInt (sgn 32 x), 0)
    | 0x0B => (ofInt (sgn 16 x), 0)
    | 0x0C => (ofInt (sgn 8 x), 0)
    | 0x0D => (ofInt (x % 256), 0)
    | 0x0E => (ofInt (sgn 4 x), 0)
    | 0x0F => (ofInt (x % 16), 0)
    | 0x11 => match x % 4 with | 1 => (ofInt 1, 0) | 3 => (ofInt (-1), 0) | 2 => (ofInt 0, flT2R) | _ => (ofInt 0, 0)
    | _ => (ofInt 0, 0)

/-- Bits [w·i + w − 1 : w·i] of a run (R144). -/
def elemBits (run w i : Nat) : Nat := run / 2 ^ (w * i) % 2 ^ w

/-- Element i of a run in a format; an O4 element is read in its pair (R144, R149). -/
def decAt (f : Nat) (run i : Nat) : Val × Fl :=
  let f := elemFmt f
  if f = 0x10 then
    let p := decO4 (elemBits run 8 (i / 2))
    (if i % 2 = 0 then p.1 else p.2, 0)
  else decElem f (elemBits run (widthOf f) i)

/-- Decoding of a scale byte (R150). -/
def decScale (s8 : Bool) (b : Nat) : Val :=
  if s8 then (if b = 255 then .canon else .num false 1 ((b : Int) - 127) false)
  else if 128 ≤ b || b = 0x7F then .canon else decFloat 0x04 b

def Val.isNan : Val → Bool | .nan _ _ _ _ => true | .canon => true | _ => false
def Val.isSig : Val → Bool | .nan _ _ _ s => s | _ => false
def Val.isInf : Val → Bool | .inf _ => true | _ => false
def Val.isZero : Val → Bool | .num _ 0 _ false => true | _ => false
def Val.neg? : Val → Bool | .num s _ _ _ => s | .inf s => s | .nan s _ _ _ => s | .canon => false
/-- The value with its sign inverted. -/
def Val.negate : Val → Val
  | .num s n e k => .num (!s) n e k | .inf s => .inf (!s) | .nan s m w g => .nan s m w g | .canon => .canon

/-- An element of a block-scaled format times its scale (R150). A NaN element stays the first NaN source (R146). -/
def applyScale (v s : Val) : Val × Fl :=
  if s.isNan then (if v.isNan then v else .canon, flNS)
  else
    match v, s with
    | .inf n, .num _ 0 _ _ => (.nan n 0 0 false, flNV)
    | .inf n, _ => (.inf n, 0)
    | .num a n e k, .num _ m g _ => (.num a (n * m) (e + g) k, 0)
    | v, _ => (v, 0)

/-! ### Rounding (R152) -/

/-- A magnitude in units of the spacing: the kept part, and how the rest compares: 0 none, 1 below half, 2 half, 3 above. -/
def splitAt (n : Nat) (e q : Int) (sticky : Bool) : Nat × Nat :=
  if q ≤ e then (n * 2 ^ (e - q).toNat, if sticky then 1 else 0)
  else
    let sh := (q - e).toNat
    let r := n % 2 ^ sh
    let h := 2 ^ (sh - 1)
    (n / 2 ^ sh, if r = 0 then (if sticky then 1 else 0) else if r < h then 1 else if r = h then (if sticky then 3 else 2) else 3)

/-- The rounding decision on a kept part (R152). -/
def roundUp (mode : Rnd) (neg : Bool) (k rest : Nat) : Nat :=
  match mode with
  | .rne => if rest = 3 || (rest = 2 && k % 2 = 1) then k + 1 else k
  | .rtz => k
  | .rup => if rest ≠ 0 && !neg then k + 1 else k
  | .rdn => if rest ≠ 0 && neg then k + 1 else k

/-- The code of an infinity where the format has one. -/
def infCode (l : FLay) : Nat := (2 ^ l.e - 1) * 2 ^ l.m

/-- The sign bit of a layout. -/
def signBit (l : FLay) (neg : Bool) : Nat := if neg then 2 ^ (l.e + l.m) else 0

/-- The canonical NaN (R146). -/
def canonCode (l : FLay) : Nat := if l.hasInf then infCode l + 2 ^ (l.m - 1) else 2 ^ (l.e + l.m) - 1

/-- The NaN that a result writes (R146). -/
def nanCode (f : Nat) (nanp : Bool) (v : Val) : Nat :=
  let l := flay f
  match v with
  | .nan neg m w _ =>
    if nanp && w ≠ 0 then
      if l.hasInf then
        let m' := if w ≤ l.m then m * 2 ^ (l.m - w) else m / 2 ^ (w - l.m)
        signBit l neg + infCode l + (m' ||| 2 ^ (l.m - 1))
      else signBit l neg + canonCode l
    else canonCode l
  | _ => canonCode l

/-- Round(x, f, mode) of R152, as the code of the result and the flags it raises. A NaN is written under R146. -/
def roundTo (f : Nat) (mode : Rnd) (nanp : Bool) (v : Val) : Nat × Fl :=
  let l := flay f
  match v with
  | .inf neg => if l.hasInf then (signBit l neg + infCode l, 0) else (signBit l neg + l.top, flOF)
  | .num neg n e sticky =>
    if n = 0 && !sticky then (signBit l neg, 0)
    else
      let emin : Int := 1 - (l.bias : Int)
      let top : Int := (Nat.log2 n : Int) + e
      let ex := if top < emin then emin else top
      let q := ex - l.m
      let p := splitAt n e q sticky
      let k := roundUp mode neg p.1 p.2
      let c := if k < 2 ^ l.m then k else (q + l.m + l.bias).toNat * 2 ^ l.m + (k - 2 ^ l.m)
      let fl := flIf (p.2 ≠ 0) flNX ||| flIf (top < emin && p.2 ≠ 0) flUF
      if c ≤ l.top then (signBit l neg + c, fl)
      else
        let fl := fl ||| flOF ||| flNX
        let big := signBit l neg + l.top
        let inf := signBit l neg + infCode l
        if !l.hasInf then (big, fl)
        else
          match mode with
          | .rne => (inf, fl)
          | .rtz => (big, fl)
          | .rup => (if neg then big else inf, fl)
          | .rdn => (if neg then inf else big, fl)
  | v => (nanCode f nanp v, 0)

/-! ### Exact arithmetic -/

/-- A signed exact number. -/
def toInt (neg : Bool) (n : Nat) : Int := if neg then -(n : Int) else n

/-- The zero that an exact sum of zero leaves (R152). -/
def zeroSum (mode : Rnd) (a b : Bool) : Val := .num (if a = b then a else mode = .rdn) 0 0 false

/-- An exact sum (R146, R152), with the flags of an invalid operation. NaN sources are handled by `withNan`. -/
def addV (mode : Rnd) (a b : Val) : Val × Fl :=
  match a, b with
  | .inf s, .inf t => if s = t then (.inf s, 0) else (.canon, flNV)
  | .inf s, _ => (.inf s, 0)
  | _, .inf t => (.inf t, 0)
  | .num s n e _, .num t m g _ =>
    if n = 0 && m = 0 then (zeroSum mode s t, 0)
    else
      let lo := if e ≤ g then e else g
      let z := toInt s (n * 2 ^ (e - lo).toNat) + toInt t (m * 2 ^ (g - lo).toNat)
      if z = 0 then (.num (mode = .rdn) 0 0 false, 0) else (.num (z < 0) z.natAbs lo false, 0)
  | _, _ => (.canon, 0)

/-- An exact product (R146). -/
def mulV (a b : Val) : Val × Fl :=
  match a, b with
  | .inf s, .inf t => (.inf (s != t), 0)
  | .inf s, .num t n _ _ => if n = 0 then (.canon, flNV) else (.inf (s != t), 0)
  | .num s n _ _, .inf t => if n = 0 then (.canon, flNV) else (.inf (s != t), 0)
  | .num s n e _, .num t m g _ => (.num (s != t) (n * m) (e + g) false, 0)
  | _, _ => (.canon, 0)

/-- A quotient, with the remainder as the sticky mark (R146, R162). -/
def divV (a b : Val) : Val × Fl :=
  match a, b with
  | .inf _, .inf _ => (.canon, flNV)
  | .inf s, .num t _ _ _ => (.inf (s != t), 0)
  | .num s _ _ _, .inf t => (.num (s != t) 0 0 false, 0)
  | .num s n e _, .num t m g _ =>
    if m = 0 then (if n = 0 then (.canon, flNV) else (.inf (s != t), flDZ))
    else
      let sh := 130 + Nat.log2 m
      let x := n * 2 ^ sh
      (.num (s != t) (x / m) (e - g - sh) (x % m ≠ 0), 0)
  | _, _ => (.canon, 0)

/-- Floor of a square root, bit by bit from bit `i` down. -/
def isqrt (n : Nat) : Nat → Nat → Nat
  | 0, r => if (r + 1) * (r + 1) ≤ n then r + 1 else r
  | i + 1, r => let r' := r + 2 ^ (i + 1); isqrt n i (if r' * r' ≤ n then r' else r)

/-- A square root, with the remainder as the sticky mark. -/
def sqrtV (a : Val) : Val × Fl :=
  match a with
  | .num s n e _ =>
    if n = 0 then (.num s 0 0 false, 0)
    else if s then (.canon, flNV)
    else
      let sh : Nat := if e % 2 = 0 then 150 else 151
      let x := n * 2 ^ sh
      let r := isqrt x ((Nat.log2 x) / 2 + 1) 0
      (.num false r ((e - sh) / 2) (r * r ≠ x), 0)
  | .inf s => if s then (.canon, flNV) else (.inf false, 0)
  | _ => (.canon, 0)

/-- The first NaN among the sources decides the result, and a signalling one sets NV (R146). -/
def withNan (src : List Val) (r : Val × Fl) : Val × Fl :=
  match src.find? Val.isNan with
  | some v => (v, flIf (src.any Val.isSig) flNV)
  | none => r

/-- Comparison of two values that are no NaN: −1, 0 or 1. Zeros are equal. -/
def cmpV (a b : Val) : Int :=
  match a, b with
  | .inf s, .inf t => if s = t then 0 else if s then -1 else 1
  | .inf s, _ => if s then -1 else 1
  | _, .inf t => if t then 1 else -1
  | .num s n e _, .num t m g _ =>
    let lo := if e ≤ g then e else g
    let x := toInt s (n * 2 ^ (e - lo).toNat)
    let y := toInt t (m * 2 ^ (g - lo).toNat)
    if x < y then -1 else if y < x then 1 else 0
  | _, _ => 0

/-! ### Conversion (R153) -/

/-- LO and HI of an integer target (R153). -/
def intLimits (f : Nat) : Int × Int :=
  match f with
  | 0x09 => (-(2 ^ 63), 2 ^ 63 - 1)
  | 0x0A => (-(2 ^ 31), 2 ^ 31 - 1)
  | 0x0B => (-(2 ^ 15), 2 ^ 15 - 1)
  | 0x0C => (-128, 127)
  | 0x0D => (0, 255)
  | 0x0E => (-8, 7)
  | 0x0F => (0, 15)
  | 0x10 => (-7, 7)
  | _ => (-1, 1)

/-- An integer as the w low bits of its two's complement. -/
def intBits (w : Nat) (z : Int) : Nat := (z % (2 ^ w : Int)).toNat

/-- A value rounded to an integer (R153). -/
def roundInt (mode : Rnd) (neg : Bool) (n : Nat) (e : Int) (sticky : Bool) : Int × Bool :=
  let p := splitAt n e 0 sticky
  (toInt neg (roundUp mode neg p.1 p.2), p.2 ≠ 0)

/-- A value encoded in an integer or ternary target (R153). -/
def cvtToInt (f : Nat) (mode : Rnd) (v : Val) : Nat × Fl :=
  let l := intLimits f
  let w := widthOf f
  match v with
  | .inf neg => (intBits w (if neg then l.1 else l.2), flNV)
  | .num neg n e st =>
    let k := roundInt mode neg n e st
    let fl := flIf k.2 flNX
    if k.1 < l.1 then (intBits w l.1, fl ||| flNV)
    else if l.2 < k.1 then (intBits w l.2, fl ||| flNV)
    else (intBits w k.1, fl)
  | _ => (0, flNV)

/-- Cvt to a float target (R153). -/
def cvtToFloat (f : Nat) (mode : Rnd) (sat nanp : Bool) (v : Val) : Nat × Fl :=
  let l := flay f
  if v.isNan && !l.hasNan then (0, flNV)
  else
    let r := roundTo f mode nanp v
    let mag := r.1 % 2 ^ (l.e + l.m)
    if sat && l.hasInf && mag = infCode l then (r.1 - mag + l.top, r.2) else r

/-- Cvt to the element format of a target (R153). -/
def cvtTo (f : Nat) (mode : Rnd) (sat nanp : Bool) (v : Val) : Nat × Fl :=
  let f := elemFmt f
  let fl := flIf v.isSig flNV
  let r := if isFloat f then cvtToFloat f mode sat nanp v else cvtToInt f mode v
  (r.1, r.2 ||| fl)

/-! ### Minimum and maximum with a canonical NaN (R163) are in Flags.lean -/

end Sys2Proof.Machine
end

