-- ==== Sys2Proof/Machine/Transc.lean ====
section
/-!
DEFINITION. The functions of R162 and R164 beyond the four operations: reciprocal square root, 2^a and log2 a. The results are
exact where the exact value is a power of two or an integer; elsewhere the exact value is irrational, and a fixed-point value
of about 260 bits with a remainder mark stands for it, so that one rounding gives the correctly rounded result (DEDUCED, assumption 8).
-/

namespace Sys2Proof.Machine

/-- ln 2 × 2^400, rounded down. -/
def ln2 : Nat :=
  1789879222497203190815761498240779176894896805856420935579692301363062920687047601279850318367644315849030039181347319086

/-- Fraction bits of the fixed-point values. -/
def fxBits : Nat := 320

/-- ln 2 in fixed point. -/
def ln2Fx : Nat := ln2 / 2 ^ (400 - fxBits)

/-- Sum of t^j / j! from the term `term` = t^j / j! on, `fuel` terms. -/
def expSeries (t : Nat) : Nat → Nat → Nat → Nat
  | 0, _, _ => 0
  | fuel + 1, j, term => term + expSeries t fuel (j + 1) (term * t / 2 ^ fxBits / (j + 1))

/-- 2^f for a fraction f in fixed point. -/
def exp2Frac (f : Nat) : Nat := expSeries (f * ln2Fx / 2 ^ fxBits) 75 0 (2 ^ fxBits)

/-- Sum of z^(2j+1) / (2j+1) from the power `p` = z^(2j+1) on. -/
def atanhSeries (z2 : Nat) : Nat → Nat → Nat → Nat
  | 0, _, _ => 0
  | fuel + 1, j, p => p / (2 * j + 1) + atanhSeries z2 fuel (j + 1) (p * z2 / 2 ^ fxBits)

/-- 2^a (R162, R164). -/
def exp2V (a : Val) : Val × Fl :=
  match a with
  | .inf s => (if s then .num false 0 0 false else .inf false, 0)
  | .num s n e _ =>
    if n = 0 then (.num false 1 0 false, 0)
    else
      let top : Int := (Nat.log2 n : Int) + e
      if top < -110 then (if s then .num false (2 ^ 200 - 1) (-200) true else .num false (2 ^ 200) (-200) true, 0)
      else if 15 < top then (.num false (2 ^ 200) (if s then -20000 else 20000) true, 0)
      else if 0 ≤ e then
        let k : Int := toInt s (n * 2 ^ e.toNat)
        (.num false 1 k false, 0)
      else
        let d : Nat := 2 ^ (-e).toNat
        let i : Int := toInt s n / (d : Int)
        let r : Nat := (toInt s n % (d : Int)).toNat
        if r = 0 then (.num false 1 i false, 0)
        else (.num false (exp2Frac (r * 2 ^ fxBits / d)) (i - fxBits) true, 0)
  | _ => (.canon, 0)

/-- log2 a (R162, R164). -/
def log2V (a : Val) : Val × Fl :=
  match a with
  | .inf s => if s then (.canon, flNV) else (.inf false, 0)
  | .num s n e _ =>
    if n = 0 then (.inf true, flDZ)
    else if s then (.canon, flNV)
    else
      let lg := Nat.log2 n
      if n = 2 ^ lg then (ofInt ((lg : Int) + e), 0)
      else
        -- m = n / 2^lg in [1, 2), halved when it exceeds 4/3, so that the integer part and the logarithm do not cancel
        let half : Bool := 3 * n > 4 * 2 ^ lg
        let k : Int := (lg : Int) + e + (if half then 1 else 0)
        let one : Nat := 2 ^ (lg + (if half then 1 else 0))
        let num : Int := (n : Int) - one
        let z : Nat := num.natAbs * 2 ^ fxBits / (n + one)
        let l2 : Nat := 2 * atanhSeries (z * z / 2 ^ fxBits) 120 0 z * 2 ^ fxBits / ln2Fx
        let r : Int := k * 2 ^ fxBits + (if num < 0 then -(l2 : Int) else l2)
        (.num (r < 0) r.natAbs (-fxBits) true, 0)
  | _ => (.canon, 0)

/-- 1 ÷ √a (R162, R164). -/
def rsqrtV (a : Val) : Val × Fl :=
  match a with
  | .inf s => if s then (.canon, flNV) else (.num false 0 0 false, 0)
  | .num s n e _ =>
    if n = 0 then (.inf s, flDZ)
    else if s then (.canon, flNV)
    else
      let t0 : Int := 300 + Nat.log2 n
      let t := if (t0 + e) % 2 = 0 then t0 else t0 + 1
      let y := isqrt (2 ^ t.toNat / n) 170 0
      (.num false y ((-e - t) / 2) (y * y * n ≠ 2 ^ t.toNat), 0)
  | _ => (.canon, 0)

end Sys2Proof.Machine
end

