-- ==== Sys2Proof/Machine/Flags.lean ====
section
/-!
DEFINITION. The flag computations of R151: each float operation on element codes with the FFLAGS bits it sets, minimum and
maximum (R163), comparisons (R137, R166), and the integer arithmetic of vectors (R165).
-/

namespace Sys2Proof.Machine

/-- Decoding of a float code. -/
def val (f c : Nat) : Val := decFloat f c

/-- A rounded result with its NaN rule (R146, R152). -/
def roundRes (f : Nat) (mode : Rnd) (nanp : Bool) (r : Val × Fl) : Nat × Fl :=
  let k := roundTo f mode nanp r.1
  (k.1, k.2 ||| r.2)

def fAdd (f : Nat) (mode : Rnd) (nanp : Bool) (a b : Nat) : Nat × Fl :=
  roundRes f mode nanp (withNan [val f a, val f b] (addV mode (val f a) (val f b)))

def fSub (f : Nat) (mode : Rnd) (nanp : Bool) (a b : Nat) : Nat × Fl :=
  roundRes f mode nanp (withNan [val f a, val f b] (addV mode (val f a) (val f b).negate))

def fMul (f : Nat) (mode : Rnd) (nanp : Bool) (a b : Nat) : Nat × Fl :=
  roundRes f mode nanp (withNan [val f a, val f b] (mulV (val f a) (val f b)))

def fDiv (f : Nat) (mode : Rnd) (nanp : Bool) (a b : Nat) : Nat × Fl :=
  roundRes f mode nanp (withNan [val f a, val f b] (divV (val f a) (val f b)))

/-- a × b ± c with one rounding; an invalid product sets NV even beside a NaN addend (R162). -/
def fFma (f : Nat) (mode : Rnd) (nanp sub : Bool) (a b c : Nat) : Nat × Fl :=
  let x := val f a
  let y := val f b
  let z := if sub then (val f c).negate else val f c
  let p := if x.isNan || y.isNan then (Val.canon, 0) else mulV x y
  let s := if p.1.isNan then (Val.canon, (0 : Fl)) else addV mode p.1 z
  let r := withNan [x, y, val f c] s
  roundRes f mode nanp (r.1, r.2 ||| p.2)

def fUn (op : Val → Val × Fl) (f : Nat) (mode : Rnd) (nanp : Bool) (a : Nat) : Nat × Fl :=
  roundRes f mode nanp (withNan [val f a] (op (val f a)))

/-- 1 ÷ a. -/
def rcpV (a : Val) : Val × Fl := divV (.num false 1 0 false) a

/-- −0 stands below +0; otherwise numeric order (R163). -/
def ltMin (a b : Val) : Bool :=
  if a.isZero && b.isZero then a.neg? && !b.neg? else cmpV a b < 0

/-- VMIN and VMAX (R163). -/
def fMinMax (max : Bool) (f : Nat) (nanp : Bool) (a b : Nat) : Nat × Fl :=
  let x := val f a
  let y := val f b
  let fl := flIf (x.isSig || y.isSig) flNV
  if x.isNan && y.isNan then (nanCode f nanp x, fl)
  else if x.isNan then (b, fl)
  else if y.isNan then (a, fl)
  else if max then (if ltMin x y then b else a, fl)
  else (if ltMin y x then b else a, fl)

/-- The conditions of R137 on W-bit elements. -/
def condInt (cc : Nat) (w a b : Nat) : Bool :=
  let sa := sgn w a
  let sb := sgn w b
  match cc with
  | 0 => a == b | 1 => a != b | 2 => sa < sb | 3 => sb ≤ sa | 4 => a < b | 5 => b ≤ a | 6 => sb < sa | 7 => sa ≤ sb
  | 8 => b < a | 9 => a ≤ b | 10 => (a &&& b) == 0 | _ => (a &&& b) != 0

/-- The conditions of R166 on float elements. -/
def condFloat (cc : Nat) (f a b : Nat) : Bool × Fl :=
  let x := val f a
  let y := val f b
  let un := x.isNan || y.isNan
  let sig := flIf (x.isSig || y.isSig) flNV
  let c := cmpV x y
  match cc with
  | 0 => (!un && c == 0, sig)
  | 1 => (un || c != 0, sig)
  | 2 => (!un && c < 0, flIf un flNV)
  | 3 => (!un && 0 ≤ c, flIf un flNV)
  | 6 => (!un && 0 < c, flIf un flNV)
  | 7 => (!un && c ≤ 0, flIf un flNV)
  | 12 => (un, sig)
  | _ => (!un, sig)

/-- An exact integer result, wrapped or clamped to W bits (R165). -/
def wrapSat (w : Nat) (sat uns : Bool) (z : Int) : Nat :=
  if sat then
    let lo : Int := if uns then 0 else -(2 ^ (w - 1))
    let hi : Int := if uns then 2 ^ w - 1 else 2 ^ (w - 1) - 1
    intBits w (if z < lo then lo else if hi < z then hi else z)
  else intBits w z

/-- An element read as signed or unsigned (R165). -/
def elemInt (w : Nat) (uns : Bool) (x : Nat) : Int := if uns then (x : Int) else sgn w x

/-- Result finite, non-zero and normal, without OF or UF: what the shadow unit checks (R174). -/
def shadowChecked (f : Nat) (r : Nat × Fl) : Bool :=
  let l := flay f
  let mag := r.1 % 2 ^ (l.e + l.m)
  2 ^ l.m ≤ mag && mag ≤ l.top && (r.2 &&& (flOF ||| flUF)) == 0

/-- What the shadow unit makes of a result (R174): its sign, and K, the exponent field times 64 plus the leading 6 mantissa bits. -/
abbrev ShadowVal := Bool × Nat

/-- Sign and K of a code (R174). -/
def shadowOf (f x : Nat) : ShadowVal :=
  let l := flay f
  (x / 2 ^ (l.e + l.m) % 2 = 1, x % 2 ^ (l.e + l.m) * 64 / 2 ^ l.m)

/-- A shadow result is finite, non-zero and normal. -/
def shadowNormal (f : Nat) (v : ShadowVal) : Bool := 64 ≤ v.2 && v.2 ≤ (shadowOf f (flay f).top).2

/-- Two values differ by more than 2. -/
def apart (a b : Nat) : Bool := a + 2 < b || b + 2 < a

/-- A checked result against the shadow unit's (R174): true for a difference of sign, false for one of magnitude. -/
def shadowDiffers (f x : Nat) (v : ShadowVal) : Option Bool :=
  let m := shadowOf f x
  if !shadowNormal f v then none else if m.1 != v.1 then some true else if apart m.2 v.2 then some false else none

/-- The sign and the 7 leading significant bits of an I32 result (R197). -/
def shadowInt (z : Int) : ShadowVal :=
  let n := z.natAbs
  (decide (z < 0), if n < 128 then n else n / 2 ^ (Nat.log2 n - 6))

/-- Sets flags of the running task (R151). -/
def orFl (a b : Fl) : Fl := a ||| b

end Sys2Proof.Machine
end

