-- ==== Sys2Proof/Machine/Cache.lean ====
section
/-!
DEFINITION. Homes of lines (R203), the L1D and the slice caches with their stamps (R204 to R216), U lines and their combine
(R206, R303, R304). A byte lives once, at its home; the caches hold states and stamps, and only U lines hold values.
-/

namespace Sys2Proof.Machine

/-- The number of a physical byte: kind × 2^52 + PA. -/
def physKey (kind : BitVec 3) (pa : Nat) : Nat := 2 ^ 52 * kind.toNat + pa
/-- Kind of a line. -/
def lineKind (line : Nat) : BitVec 3 := BitVec.ofNat 3 (line / 2 ^ 46)
/-- PA[51:6] of a line. -/
def linePa (line : Nat) : Nat := line % 2 ^ 46

/-- An event that follows from this step stands at the end of the agenda. -/
def State.push (s : State) (e : Ev) : State := { s with agenda := s.agenda ++ [e] }

/-- An event that waits for its condition looks again in every round. -/
def State.wait (s : State) (e : Ev) : State := if s.waits.contains e then s else { s with waits := s.waits.concat e }

/-- Its wait is over. -/
def State.unwait (s : State) (e : Ev) : State := { s with waits := s.waits.filter fun (x : Ev) => x != e }

/-- Two records of one unit, TYPE, ADDRESS and LANE (R394). -/
def PRecord.same (a b : PRecord) : Bool :=
  a.type == b.type && a.unit == b.unit && a.layer == b.layer && a.cluster == b.cluster && a.slice == b.slice && a.core == b.core &&
    a.port == b.port && a.address == b.address && a.lane == b.lane

/-- A reliability event on its way to Periscope (R393): it adds to the COUNT of a pending record of the same kind, or becomes a
record of its own, with its unit's cycle counter, whose value is free (R394, DESIGN CHOICE, assumption 4). -/
def State.report (s : State) (r : PRecord) : State :=
  let same (e : Ev) : Bool := match e with | .periscopeRecord x => PRecord.same x r | _ => false
  if s.agenda.any same then
    { s with agenda := s.agenda.map fun e => match e with
        | .periscopeRecord x => if PRecord.same x r then .periscopeRecord { x with count := x.count + r.count } else e
        | _ => e }
  else { s with freeCount := s.freeCount + 1 }.push (.periscopeRecord { r with localctr := Config.freeWord s.freeCount })

/-- A record with every field that does not apply 0 (R394). -/
def pRecord (type : BitVec 8) (sev : BitVec 3) (unit : BitVec 4) : PRecord :=
  { type := type, sev := sev, unit := unit, layer := 0, cluster := 0, slice := 0, core := 0, port := 0, lane := 0, address := 0
    syndrome := 0, count := 1, localctr := 0, detail := 0, asid := 0, tid := 0 }

/-- A record of a core. -/
def coreRecord (type : BitVec 8) (sev : BitVec 3) (c : BitVec 16) : PRecord :=
  { pRecord type sev 0 with layer := layerOf (clusterOf c), cluster := (clusterOf c).extractLsb' 0 6, core := c.extractLsb' 0 5 }

/-- A record of a cluster. -/
def clusterRecord (type : BitVec 8) (sev : BitVec 3) (cl : BitVec 8) : PRecord :=
  { pRecord type sev 1 with layer := layerOf cl, cluster := cl.extractLsb' 0 6 }

/-! ### Homes (R203) -/

/-- COMPUTE layers, ascending. -/
def State.computeLayers (s : State) : List Nat := (List.range 4).filter fun l => s.role (BitVec.ofNat 2 l) == .compute

/-- fold16 of R203. -/
def fold16 (x : Nat) : Nat :=
  x % 65536 ^^^ x / 65536 % 65536 ^^^ x / 2 ^ 32 % 65536 ^^^ x / 2 ^ 48 % 65536

/-- The slice a hash selects (R203). -/
def State.hashSlice (s : State) (h : Nat) : BitVec 6 :=
  let ls := s.computeLayers
  let i := h * (16 * ls.length) / 65536
  BitVec.ofNat 6 (16 * ls.getD (i / 16) 0 + i % 16)

/-- Slice(pa) of R203, and the slice whose SRAM holds a slice-scratch line (R202). -/
def State.homeSlice (s : State) (line : Nat) : BitVec 6 :=
  if lineKind line = 2 then BitVec.ofNat 6 (16 * (linePa line / 2 ^ 24 % 4) + linePa line / 2 ^ 18 % 16)
  else s.hashSlice (fold16 (linePa line ^^^ if lineKind line = 1 then 0x8000 else 0))

/-- Router hops between columns, skip channels included (R13). -/
def hopsX (a b : Nat) : Nat :=
  let d := if a ≤ b then b - a else a - b
  Nat.min d (1 + if d ≤ 4 then 4 - d else d - 4)

/-- Router hops from a cluster to a slice's router (R12, R13). -/
def hopsToSlice (cl sl : Nat) : Nat :=
  let y := cl / 8
  hopsX (cl % 8) (sl % 8) + if sl < 8 then y else 5 - y

/-- The nearest slice of a core's layer (R208). -/
def nearestSlice (c : BitVec 16) : BitVec 6 :=
  let cl := ((clusterOf c).extractLsb' 0 6).toNat
  let best := (List.range 16).foldl (fun b n => if hopsToSlice cl n < hopsToSlice cl b then n else b) 0
  BitVec.ofNat 6 (16 * (layerOf (clusterOf c)).toNat + best)

/-! ### Next-use distance (R210, R212) -/

/-- The distance of a code; 0 for codes that name none (R210). -/
def nudDistance (c : BitVec 6) : Nat :=
  if 1 ≤ c.toNat && c.toNat ≤ 60 then (4 + c.toNat % 4) * 2 ^ (c.toNat / 4) / 4 else 0

/-- Streaming codes (R210). -/
def nudStream (c : BitVec 6) : Bool := c == 61 || c == 63

/-- A request with its code before and after substitution (R210); `kt` is a scale that does not depend on the tenant (R212). -/
structure Nud where
  code : BitVec 6
  carried : BitVec 6
  deflt : BitVec 6
  asid : BitVec 16
  pid : BitVec 2
  kt : Option Nat := none
  deriving DecidableEq, Repr

/-- The code with NUDDEF in place of 0 (R210). -/
def Nud.of (code deflt : BitVec 6) (asid : BitVec 16) (pid : BitVec 2) : Nud :=
  { code := if code = 0 then deflt else code, carried := code, deflt := deflt, asid := asid, pid := pid }

/-- A request of a page walker: code 32 with scale 1.0, not hinted (R210, R212). -/
def Nud.walker (asid : BitVec 16) (pid : BitVec 2) : Nud :=
  { code := 32, carried := 0, deflt := 32, asid := asid, pid := pid, kt := some 256 }

/-- A victim by class in the order of R213, among some ways: the way, and its line if one stands there. -/
def victimWay {α : Type} (way : α → Nat) (streaming stale : α → Bool) (rank : α → Int) (set : List α) (ways : List Nat) : Nat × Option α :=
  let at_ (w : Nat) := set.find? fun l => way l == w
  match ways.find? fun w => (at_ w).isNone with
  | some w => (w, none)
  | none =>
    match ways.find? fun w => match at_ w with | some l => streaming l | none => false with
    | some w => (w, at_ w)
    | none =>
      match ways.find? fun w => match at_ w with | some l => stale l | none => false with
      | some w => (w, at_ w)
      | none =>
        let best := ways.foldl (fun (b : Nat × Option α) w =>
          match b.2, at_ w with
          | none, some l => (w, some l)
          | some x, some l => if rank x < rank l then (w, some l) else b
          | _, none => b) (0, none)
        best

/-! ### Slices (R207, R212 to R216) -/

/-- A tenant's scale: its table entry, or its partition's TENSCALE (R215). -/
def State.tenantScale (s : State) (sl : Slice) (asid : BitVec 16) (pid : BitVec 2) : Nat :=
  match sl.tenants.find? fun t => t.asid == asid && t.pid == pid with
  | some t => t.kt.toNat
  | none => (s.part pid).regs.tenscale.toNat % 65536

/-- The scale of a request (R212, R215). -/
def State.scaleOf (s : State) (sl : Slice) (n : Nud) : Nat := n.kt.getD (s.tenantScale sl n.asid n.pid)

/-- A signed 32-bit difference (R212). -/
def ageDiff (due age : BitVec 32) : Int := (due - age).toInt

/-- NEAR and CAP of TENCAP (R121). -/
def State.tenNear (s : State) (pid : BitVec 2) : Nat := (s.part pid).regs.tencap.toNat / 2 ^ 32 % 65536
def State.tenCap (s : State) (pid : BitVec 2) : Nat := (s.part pid).regs.tencap.toNat % 2 ^ 24

/-- Lines of the tenant in the near window (R215). -/
def nearCount (sl : Slice) (asid : BitVec 16) (pid : BitVec 2) (near : Nat) : Nat :=
  (sl.lines.filter fun l => l.tenant == asid && l.pid == pid && 0 ≤ ageDiff l.due sl.age && ageDiff l.due sl.age ≤ near).length

/-- The code that a slice stamps: the carried NUDDEF when a hinted request would pass the tenant's cap (R215). -/
def State.sliceCode (s : State) (sl : Slice) (n : Nud) : BitVec 6 :=
  let off := nudDistance n.code * s.scaleOf sl n / 256
  if n.carried ≠ 0 && !nudStream n.code && off ≤ s.tenNear n.pid && s.tenCap n.pid ≤ nearCount sl n.asid n.pid (s.tenNear n.pid) then n.deflt
  else n.code

/-- The stamp of R212. -/
def State.stampS (s : State) (sl : Slice) (n : Nud) (l : SLine) : SLine :=
  let c := s.sliceCode sl n
  if nudStream c then { l with streaming := true, code := n.code, tenant := n.asid, pid := n.pid }
  else
    { l with
      due := sl.age + BitVec.ofNat 32 (nudDistance c * s.scaleOf sl n / 256), code := n.code
      streaming := false, stale := false, tenant := n.asid, pid := n.pid }

/-- One more request served: the age rises after every 64 (R212), as an event of its own. -/
def State.served (s : State) (id : BitVec 6) : State :=
  let sl := s.getSlice id
  let s := s.putSlice { sl with served := (sl.served + 1) % 64 }
  if (sl.served + 1) % 64 = 0 then s.push (.sliceAgeTick id) else s

/-- Cache ways of a slice: 24 less the scratch ways (R207). -/
def State.cacheWays (s : State) (id : BitVec 6) : Nat :=
  let l := id.extractLsb' 4 2
  let w := (List.range 4).foldl (fun acc p =>
    let q := s.part (BitVec.ofNat 2 p)
    if q.run && (List.range 48).any (fun c => s.clusterInPart (BitVec.ofNat 2 p) (BitVec.ofNat 8 (64 * l.toNat + c))) then q.scratchw else acc) 8
  24 - w

/-- The line's set in a slice: its low 13 address bits (DESIGN CHOICE, assumption 9: the manual does not name the index). -/
def sliceSet (line : Nat) : Nat := line % 8192

/-- A line leaves a slice: every outstanding sample of it is discarded (R216). A dirty line's bytes are at home already. -/
def State.evictS (s : State) (id : BitVec 6) (l : SLine) : State :=
  let sl := s.getSlice id
  (sl.samples.filter fun x => x.line == l.line).foldl (fun s x => s.push (.sampleOutcome id (BitVec.ofNat 64 l.line) x.pid x.asid .discarded))
    (s.putSlice { sl with lines := sl.lines.filter fun x => !(x.line == l.line && x.replica == l.replica) })

/-- A hinted request of a code that R216 samples: every 64th makes an event. -/
def State.sampleS (s : State) (id : BitVec 6) (line : Nat) (n : Nud) : State :=
  let sl := s.getSlice id
  if n.carried = 0 || nudStream n.code then s
  else
    let s := s.putSlice { sl with hinted := (sl.hinted + 1) % 64 }
    if (sl.hinted + 1) % 64 = 0 then s.push (.sliceSample id (BitVec.ofNat 64 line) n.pid n.asid) else s

/-- An access by its tenant to a sampled line that is not yet due decides the sample (R216). -/
def State.sampleUsed (s : State) (id : BitVec 6) (line : Nat) (n : Nud) : State :=
  let sl := s.getSlice id
  match sl.samples.find? fun x => x.line == line && x.asid == n.asid && x.pid == n.pid && 0 ≤ ageDiff x.due sl.age with
  | some x => s.push (.sampleOutcome id (BitVec.ofNat 64 line) x.pid x.asid .used)
  | none => s

/-- A line enters a slice over the victim of R213, or is stamped anew where it stands (R212). A slice whose ways are all scratch keeps no
line (R207, R213). -/
def State.fillS (s : State) (id : BitVec 6) (line : Nat) (n : Nud) (dirty replica keep : Bool) : State :=
  let sl := s.getSlice id
  match sl.lines.find? fun l => l.line == line && l.replica == replica with
  | some l =>
    let l' := if keep then { l with dirty := l.dirty || dirty } else { s.stampS sl n l with dirty := l.dirty || dirty }
    s.putSlice { sl with lines := sl.lines.map fun x => if x.line == line && x.replica == replica then l' else x }
  | none =>
    if s.cacheWays id = 0 then s else
    let v := victimWay SLine.way SLine.streaming SLine.stale (fun l => ageDiff l.due sl.age)
      (sl.lines.filter fun l => sliceSet l.line == sliceSet line) (List.range (s.cacheWays id))
    let s := match v.2 with | some l => s.evictS id l | none => s
    let sl := s.getSlice id
    s.putSlice { sl with lines := s.stampS sl n { line := line, way := v.1, dirty := dirty, replica := replica } :: sl.lines }

/-- A request that a slice serves, as the home of the line or from its replica (R208, R212 to R216). -/
def State.serveAt (s : State) (id : BitVec 6) (line : Nat) (n : Nud) (dirty replica : Bool) : State :=
  let s := s.served id
  if lineKind line = 2 then s
  else (((s.sampleUsed id line n).fillS id line n dirty replica false)).sampleS id line n

/-- A request at the home slice of a line (R212 to R216). -/
def State.sliceRequest (s : State) (line : Nat) (n : Nud) (dirty : Bool) : State := s.serveAt (s.homeSlice line) line n dirty false

/-- Every replica of a line is invalidated (R208). -/
def State.dropReplicas (s : State) (line : Nat) : State :=
  { s with slices := s.slices.map fun sl => { sl with lines := sl.lines.filter fun l => !(l.replica && l.line == line) } }

/-! ### Reductions (R303, R304, R206) -/

/-- op(x, y) on elements of a size in bytes (R303). -/
def redApply (op : RedOp) (size x y : Nat) : Nat :=
  let w := 8 * size
  match op with
  | .add => (x + y) % 2 ^ w
  | .or => x ||| y
  | .min u => if elemInt w u y < elemInt w u x then y else x
  | .max u => if elemInt w u x < elemInt w u y then y else x
  | .fadd bf => (fAdd (if size = 8 then 0 else if size = 4 then 1 else if bf then 3 else 2) .rne false x y).1

/-- The operator's identity (R303). -/
def redIdentity (op : RedOp) (size : Nat) : Nat :=
  let w := 8 * size
  match op with
  | .add => 0
  | .or => 0
  | .min u => if u then 2 ^ w - 1 else 2 ^ (w - 1) - 1
  | .max u => if u then 0 else 2 ^ (w - 1)
  | .fadd _ => 2 ^ (w - 1)

/-- A line of 64 bytes filled with the identity. -/
def redFill (op : RedOp) (size : Nat) : Nat :=
  (List.range (64 / size)).foldl (fun acc i => acc + redIdentity op size * 2 ^ (8 * size * i)) 0

/-- A contribution at byte offset `off` of a U line (R304). -/
def ULine.add (u : ULine) (off : Nat) (b : Nat) : ULine :=
  let w := 8 * u.size
  let x := u.data.toNat / 2 ^ (8 * off) % 2 ^ w
  let y := redApply u.op u.size x b
  { u with
    data := BitVec.ofNat 512 (u.data.toNat - x * 2 ^ (8 * off) + y * 2 ^ (8 * off))
    mask := u.mask ||| BitVec.ofNat 16 ((if u.size = 8 then 3 else 1) * 2 ^ (off / 4)) }

/-- One copy combined into the line's bytes, for touched words only (R206). -/
def ULine.into (u : ULine) (m : Memory) : Memory :=
  (List.range (64 / u.size)).foldl (fun m i =>
    let off := u.size * i
    if u.mask.getLsbD (off / 4) then
      let a := u.line * 64 + off
      m.write a u.size (redApply u.op u.size (m.read a u.size) (u.data.toNat / 2 ^ (8 * off) % 2 ^ (8 * u.size)))
    else m) m

/-- The copies and partials of a line in the order of R206: ascending core id; within a core partials in eviction order, then
the live copy. -/
def State.copiesOf (s : State) (line : Nat) : List (BitVec 16 × ULine) :=
  let cs := s.allCores.foldl (fun acc c => putBy Core.key c acc) []
  cs.flatMap fun c =>
    ((c.ulines.filter fun u => u.line == line && !u.live) ++ (c.ulines.filter fun u => u.line == line && u.live)).map fun u => (c.id, u)

/-! ### Errors (R391, R394) -/

/-- The record of an uncorrectable error in a home copy (R391, R395, R396). -/
def State.ueRecord (s : State) (asid : BitVec 16) (tid : BitVec 32) (line : Nat) : State :=
  let r := if lineKind line = 0 then { pRecord 0x04 3 4 with port := (Config.hbmController line).setWidth 7 } else pRecord 0x02 3 2
  { s with freeCount := s.freeCount + 1 }.report
    { r with address := BitVec.ofNat 64 (linePa line * 64), syndrome := Config.syndrome s.freeCount
             detail := if lineKind line = 0 then 0 else BitVec.ofNat 64 ((lineKind line).toNat + 4096), asid := asid, tid := tid }

/-- An undiscovered uncorrectable error is found: the line becomes poisoned and one record is written, for the task concerned, if
any (R391). -/
def State.findErrorFor (s : State) (asid : BitVec 16) (tid : BitVec 32) (line : Nat) : State :=
  ({ s with latent := s.latent.filter fun l => l != line, poison := line :: s.poison.filter fun l => l != line }).ueRecord asid tid line

/-- The running task finds it. -/
def State.findError (s : State) (line : Nat) : State := s.findErrorFor s.me.asid s.me.tid line

/-! ### The L1D (R204, R205, R212, R213) -/

/-- The way order of an L1D set. -/
def l1Set (line : Nat) : Nat := line % 64

/-- Staged lines that stand in a set of a core (R252). -/
def State.stagedIn (s : State) (c : BitVec 16) (set : Nat) : Nat :=
  (s.allTasks.map fun t => if t.stagedCore = some c then (t.staged.filter fun l => l1Set l.line == set).length else 0).sum

/-- The ways that staged lines hold in a set of a core. -/
def State.stagedWays (s : State) (c : BitVec 16) (set : Nat) : List Nat :=
  s.allTasks.flatMap fun t => if t.stagedCore = some c then (t.staged.filter fun l => l1Set l.line == set).map StagedLine.way else []

/-- What the L1D of a core sends with a line that leaves: the code last recorded with it (R212), for the task that the core runs. -/
def State.backNud (s : State) (c : BitVec 16) (l : L1Line) : Nud :=
  let t := s.getTask (s.getCore c).running
  { code := l.code, carried := 0, deflt := t.nuddef, asid := t.asid, pid := t.pid }

/-- M data of a line is written back to its home slice, which serves the writeback (R205, R212). -/
def State.homeBack (s : State) (line : Nat) (n : Nud) : State :=
  let home := s.homeSlice line
  if lineKind line = 2 then s.served home else (s.served home).fillS home line n true false true

/-- The line as another core holds it in M. -/
def State.heldM (s : State) (c : Option (BitVec 16)) (line : Nat) : Option (BitVec 16 × L1Line) :=
  s.allCores.findSome? fun k =>
    if c = some k.id then none else (k.l1d.find? fun l => l.line == line && l.st == .m).map fun l => (k.id, l)

/-- The M data of another core, if one has it, is written back. -/
def State.backOthers (s : State) (c : Option (BitVec 16)) (line : Nat) : State :=
  match s.heldM c line with
  | some (k, l) => s.homeBack line (s.backNud k l)
  | none => s

/-- Other cores' copies meet a read: a modified copy is written back, and every copy is then shared (R205). -/
def State.shareOthers (s : State) (c : BitVec 16) (line : Nat) : State :=
  let f (k : Core) : Core := if k.id = c then k else { k with l1d := k.l1d.map fun l => if l.line == line then { l with st := .s } else l }
  let s := s.backOthers (some c) line
  { s with core := f s.core, cores := s.cores.map f }

/-- Other agents' copies meet a write or an atomic: M data is written back, and the copies are invalidated, replicas included (R205,
R208). -/
def State.dropOthers (s : State) (c : Option (BitVec 16)) (line : Nat) : State :=
  let f (k : Core) : Core := if c = some k.id then k else { k with l1d := k.l1d.filter fun l => l.line != line }
  let s := s.backOthers c line
  ({ s with core := f s.core, cores := s.cores.map f }).dropReplicas line

/-- Some slice holds a replica of the line. -/
def State.hasReplica (s : State) (line : Nat) : Bool := s.slices.any fun sl => sl.lines.any fun l => l.replica && l.line == line

/-- Some other core, or a replica, holds the line. -/
def State.heldElsewhere (s : State) (c : BitVec 16) (line : Nat) : Bool :=
  (s.allCores.any fun k => k.id != c && k.l1d.any fun l => l.line == line) || s.hasReplica line

/-- Some L1D, as a line or a U line, or a replica holds the line (R207). -/
def State.heldAny (s : State) (line : Nat) : Bool :=
  (s.allCores.any fun k => (k.l1d.any fun l => l.line == line) || k.ulines.any fun u => u.live && u.line == line) || s.hasReplica line

/-- A write that the device has made to a line is followed by an event at its home, where a watch entry or a lock waiter waits for one of its
words (R308, R310, R332). -/
def State.followed (s : State) (line : Nat) : State :=
  if (s.slices.any fun sl => (sl.watch.any fun w => w.key / 64 == line) || sl.marks.any fun m => m.2.key / 64 == line) ||
      s.capWaits.any fun w => w.1 / 64 == line then
    s.push (.uLineCombine (BitVec.ofNat 64 line))
  else s

/-- The home combines every copy of a line before a reader proceeds (R206), and what waits for a write of the line looks at it next
(R308, R310, R332). Into a poisoned line nothing is combined: one record stands for the contributing cores, with the lowest of them as
its unit and their number as COUNT, since R394 gives a record one CORE field (R304; DESIGN CHOICE, assumption 77). -/
def State.combine (s : State) (line : Nat) : State :=
  match s.copiesOf line with
  | [] => s
  | u :: us =>
    let drop (c : Core) : Core := { c with ulines := c.ulines.filter fun u => u.line != line }
    let s := { s with core := drop s.core, cores := s.cores.map drop }
    let s := if s.latent.contains line then s.findErrorFor 0 0 line else s
    if s.poison.contains line then
      s.report { coreRecord 0x10 3 u.1 with
        address := BitVec.ofNat 64 (linePa line * 64), detail := 2, count := BitVec.ofNat 32 ((u :: us).map (·.1)).dedup.length }
    else ({ s.dropOthers none line with mem := (u :: us).foldl (fun (m : Memory) (u : BitVec 16 × ULine) => u.2.into m) s.mem }).followed line

/-! ### The directory (R207) -/

/-- The directory's set of a line: 262,144 entries in sets of 16, by the low 14 bits of its number (DESIGN CHOICE, assumption 9: the
manual does not name the index). -/
def dirSet (line : Nat) : Nat := line % 16384

/-- A directory eviction recalls every copy of its line: M data is written back, U copies are combined and replicas are dropped
(R207). -/
def State.recall (s : State) (line : Nat) : State := (s.combine line).dropOthers none line

/-- A line that an L1D is to hold enters the directory of its home. Entries of lines that nothing holds any more are free, and a full
set gives up an entry of its own choice (R207; DESIGN CHOICE, assumption 9). -/
def State.dirEnter (s : State) (line : Nat) : State :=
  let id := s.homeSlice line
  let dir := (s.getSlice id).dir
  if dir.contains line then s
  else
    let live := dir.filter fun l => s.heldAny l && s.homeSlice l == id
    let full := live.filter fun l => dirSet l == dirSet line
    let v := if full.length < 16 then none else full[Config.freeNat s.freeCount % full.length]?
    match v with
    | none => s.onSlice id fun sl => { sl with dir := line :: live }
    | some l =>
      ({ s with freeCount := s.freeCount + 1 }.recall l).onSlice id fun sl => { sl with dir := line :: live.filter fun x => x != l }

/-! ### Lines of the L1D -/

/-- An L1D line leaves: a modified line is written back, and a line whose home is on another layer becomes a replica in the
nearest slice (R205, R208). Writebacks and replicas that allocate use the code last recorded with the line (R212). -/
def State.evictL1 (s : State) (c : BitVec 16) (l : L1Line) : State :=
  let n := s.backNud c l
  let s := s.onCoreId c fun k => { k with l1d := k.l1d.filter fun x => x.line != l.line }
  let s := if l.st = .m then s.homeBack l.line n else s
  if lineKind l.line ≠ 2 && (s.homeSlice l.line).extractLsb' 4 2 ≠ layerOf (clusterOf c) && s.role (layerOf (clusterOf c)) = .compute then
    (s.served (nearestSlice c)).fillS (nearestSlice c) l.line n false true true
  else s

/-- A live U line of a core goes home as a pending partial (R205). -/
def Core.partial_ (c : Core) (line : Nat) : Core :=
  { c with ulines := (c.ulines.filter fun u => u.line != line || !u.live) ++
      ((c.ulines.filter fun u => u.line == line && u.live).map fun u => { u with live := false }) }

/-- A way for a line of a core's L1D, over the victim of R213; a U line among the victims goes home as a partial (R205). `none`
where staged lines hold every way. -/
def State.makeWay (s : State) (c : BitVec 16) (line : Nat) : State × Option Nat :=
  let k := s.getCore c
  let held := s.stagedWays c (l1Set line)
  let ways := (List.range 8).filter fun w => !held.contains w
  if ways.isEmpty then (s, none)
  else
    let us : List L1Line := (k.ulines.filter fun u => u.live && l1Set u.line == l1Set line).map fun u =>
      { line := u.line, way := u.way, st := .s, due := u.due, streaming := u.streaming, stale := u.stale }
    let v := victimWay L1Line.way L1Line.streaming L1Line.stale (fun l => ageDiff l.due k.cclk)
      ((k.l1d.filter fun l => l1Set l.line == l1Set line) ++ us) ways
    match v.2 with
    | none => (s, some v.1)
    | some l => (if us.any fun u => u.line == l.line then s.onCoreId c fun k => k.partial_ l.line else s.evictL1 c l, some v.1)

/-- A line is stamped in the L1D with CCLK as age and no scale (R212). -/
def stampL1 (cclk : BitVec 32) (n : Nud) (l : L1Line) : L1Line :=
  if nudStream n.code then { l with streaming := true, code := n.code }
  else { l with due := cclk + BitVec.ofNat 32 (nudDistance n.code), streaming := false, stale := false, code := n.code }

/-- A slice of a core's layer that holds a replica of a line (R208). -/
def State.replicaFor (s : State) (c : BitVec 16) (line : Nat) : Option (BitVec 6) :=
  (s.slices.find? fun sl => sl.id.extractLsb' 4 2 == layerOf (clusterOf c) && sl.lines.any fun l => l.replica && l.line == line).map Slice.id

/-- A request of an L1D miss: a replica of the core's own layer serves a load, and else the home slice (R208). -/
def State.missRequest (s : State) (c : BitVec 16) (line : Nat) (n : Nud) (write dirty : Bool) : State :=
  match s.replicaFor c line with
  | some id => if write then s.sliceRequest line n dirty else s.serveAt id line n false true
  | none => s.sliceRequest line n dirty

/-- A load or store of a line that the L1D may hold (R204, R205, R207, R208, R212, R213). A store to a line held in S asks its home for
ownership. (DEDUCED, assumption 75) -/
def State.l1Access (s : State) (c : BitVec 16) (line : Nat) (n : Nud) (l1p : BitVec 2) (write : Bool) : State :=
  let s := s.combine line
  let k := s.getCore c
  match k.l1d.find? fun l => l.line == line with
  | some l =>
    let s := if write then (if l.st = .s then (s.dropOthers (some c) line).sliceRequest line n false else s.dropOthers (some c) line) else s
    let l' := stampL1 k.cclk n (if write then { l with st := .m } else l)
    s.onCoreId c fun k => { k with l1d := k.l1d.map fun x => if x.line == line then l' else x }
  | none =>
    let elsewhere := s.heldElsewhere c line
    let s := if write then s.dropOthers (some c) line else s.shareOthers c line
    if l1p = 1 then s.missRequest c line n write write
    else
      let st : L1St := if write then .m else if elsewhere then .s else .e
      let s := (s.missRequest c line n write false).dirEnter line
      let m := s.makeWay c line
      match m.2 with
      | none => m.1
      | some w => m.1.onCoreId c fun k => { k with l1d := stampL1 k.cclk n { line := line, way := w, st := st } :: k.l1d }

/-- An atomic, a home reduction or an engine's access at the home: every L1D copy goes first (R204, R205). -/
def State.homeAccess (s : State) (line : Nat) (n : Nud) (write : Bool) : State :=
  let s := s.combine line
  let s := if write then s.dropOthers none line else s.shareOthers 0xFFFF line
  s.sliceRequest line n write

end Sys2Proof.Machine
end

