-- ==== Sys2Proof/Machine/Sched.lean ====
section
/-!
DEFINITION. Ready queues, wakes, deques with their spill blocks, and the placing of records in a cluster (R63 to R71, R75, R355).
-/

namespace Sys2Proof.Machine

/-- Cycles of 250 ns (R64). -/
def wakeGap : Nat := 600

/-- A gated cluster begins to wake (R64, R65). Wakes begin at least 250 ns apart: one that would come sooner is deferred, and begins
when that time is over. -/
def State.wakeCluster (s : State) (cl : BitVec 8) : State :=
  let c := s.getCluster cl
  if c.awake || c.waking then s
  else ({ s with lastWake := Nat.max s.clock (s.lastWake + wakeGap) }.putCluster { c with waking := true }).push (.clusterWakeComplete cl)

/-- Parked tasks that a future, a counter or a lock wakes stand at the head of their clusters' ready queues in this order, or wait for
the end of the quantum where they have DET set (R34, R78, R355). A gated cluster is woken (R65). -/
def State.wakeHead (s : State) (ts : List (BitVec 32)) : State :=
  ts.foldr (fun t s =>
    match s.findTask t with
    | none => s
    | some x =>
      if x.st ≠ .parked then s
      else if x.det && (s.part x.pid).regs.detctl.getLsbD 0 then
        s.onCoreId x.core fun c => { c with detReqs := c.detReqs ++ [.wake t] }
      else (s.onCluster x.cl fun c => { c with ready := t :: c.ready.filter (· != t) }).wakeCluster x.cl) s

/-- The task enters at the tail (R130, R355, R364). -/
def State.wakeTail (s : State) (t : BitVec 32) : State :=
  match s.findTask t with
  | none => s
  | some x => (s.onCluster x.cl fun c => { c with ready := c.ready ++ [t] }).wakeCluster x.cl

/-- Some cluster's ready queue holds the task. -/
def State.isReady (s : State) (x : Task) : Bool := (s.getCluster x.cl).ready.contains x.tid

/-- Wakes, at the tail, every parked task of a predicate that no queue holds yet. -/
def State.wakeWhere (s : State) (p : Task → Bool) : State :=
  (s.allTasks.filter fun t => t.st == .parked && p t && !s.isReady t).foldl (fun s t => s.wakeTail t.tid) s

/-- Wakes such tasks at the head. -/
def State.wakeHeadWhere (s : State) (p : Task → Bool) : State :=
  s.wakeHead ((s.allTasks.filter fun t => t.st == .parked && p t && !s.isReady t).map Task.tid)

/-! ### Deques (R67, R68) -/

/-- Entries of a core's deque, spill blocks included. -/
def Core.dequeLen (c : Core) : Nat := c.deque.length + (c.blocks.map fun b => b.1.length).sum

/-! ### Room for what leaves its core (R16, R68, R75, R76, R423) -/

/-- The lowest place for a run in an area of `size` units. -/
def fitRun (rs : List Run) (size len : Nat) : Option Nat :=
  ((0 :: rs.map fun r => r.at_ + r.len).filter fun a => a + len ≤ size && rs.all fun r => a + len ≤ r.at_ || r.at_ + r.len ≤ a).min?

/-- The first system frame of a cluster, and their number (R16). -/
def sysFrameBase : Nat := 1536
def sysFrameCount : Nat := 512

/-- Takes contiguous system frames of a cluster, the lowest that are free. -/
def State.takeFrames (s : State) (cl : BitVec 8) (frames : Nat) : Option (State × Room) :=
  let c := s.getCluster cl
  (fitRun c.sysFrames sysFrameCount frames).map fun a => (s.putCluster { c with sysFrames := { at_ := a, len := frames } :: c.sysFrames }, .frames (sysFrameBase + a))

/-- Takes bytes of the partition spill area, at the lowest place that holds them. -/
def State.takeArea (s : State) (pid : BitVec 2) (bytes : Nat) : Option (State × Room) :=
  let p := s.part pid
  (fitRun p.spRuns p.spsize bytes).map fun a => (s.onPart pid fun p => { p with spRuns := { at_ := a, len := bytes } :: p.spRuns }, .spillArea a)

/-- Takes bytes of the partition context area, at the lowest place that holds them. -/
def State.takeCtx (s : State) (pid : BitVec 2) (bytes : Nat) : Option (State × Room) :=
  let p := s.part pid
  (fitRun p.ctxRuns p.ctxsize bytes).map fun a => (s.onPart pid fun p => { p with ctxRuns := { at_ := a, len := bytes } :: p.ctxRuns }, .ctxArea a)

/-- Takes contiguous system frames, or room in the partition spill area where no such run is free (R68, R75, R76).
(DESIGN CHOICE, assumption 32) -/
def State.takeSpill (s : State) (cl : BitVec 8) (pid : BitVec 2) (frames bytes : Nat) : Option (State × Room) :=
  match s.takeFrames cl frames with
  | some r => some r
  | none => s.takeArea pid bytes

/-- The bytes that a room covers: in cluster memory where the flag holds, and else in device memory (R423). -/
def State.roomAt (s : State) (cl : BitVec 8) (pid : BitVec 2) : Room → Option (Bool × Nat)
  | .frames f => some (true, cmKey cl (4096 * f))
  | .spillArea off => some (false, (s.part pid).spbase + off)
  | .ctxArea off => some (false, (s.part pid).ctxbase + off)
  | .core => none
  | .image => none

/-- A change of n bytes of a room: of cluster memory, or of device memory at their home. Lines that it covers whole lose their poison
(R230). -/
def State.onRoom (s : State) (cl : BitVec 8) (pid : BitVec 2) (r : Room) (off n : Nat) (f : Memory → Nat → Memory) : State :=
  match s.roomAt cl pid r with
  | none => s
  | some (true, k) =>
    let ls := (linesOf (k + off) n).map fun l => localLine 0 (64 * l)
    { s with cm := f s.cm (k + off), localPoison := s.localPoison.filter (!ls.contains ·), localLatent := s.localLatent.filter (!ls.contains ·) }
  | some (false, k) =>
    let ls := linesOf (k + off) n
    let s := ls.foldl (fun (s : State) l => (s.combine l).dropOthers none l) s
    { s with mem := f s.mem (k + off), poison := s.poison.filter (!ls.contains ·), latent := s.latent.filter (!ls.contains ·) }

/-- What the manual gives no layout is written there: the bytes are undefined (R75, R371; DESIGN CHOICE, assumption 32). -/
def State.fillRoom (s : State) (cl : BitVec 8) (pid : BitVec 2) (r : Room) (n : Nat) : State :=
  { s.onRoom cl pid r 0 n fun m k => m.forget k (k + n) s.freeCount with freeCount := s.freeCount + 1 }

/-- Bytes are written there. -/
def State.writeRoom (s : State) (cl : BitVec 8) (pid : BitVec 2) (r : Room) (off n v : Nat) : State :=
  s.onRoom cl pid r off n fun m k => m.write k n v

/-- The bytes there. Contributions of U copies join those of device memory first (R206). -/
def State.readRoom (s : State) (cl : BitVec 8) (pid : BitVec 2) (r : Room) (off n : Nat) : State × Nat :=
  match s.roomAt cl pid r with
  | none => (s, 0)
  | some (true, k) => (s, s.cm.read (k + off) n)
  | some (false, k) =>
    let s := (linesOf (k + off) n).foldl State.combine s
    (s, s.mem.read (k + off) n)

/-- Held records of a cluster are pushed, and its SPAWNs parked for want of room issue again (R68). -/
def State.blockFreed (s : State) (cl : BitVec 8) : State :=
  let s := if (s.getCluster cl).held.isEmpty then s else s.push (.heldRecordPush cl)
  s.wakeWhere fun t => t.parkCause == 0x0B4 && t.cl == cl

/-- Gives room back; what waits for a block looks again, in the cluster for a system frame, and in every cluster of the partition for
the partition spill area (R68, R423). -/
def State.giveRoom (s : State) (cl : BitVec 8) (pid : BitVec 2) : Room → State
  | .frames f =>
    (s.onCluster cl fun c => { c with sysFrames := c.sysFrames.filter fun r => sysFrameBase + r.at_ != f }).blockFreed cl
  | .spillArea off =>
    let s := s.onPart pid fun p => { p with spRuns := p.spRuns.filter fun r => r.at_ != off }
    (s.clusters.filter fun c => s.clusterInPart pid c.id).foldl (fun s c => s.blockFreed c.id) s
  | .ctxArea off => s.onPart pid fun p => { p with ctxRuns := p.ctxRuns.filter fun r => r.at_ != off }
  | .core => s
  | .image => s

/-- Messages that a system frame of a class queue holds: of 256 bytes each, the largest of MAXMSG flits (R317; DESIGN CHOICE, assumption 32). -/
def msgsPerFrame : Nat := 16

/-- System frames that the class queues of a cluster need. -/
def Cluster.msgNeed (c : Cluster) (msgs : List Message) : Nat :=
  let _ := c
  ((List.range 16).map fun n => ((msgs.filter fun m => m.cls.toNat == n).length + msgsPerFrame - 1) / msgsPerFrame).sum

/-- The class queues of a cluster hold the system frames that they need, as far as frames are free (R317). -/
def State.fitMsgs (s : State) (cl : BitVec 8) : State :=
  let c := s.getCluster cl
  let n := c.msgNeed c.msgs
  let s := (c.msgFrames.drop n).foldl (fun s f => s.giveRoom cl 0 (.frames f)) (s.onCluster cl fun c => { c with msgFrames := c.msgFrames.take n })
  (List.range (n - c.msgFrames.length)).foldl (fun s _ =>
    match s.takeFrames cl 1 with
    | some (s, .frames f) => s.onCluster cl fun c => { c with msgFrames := c.msgFrames.concat f }
    | _ => s) s

/-- The class queues of a cluster have room for one more message. -/
def State.msgRoom (s : State) (cl : BitVec 8) (m : Message) : Bool :=
  let c := s.getCluster cl
  let n := c.msgNeed (c.msgs.concat m)
  n ≤ c.msgFrames.length || (fitRun c.sysFrames sysFrameCount 1).isSome

/-- Sizes: a context with its vector overflow, a deque block and a matrix image (R68, R75, R76, R366). -/
def contextBytes : Nat := 4096
def blockBytes : Nat := 1024
def matrixBytes : Nat := 98304

/-- A core starts no task of a partition: a pre-emption request reached it, or its layer's role is changing (R82, R365). -/
def State.heldCore (s : State) (pid : BitVec 2) (c : BitVec 16) : Bool :=
  (s.part pid).preempt || s.drains.getLsbD (layerOf (clusterOf c)).toNat

/-- Gives back what a task holds off its core. -/
def State.giveTaskRoom (s : State) (x : Task) : State :=
  ((s.giveRoom x.cl x.pid x.away).giveRoom x.cl x.pid x.imgAway).giveRoom x.cl x.pid x.mxAway

/-- 64 bytes of eight words. -/
def wordsNat (ws : List Word) : Nat := ws.foldr (fun w acc => w.toNat + 2 ^ 64 * acc) 0

/-- The records of a new spill block, from its bottom up, each of 64 bytes (R22, R68). -/
def State.writeBlock (s : State) (cl : BitVec 8) (pid : BitVec 2) (r : Room) (ts : List (BitVec 32)) : State :=
  (List.range ts.length).foldl (fun s i => s.writeRoom cl pid r (64 * i) 64 (wordsNat (s.getTask (ts.getD i 0)).tw.toList)) s

/-- Pushes a record at the bottom of a deque. The deque lists its bottom first; a full hardware part moves the 16 entries nearest
its top to a new lowest spill block. `none` where no room is left (R67, R68). -/
def State.pushDeque (s : State) (c : BitVec 16) (t : BitVec 32) (pid : BitVec 2) : Option State :=
  let k := s.getCore c
  if k.deque.length < 32 then some (s.putCore { k with deque := t :: k.deque })
  else
    match s.takeSpill (clusterOf c) pid 1 blockBytes with
    | none => none
    | some (s, r) =>
      let n := k.deque.length - 16
      some ((s.writeBlock (clusterOf c) pid r (k.deque.drop n)).onCoreId c fun k => { k with deque := t :: k.deque.take n, blocks := (k.deque.drop n, r) :: k.blocks })

/-- The owner's pop at the bottom; an empty hardware part is refilled from the lowest spill block first (R67, R68). -/
def State.popDeque (s : State) (c : BitVec 16) (pid : BitVec 2) : State × Option (BitVec 32) :=
  let k := s.getCore c
  match k.deque with
  | t :: ts => (s.putCore { k with deque := ts }, some t)
  | [] =>
    match k.blocks with
    | [] => (s, none)
    | (b, r) :: bs => ((s.putCore { k with deque := b.drop 1, blocks := bs }).giveRoom (clusterOf c) pid r, b.head?)

/-- The top record: of the topmost spill block, else of the hardware part (R68, R70). -/
def Core.topRecord (c : Core) : Option (BitVec 32) :=
  match c.blocks.getLast? with
  | some b => b.1.getLast?
  | none => c.deque.getLast?

/-- A steal takes the top record (R67, R68). -/
def State.takeTop (s : State) (c : BitVec 16) (pid : BitVec 2) : State :=
  let k := s.getCore c
  match k.blocks.getLast? with
  | some b =>
    if b.1.length ≤ 1 then (s.putCore { k with blocks := k.blocks.dropLast }).giveRoom (clusterOf c) pid b.2
    else s.putCore { k with blocks := k.blocks.dropLast ++ [(b.1.dropLast, b.2)] }
  | none => s.putCore { k with deque := k.deque.dropLast }

/-- Takes a record out of whatever deque or block holds it (R34: CANCEL). A block that loses its last record is freed. -/
def State.unqueue (s : State) (t : BitVec 32) : State :=
  let lone (b : List (BitVec 32) × Room) : Bool := b.1 == [t]
  let pid := (s.getTask t).pid
  let freed : Option (BitVec 16 × Room) := s.allCores.findSome? fun (c : Core) => (c.blocks.find? lone).map fun b => (c.id, b.2)
  let f (c : Core) : Core :=
    { c with
      deque := c.deque.filter fun x => x != t, prep := c.prep.filter fun x => x != t
      blocks := (c.blocks.map fun b => (b.1.filter fun x => x != t, b.2)).filter fun b => !b.1.isEmpty }
  let s := { s with
    core := f s.core, cores := s.cores.map f
    clusters := s.clusters.map fun c => { c with
      held := c.held.filter fun x => x.1 != t, launchWait := c.launchWait.filter fun x => x != t
      ready := c.ready.filter fun x => x != t } }
  match freed with
  | some (c, r) => s.giveRoom (clusterOf c) pid r
  | none => s

/-! ### Placing a record in a cluster (R66, R68) -/

/-- The core that R66 chooses: the awake core with the fewest entries, or the lowest gated core when each awake one has two. A core
whose wake is under way still counts as gated (DESIGN CHOICE, assumption 78). -/
def State.chooseCore (s : State) (cl : BitVec 8) (pid : BitVec 2) : BitVec 16 × Bool :=
  let cs := s.partCores pid cl
  let awake := cs.filter fun c => (s.getCore c).awake
  let best := awake.foldl (fun (b : Option (BitVec 16)) c =>
    match b with
    | none => some c
    | some x => if (s.getCore c).dequeLen < (s.getCore x).dequeLen then some c else some x) none
  let gated := (cs.filter fun c => !(s.getCore c).awake).head?
  match best, gated with
  | some b, some g => if 2 ≤ (s.getCore b).dequeLen then (g, true) else (b, false)
  | some b, none => (b, false)
  | none, some g => (g, true)
  | none, none => (coreIn cl 0, false)

/-- A gated core begins to wake (R66). -/
def State.wakeCore (s : State) (c : BitVec 16) : State :=
  let k := s.getCore c
  if k.awake || k.waking then s else (s.putCore { k with waking := true }).push (.coreWakeComplete c)

/-- Places a record in a cluster as R66 places one from Prism; without room the cluster holds it (R68). -/
def State.placeRecord (s : State) (t : BitVec 32) (cl : BitVec 8) : State :=
  let x := s.getTask t
  let s := s.onTask t fun x => { x with cl := cl }
  let ch := s.chooseCore cl x.pid
  let s := if ch.2 then s.wakeCore ch.1 else s
  let s := s.wakeCluster cl
  if (s.getCluster cl).held.isEmpty then
    match s.pushDeque ch.1 t x.pid with
    | some s => s
    | none => s.onCluster cl fun c => { c with held := c.held ++ [(t, ch.1)] }
  else s.onCluster cl fun c => { c with held := c.held ++ [(t, ch.1)] }

/-! ### New tasks -/

/-- The task of a record in a new state QUEUED (R22, R37); its id is the next of the device (DESIGN CHOICE, assumption 5). -/
def State.newTask (s : State) (pid : BitVec 2) (asid : BitVec 16) (tw : Vector Word 8) : State × BitVec 32 :=
  let t : Task := { tid := s.nextTid, pid := pid, asid := asid, tw := tw, self := tw[5] }
  ({ s with tasks := putBy Task.key t s.tasks, nextTid := s.nextTid + 1 }, s.nextTid)

/-- Fields of the control word TW7 (R23). -/
def twBudget (w : Word) : BitVec 8 := w.extractLsb' 0 8
def twPrio (w : Word) : BitVec 2 := w.extractLsb' 8 2
def twBarrier (w : Word) : Bool := w.getLsbD 10
def twReplayable (w : Word) : Bool := w.getLsbD 11
def twSteal (w : Word) : BitVec 2 := w.extractLsb' 12 2
def twTcount (w : Word) : Nat := (w.extractLsb' 14 2).toNat + 1
def twDet (w : Word) : Bool := w.getLsbD 16
def twHandler (w : Word) : Bool := w.getLsbD 17
def twLqid (w : Word) : BitVec 12 := w.extractLsb' 20 12

/-- Cycles a budget code grants, at most BUDGETMAX (R24, R121). -/
def State.budgetOf (s : State) (pid : BitVec 2) (code : BitVec 8) : BitVec 32 :=
  let r := (s.part pid).regs.budgetmax
  let c := if code = 0 then (r.extractLsb' 32 8).toNat else code.toNat
  let n := (16 + c % 16) * 2 ^ (c / 16)
  BitVec.ofNat 32 (Nat.min n (r.toNat % 2 ^ 32))

/-- The checks of R25 that need only the record: `none` where it passes. Where several fail, the first row of R25's table is reported
(DESIGN CHOICE, assumption 79: the rule gives no order). -/
def recordCause (tw : Vector Word 8) : Option Cause :=
  let w := tw[7]
  if tw[0].extractLsb' 0 2 ≠ 0 then some 0x0B0
  else if w.extractLsb' 32 32 ≠ 0 || w.extractLsb' 18 2 ≠ 0 || 63 < (twLqid w).toNat then some 0x0B1
  else if twHandler w then some 0x0B2
  else if tw[4] = 0 && w.extractLsb' 14 2 ≠ 0 then some 0x0B1
  else none

end Sys2Proof.Machine
end

