-- ==== Sys2Proof/Machine/Walk.lean ====
section
/-!
DEFINITION. Translation (R217 to R224), the system address space (R359, R430), watch entries (R310), and the trap ring and fault
buffer (R360, R361, R369).
-/

namespace Sys2Proof.Machine

/-- A physical place with its page's ordering attribute (R202, R218). -/
structure Phys where
  kind : BitVec 3
  pa : Nat
  ord : BitVec 2
  deriving DecidableEq, Repr

def Phys.key (p : Phys) : Nat := physKey p.kind p.pa
def Phys.line (p : Phys) : Nat := p.key / 64

/-- Bits [lo + n − 1 : lo] of a number. -/
def fld (x lo n : Nat) : Nat := x / 2 ^ lo % 2 ^ n

/-- Bits of TlbEnt.perms: R, W, X, U, G, D. -/
def permR (p : BitVec 7) : Bool := p.getLsbD 0
def permW (p : BitVec 7) : Bool := p.getLsbD 1
def permX (p : BitVec 7) : Bool := p.getLsbD 2
def permU (p : BitVec 7) : Bool := p.getLsbD 3
def permG (p : BitVec 7) : Bool := p.getLsbD 4
def permD (p : BitVec 7) : Bool := p.getLsbD 5

/-- Access kinds that need R, and that need W (R220). -/
def Access.needsR (a : Access) : Bool := a == .read || a == .atomic
def Access.needsW (a : Access) : Bool := a == .write || a == .atomic

/-- The limits of R219 that the walk sees. (DEDUCED, assumption 24) -/
def kindLimit (kind pa : Nat) : Bool :=
  match kind with
  | 0 => pa < 2 ^ 39
  | 1 => pa < 2 ^ 32 && pa % 2 ^ 30 < 0x24000000
  | 2 => pa < 2 ^ 32 && fld pa 28 2 == 0
  | _ => true

/-- A found leaf: its TLB entry, where its table entry stands, and the entry's value. -/
structure Leaf where
  ent : TlbEnt
  pteKey : Nat
  pte : Nat
  pa : Nat
  deriving DecidableEq, Repr

/-- The checks of a leaf in the order of R220. `lvl` is 1 or 2. -/
def leafCheck (pid : BitVec 2) (asid : BitVec 16) (priv : Bool) (va : Nat) (acc : Access) (lvl p key : Nat) : Except Cause Leaf :=
  let kind := fld p 61 3
  let ppa := fld p 16 36 * 65536
  let contig := fld p 2 1 = 1
  let sh := if lvl = 1 then 16 else 29
  let log := sh + if contig then 5 else 0
  let pa := ppa / 2 ^ sh * 2 ^ sh + va % 2 ^ sh
  let perms : BitVec 7 := BitVec.ofNat 7 (fld p 7 5 + 32 * fld p 13 1)
  if fld p 14 2 = 3 then .error 0x050
  else if 5 ≤ kind then .error 0x051
  else if lvl = 2 && fld ppa 16 13 ≠ 0 then .error 0x056
  else if contig && fld ppa sh 5 ≠ fld va sh 5 then .error 0x053
  else if !kindLimit kind pa then .error 0x055
  else if !priv && !permU perms then .error 0x04B
  else if acc.needsR && !permR perms then .error 0x048
  else if acc.needsW && !permW perms then .error 0x049
  else if acc == .exec && !permX perms then .error 0x04A
  else
    .ok { ent := { pid := pid, asid := asid, log := log, page := va / 2 ^ log, kind := BitVec.ofNat 3 kind, pa := pa / 2 ^ log * 2 ^ log
                   ord := BitVec.ofNat 2 (fld p 14 2), perms := perms }
          pteKey := key, pte := p, pa := pa }

/-- n bytes of one line as its home gives them to a reader: every U copy and partial combined (R205, R206, R217). -/
def State.homeRead (s : State) (key n : Nat) : Nat :=
  match s.copiesOf (key / 64) with
  | [] => s.mem.read key n
  | us =>
    if s.poison.contains (key / 64) then s.mem.read key n
    else (us.foldl (fun (m : Memory) (u : BitVec 16 × ULine) => u.2.into m) s.mem).read key n

/-- The place of a VA's entry in the table at level `lvl` + 1 (R220). -/
def tableKey (va lvl t : Nat) : Nat :=
  t + 8 * match lvl with | 3 => fld va 55 9 | 2 => fld va 42 13 | 1 => fld va 29 13 | _ => fld va 16 13

/-- The walk from a table at level `lvl` down (R220). -/
def State.walkFrom (s : State) (pid : BitVec 2) (asid : BitVec 16) (priv : Bool) (va : Nat) (acc : Access) : Nat → Nat → Except Cause Leaf
  | 0, _ => .error 0x052
  | lvl + 1, t =>
    let key := tableKey va lvl t
    let p := s.homeRead key 8
    if p % 2 = 0 then .error (BitVec.ofNat 9 (0x041 + 3 - lvl))
    else if fld p 1 1 = 0 then
      if fld p 2 14 ≠ 0 || fld p 52 12 ≠ 0 then .error 0x054
      else if lvl = 0 then .error 0x052
      else s.walkFrom pid asid priv va acc lvl (fld p 16 36 * 65536)
    else if fld p 3 4 ≠ 0 || fld p 52 9 ≠ 0 then .error 0x054
    else if 2 ≤ lvl then .error 0x052
    else leafCheck pid asid priv va acc (lvl + 1) p key

/-- The lines of the tables that a walk from level `lvl` down reads. -/
def State.tableLines (s : State) (va : Nat) : Nat → Nat → List Nat
  | 0, _ => []
  | lvl + 1, t =>
    let key := tableKey va lvl t
    let p := s.homeRead key 8
    key / 64 :: if p % 2 = 0 || fld p 1 14 ≠ 0 || fld p 52 12 ≠ 0 then [] else s.tableLines va lvl (fld p 16 36 * 65536)

/-- Translate of R220, without its effects. -/
def State.walk (s : State) (pid : BitVec 2) (asid : BitVec 16) (priv : Bool) (va : Word) (acc : Access) : Except Cause Leaf :=
  let a := (s.part pid).astab + 16 * asid.toNat
  let e0 := s.homeRead a 8
  let e1 := s.homeRead (a + 8) 8
  if e0 % 2 = 0 then .error 0x040
  else if fld e0 1 15 ≠ 0 || fld e0 52 12 ≠ 0 || e1 ≠ 0 then .error 0x054
  else s.walkFrom pid asid priv va.toNat acc 4 (fld e0 16 36 * 65536)

/-- The walker reads the tables coherently at their homes, as a reader of each line, with code 32 and scale 1.0 (R205, R212, R217). -/
def State.walkReads (s : State) (pid : BitVec 2) (asid : BitVec 16) (va : Word) : State :=
  let a := (s.part pid).astab + 16 * asid.toNat
  let e0 := s.homeRead a 8
  (a / 64 :: if e0 % 2 = 0 || fld e0 1 15 ≠ 0 || fld e0 52 12 ≠ 0 || s.homeRead (a + 8) 8 ≠ 0 then [] else
    s.tableLines va.toNat 4 (fld e0 16 36 * 65536)).foldl (fun s l => s.homeAccess l (Nud.walker asid pid) false) s

/-- The bits that an access sets in a leaf: A, and D where it writes (R222). -/
def adBits (acc : Access) : Nat := 0x1000 ||| if acc.needsW then 0x2000 else 0

/-- A leaf whose bits stand already. -/
def Leaf.marked (l : Leaf) (acc : Access) : Bool := l.pte ||| adBits acc == l.pte

/-- Sets A, and D where the access writes, by an indivisible OR at the entry's home (R205, R222). -/
def State.setAD (s : State) (l : Leaf) (acc : Access) : State :=
  if l.marked acc then s
  else
    let s := s.homeAccess (l.pteKey / 64) (Nud.walker l.ent.asid l.ent.pid) true
    { s with mem := s.mem.write l.pteKey 8 (s.mem.read l.pteKey 8 ||| adBits acc) }

/-- The access reaches a window that its layer's role does not give, or slice scratch beyond its size (R219). -/
def State.windowBad (s : State) (p : Phys) : Bool :=
  let l := BitVec.ofNat 2 (p.pa / 2 ^ 30)
  if p.kind = 1 then s.role l != .memory || s.lost.getLsbD l.toNat
  else if p.kind = 2 then
    s.role l != .compute || 2 ^ 19 * (24 - s.cacheWays (BitVec.ofNat 6 (16 * l.toNat + fld p.pa 24 4))) ≤ p.pa % 2 ^ 24
  else false

/-- The cause is repaired by software and replay-all: XLATE-NP or XLATE-PERM (R220, R430). -/
def faultCause (c : Cause) : Bool := c.toNat / 8 == 8 || c.toNat / 8 == 9

/-- An access of a cluster, an engine or a home in the system address space (R121, R359); a bad window refuses it (R219, R430). -/
def State.sysPhys (s : State) (pid : BitVec 2) (va : Word) (acc : Access) : Except Cause (State × Phys) :=
  match s.walk pid (s.part pid).sysasid true va acc with
  | .error c => .error c
  | .ok l =>
    let p : Phys := { kind := l.ent.kind, pa := l.pa, ord := l.ent.ord }
    if s.windowBad p then .error 0x172 else .ok ((s.walkReads pid (s.part pid).sysasid va).setAD l acc, p)

/-- Bytes of an area that lie in one page. -/
def State.sysRead (s : State) (pid : BitVec 2) (va : Word) (n : Nat) : Except Cause (State × Nat) :=
  match s.sysPhys pid va .read with
  | .error c => .error c
  | .ok (s, p) =>
    let s := s.homeAccess p.line (Nud.of 0 (s.part pid).nuddef (s.part pid).sysasid pid) false
    .ok (s, s.mem.read p.key n)

def State.sysWrite (s : State) (pid : BitVec 2) (va : Word) (n v : Nat) : Except Cause State :=
  match s.sysPhys pid va .write with
  | .error c => .error c
  | .ok (s, p) =>
    let s := s.homeAccess p.line (Nud.of 0 (s.part pid).nuddef (s.part pid).sysasid pid) true
    .ok { s with mem := s.mem.write p.key n v }

/-! ### Trap ring and fault buffer (R360, R361, R369) -/

/-- A word of the trap ring's or fault buffer's registers: BASE and LOG2N. -/
def areaBase (r : Word) : Word := r &&& ~~~(0xFFF : Word)
def areaLog (r : Word) : Nat := r.toNat % 64

/-- Raises an MSI-X vector (R314, R360, R393). -/
def State.raise (s : State) (v : BitVec 12) : State := { s with msix := s.msix ++ [v] }

/-- A dropped record: DROPPED and DROPCNT (R360). -/
def State.dropRecord (s : State) (pid : BitVec 2) (base : Word) : State :=
  match s.sysRead pid (base + 16) 8 with
  | .error _ => s
  | .ok (s, d) =>
    let n := d % 2 ^ 32
    match s.sysWrite pid (base + 16) 8 (2 ^ 63 + Nat.min (n + 1) (2 ^ 32 - 1)) with
    | .error _ => s
    | .ok s => s

/-- A refused area access (R430). -/
def State.areaFault (s : State) (c : Cause) (fault : Bool) : State :=
  s.report { pRecord 0x16 3 1 with detail := BitVec.ofNat 64 (c.toNat + if fault then 512 else 0) }

/-- Adds a record to an area (R360). -/
def State.addRecord (s : State) (pid : BitVec 2) (fault : Bool) (rec : List Word) : State :=
  let r := if fault then (s.part pid).regs.faultring else (s.part pid).regs.trapring
  let base := areaBase r
  if base = 0 then s
  else
    match s.sysRead pid base 8 with
    | .error c => (s.areaFault c fault).dropRecord pid base
    | .ok (s, tail) =>
      match s.sysRead pid (base + 8) 8 with
      | .error c => (s.areaFault c fault).dropRecord pid base
      | .ok (s, head) =>
        if (tail + 2 ^ 64 - head) % 2 ^ 64 = 2 ^ areaLog r then s.dropRecord pid base
        else
          let va := base + 64 + BitVec.ofNat 64 (64 * (tail % 2 ^ areaLog r))
          match s.sysWrite pid va 64 (wordsNat rec) with
          | .error c => (s.areaFault c fault).dropRecord pid base
          | .ok s =>
            match s.sysWrite pid base 8 (tail + 1) with
            | .error c => (s.areaFault c fault).dropRecord pid base
            | .ok s =>
              let s := match s.sysPhys pid base .read with | .ok (s, p) => s.followed p.line | .error _ => s
              match s.sysRead pid (base + 24) 8 with
              | .error _ => s
              | .ok (s, v) => if fld v 1 1 = 1 && (tail + 1 + 2 ^ 64 - head) % 2 ^ 64 = 1 then s.raise (BitVec.ofNat 12 (v / 2 ^ 32)) else s

/-- HOLD of the trap ring (R360, R362). -/
def State.hold (s : State) (pid : BitVec 2) : Bool :=
  let base := areaBase (s.part pid).regs.trapring
  if base = 0 then false
  else match s.sysRead pid (base + 24) 8 with | .ok (_, v) => v % 2 = 1 | .error _ => false

/-- A trap record with the partition's next SEQ (R360, R361). -/
def State.trapRecord (s : State) (pid : BitVec 2) (tid : BitVec 32) (core : BitVec 16) (kind : Nat) (held : Bool) (cause : Cause)
    (pc tval : Word) (msgid : BitVec 32) (handle : Word) (asid : BitVec 16) (lqid : BitVec 12) (mclk : BitVec 48) (tag : BitVec 32) : State :=
  let seq := (s.part pid).trapSeq
  let s := s.onPart pid fun p => { p with trapSeq := p.trapSeq + 1 }
  s.addRecord pid false
    [tid ++ core ++ (BitVec.ofNat 3 kind ++ BitVec.ofBool held ++ (0 : BitVec 3) ++ cause), pc, tval, (0 : BitVec 32) ++ msgid, handle,
     asid ++ lqid ++ (0 : BitVec 4) ++ mclk.extractLsb' 0 32, seq, (0 : BitVec 32) ++ tag]

/-- A trap record about a task (R361). -/
def State.taskRecord (s : State) (t : Task) (kind : Nat) (held : Bool) (cause : Cause) (pc tval : Word) : State :=
  s.trapRecord t.pid t.tid t.core kind held cause pc tval (match t.msg with | some m => m.id | none => 0) t.self t.asid (twLqid t.tw[7]) t.mclk 0

/-- What a report says of a task (R361). -/
def Task.about (t : Task) : About := { tid := t.tid, handle := t.self, asid := t.asid, lqid := twLqid t.tw[7], mclk := t.mclk }

/-- What a report says of the task with an id, or of none. -/
def State.about (s : State) (t : BitVec 32) (asid : BitVec 16) : About :=
  match s.findTask t with | some x => x.about | none => { tid := t, asid := asid }

/-- A report of a table, an engine or a cluster, KIND 3 (R361). `handle` is the handle that it concerns, where that is not the
task's own. (DEDUCED, assumption 38) -/
def State.reportRecord (s : State) (pid : BitVec 2) (w : About) (cl : BitVec 8) (cause : Cause) (tval : Word) (handle : Word)
    (msgid : BitVec 32) : State :=
  s.trapRecord pid w.tid (coreIn cl 0) 3 false cause 0 tval msgid (if handle = 0 then w.handle else handle) w.asid w.lqid w.mclk 0

def accessCode : Access → Nat | .read => 0 | .write => 1 | .exec => 2 | .atomic => 3

/-- A fault record with the partition's next SEQ (R369). -/
def State.faultRecord (s : State) (pid : BitVec 2) (va : Word) (asid : BitVec 16) (core : BitVec 16) (cause : Cause) (tid : BitVec 32)
    (source : Nat) (declared : Bool) (acc : Access) : State :=
  let seq := (s.part pid).faultSeq
  let s := s.onPart pid fun p => { p with faultSeq := p.faultSeq + 1 }
  s.addRecord pid true
    [va, asid ++ core ++ ((0 : BitVec 23) ++ cause),
     tid ++ (BitVec.ofNat 3 source ++ BitVec.ofBool declared ++ BitVec.ofNat 4 (accessCode acc) ++ (0 : BitVec 24)), seq, 0, 0, 0, 0]

/-- A fault of a page in a cluster: one pending entry and one record for a page (R224). -/
def State.pageFault (s : State) (pid : BitVec 2) (cl : BitVec 8) (core : BitVec 16) (asid : BitVec 16) (tid : BitVec 32) (va : Word)
    (cause : Cause) (source : Nat) (declared : Bool) (acc : Access) : State :=
  let page := va.toNat / 65536
  let c := s.getCluster cl
  if c.pend.any fun p => p.pid == pid && p.asid == asid && p.page == page then s
  else
    let s := s.faultRecord pid va asid core cause tid source declared acc
    let c := s.getCluster cl
    if c.pend.length < 64 then s.putCluster { c with pend := c.pend ++ [{ pid := pid, asid := asid, page := page, cause := cause }] } else s

/-! ### Watch entries (R310) -/

/-- A record that a due ARM entry pushes: TW5 is 0 and TW6 is kept (R310). -/
def State.pushArmed (s : State) (pid : BitVec 2) (asid : BitVec 16) (target : BitVec 8) (rec : Vector Word 8) : State :=
  let (s, t) := s.newTask pid asid (rec.set 5 0)
  s.placeRecord t target

/-- What a due entry does (R310). -/
def State.fireWatch (s : State) (w : Watch) : State :=
  match w.act with
  | .wait t => s.wakeHead [t]
  | .arm asid target _ rec => s.pushArmed w.pid asid target rec

/-- VA of entry i of the watch area (R310, R121). -/
def State.watchVa (s : State) (pid : BitVec 2) (i : Nat) : Word :=
  ((s.part pid).regs.watcharea &&& ~~~(0xFFF : Word)) + BitVec.ofNat 64 (128 * i)

/-- The due entries of a counter word at a value, in arrival order; entries in the table, and entries of the area with their
index. WAIT tasks that one write wakes stand at the head in arrival order. -/
def State.evalWatch (s : State) (key : Nat) : State :=
  let id := s.homeSlice (key / 64)
  let sl := s.getSlice id
  let due (w : Watch) : Bool := w.key == key && w.t.toNat ≤ s.mem.read key 8
  let tab := sl.watch.filter due
  let area := sl.marks.filter fun m => due m.2
  if tab.isEmpty && area.isEmpty then s
  else
    -- an area entry that translation refuses stays until replay-all, or is removed with one record (R430)
    let cl : BitVec 8 := BitVec.ofNat 8 (64 * (id.toNat / 16))
    let acc := area.foldl (fun (a : State × List Watch × List Nat) m =>
      match a.1.sysWrite m.2.pid (a.1.watchVa m.2.pid m.1) 128 0 with
      | .ok s => (s, m.2 :: a.2.1, m.1 :: a.2.2)
      | .error c =>
        let va := a.1.watchVa m.2.pid m.1
        if faultCause c then
          ((a.1.pageFault m.2.pid cl (coreIn cl 0) (a.1.part m.2.pid).sysasid 0 va c 7 false .write).onCluster cl fun k =>
            { k with intAcc := if k.intAcc.contains (m.2.pid, .watchEval key) then k.intAcc else k.intAcc ++ [(m.2.pid, .watchEval key)] }, a.2.1, a.2.2)
        else
          let s := if a.2.2.isEmpty then a.1.reportRecord m.2.pid {} cl c va 0 0 else a.1
          match m.2.act with
          | .wait _ => (s, m.2 :: a.2.1, m.1 :: a.2.2)
          | .arm _ _ _ _ => (s, a.2.1, m.1 :: a.2.2)) (s, [], [])
    let s := acc.1
    let sl := s.getSlice id
    let s := s.putSlice { sl with
      watch := sl.watch.filter fun w => !due w, marks := sl.marks.filter fun m => !(due m.2 && acc.2.2.contains m.1) }
    let all := (tab ++ acc.2.1).foldl (fun l w => putBy (fun (w : Watch) => w.arrival.toNat) w l) []
    let waits := all.filterMap fun w => match w.act with | .wait t => some t | .arm _ _ _ _ => none
    let s := s.wakeHead waits
    let s := all.foldl (fun s w => match w.act with | .wait _ => s | .arm _ _ _ _ => s.fireWatch w) s
    s.wakeWhere fun t => t.parkCause == 0x094 && all.any fun w => w.pid == t.pid

/-- The lock waiters of a word that a write reaches are woken at the head, in arrival order, and WAIT is clear (R332). -/
def State.wakeLock (s : State) (key : Nat) : State :=
  let ts := (s.capWaits.filter fun w => w.1 == key).map (·.2)
  if ts.isEmpty then s
  else
    { s with
      capWaits := s.capWaits.filter fun w => w.1 != key
      mem := s.mem.set key (s.mem.get key &&& 0xFB) }.wakeHead ts

/-- Every doubleword that a write of n bytes touches. -/
def dwords (key n : Nat) : List Nat := (List.range ((key % 8 + n + 7) / 8)).map fun i => key / 8 * 8 + 8 * i

/-- What follows a write at the home: watch entries and lock waiters of the words written (R308, R310, R332). -/
def State.wrote (s : State) (key n : Nat) : State :=
  (dwords key n).foldl (fun s k => (s.evalWatch k).wakeLock k) s

/-! ### Translation by a core (R220 to R224) -/

/-- An entry of a TLB that covers a VA. -/
def tlbHit (l : List TlbEnt) (pid : BitVec 2) (asid : BitVec 16) (va : Nat) : Option TlbEnt :=
  l.find? fun e => e.pid == pid && e.asid == asid && e.page == va / 2 ^ e.log

/-- The L3 bank of an address (R223). -/
def State.l3Bank (s : State) (asid : BitVec 16) (va : Nat) : BitVec 6 := s.hashSlice (fold16 (va / 2 ^ 21) ^^^ asid.toNat)

/-- An entry enters a TLB of `sets` sets of `ways` ways, in the set of its page number; a full set gives up the entry filled longest ago
(R223; DESIGN CHOICE, assumption 10: the manual names neither the index nor the replacement). -/
def tlbAdd (sets ways : Nat) (e : TlbEnt) (l : List TlbEnt) : List TlbEnt :=
  let rest := l.filter fun x => !(x.pid == e.pid && x.asid == e.asid && x.page * 2 ^ x.log / 2 ^ e.log == e.page)
  let out := (rest.filter fun x => x.page % sets == e.page % sets).drop (ways - 1)
  if ways = 0 then rest else e :: rest.filter fun x => !out.contains x

/-- Ways of a bank's set that no pinned entry holds (R225). -/
def Slice.bankWays (sl : Slice) (page : Nat) : Nat := 16 - (sl.pins.filter fun p => p.1.page % 1024 == page % 1024).length

/-- An entry enters the three levels: 32 entries, fully associative; 2,048, 8-way; 16,384, 16-way (R223). -/
def State.tlbFill (s : State) (c : BitVec 16) (e : TlbEnt) (va : Nat) : State :=
  let s := s.onCoreId c fun k => { k with tlb := tlbAdd 1 32 e k.tlb }
  let s := s.onCluster (clusterOf c) fun k => { k with tlb := tlbAdd 256 8 e k.tlb }
  s.onSlice (s.l3Bank e.asid va) fun k => { k with tlb := tlbAdd 1024 (k.bankWays e.page) e k.tlb }

/-- Some level still holds an entry for the VA. -/
def State.tlbOld (s : State) (c : BitVec 16) (pid : BitVec 2) (asid : BitVec 16) (va : Nat) : Option TlbEnt :=
  match tlbHit (s.getCore c).tlb pid asid va with
  | some e => some e
  | none =>
    match tlbHit (s.getCluster (clusterOf c)).tlb pid asid va with
    | some e => some e
    | none => let sl := s.getSlice (s.l3Bank asid va); tlbHit (sl.tlb ++ sl.pins.map (·.1)) pid asid va

/-- An entry admits the access, so that no walk is needed. -/
def entAllows (e : TlbEnt) (priv : Bool) (acc : Access) : Bool :=
  (priv || permU e.perms) && (!acc.needsR || permR e.perms) && (!acc.needsW || (permW e.perms && permD e.perms)) &&
    (acc != .exec || permX e.perms)

/-- The place that a TLB entry gives a VA. -/
def TlbEnt.place (e : TlbEnt) (va : Word) : Phys := { kind := e.kind, pa := e.pa + va.toNat % 2 ^ e.log, ord := e.ord }

/-- The place that a leaf gives. -/
def Leaf.place (l : Leaf) : Phys := { kind := l.ent.kind, pa := l.pa, ord := l.ent.ord }

/-- The TLB entry that a walk makes for an access: D stands where it writes (R222). -/
def Leaf.tlbEnt (l : Leaf) (acc : Access) : TlbEnt := { l.ent with perms := l.ent.perms ||| if acc.needsW then 0x20 else 0 }

/-- A walk for a VA: the tables are read, A and D are set, and the TLBs are filled (R217, R222, R223). -/
def State.walked (s : State) (c : BitVec 16) (pid : BitVec 2) (asid : BitVec 16) (priv : Bool) (va : Word) (acc : Access) :
    State × Except Cause Phys :=
  let t := s.walkReads pid asid va
  match s.walk pid asid priv va acc with
  | .error c => (t, .error c)
  | .ok l => ((t.setAD l acc).tlbFill c (l.tlbEnt acc) va.toNat, .ok l.place)

/-- What translation gives: a place, or a cause. An entry of a TLB that admits the access serves it without a walk; where it differs from
the tables, it or they may serve (R223). -/
def State.translateAs (s : State) (c : BitVec 16) (pid : BitVec 2) (asid : BitVec 16) (priv : Bool) (va : Word) (acc : Access) :
    State × Except Cause Phys :=
  match (s.tlbOld c pid asid va.toNat).filter fun e => entAllows e priv acc with
  | none => s.walked c pid asid priv va acc
  | some e =>
    let same : Bool := match s.walk pid asid priv va acc with
      | .ok l => l.place == e.place va
      | .error _ => false
    if same then (s.tlbFill c e va.toNat, .ok (e.place va))
    else
      let s' := { s with freeCount := s.freeCount + 1 }
      if Config.freeBit s.freeCount then (s', .ok (e.place va)) else s'.walked c pid asid priv va acc

/-- The page has a pending fault in the task's cluster (R224). -/
def State.pendingFault (s : State) (cl : BitVec 8) (pid : BitVec 2) (asid : BitVec 16) (va : Word) : Option PendFault :=
  (s.getCluster cl).pend.find? fun p => p.pid == pid && p.asid == asid && p.page == va.toNat / 65536

/-- Translate of R220 by the running task; a cause stops the instruction. -/
def translate (va : Word) (acc : Access) (source : Nat := 0) : Act Phys := do
  let s ← get
  match s.pendingFault (clusterOf s.core.id) s.me.pid s.me.asid va with
  | some p => throw (.fault p.cause va acc source)
  | none =>
    let (s', r) := s.translateAs s.core.id s.me.pid s.me.asid (s.privileged s.me) va acc
    set s'
    match r with
    | .ok p => return p
    | .error c => if faultCause c then throw (.fault c va acc source) else trapFree c

end Sys2Proof.Machine
end

