-- ==== Sys2Proof/Machine/Access.lean ====
section
/-!
DEFINITION. Accesses of the running task: global virtual memory with poison, staged stores, pending capsule stores, host and
remote pages and the DET tracking (R202 to R209, R229, R230, R252, R253, R280, R301, R329, R417 to R422); the spaces 01, 10 and 11
(R227 to R229); and instruction fetch (R40, R84, R86, R87).
-/

namespace Sys2Proof.Machine

/-- Fields of an access that decide stamps and allocation (R204, R210), and the element of a vector that it serves; `scalar` marks LD, ST,
LDA and STL, which lose replayability at a host or remote page (R389). -/
structure Opt where
  nud : BitVec 6 := 0
  l1p : BitVec 2 := 0
  source : Nat := 0
  elem : Nat := 0
  scalar : Bool := false
  deriving DecidableEq, Repr, Inhabited

def Opt.ofHint (h : Hint) : Opt := { nud := h.nud, l1p := h.l1p }

/-- The request's codes for the running task (R210). -/
def State.nudOf (s : State) (o : Opt) : Nud := Nud.of o.nud s.me.nuddef s.me.asid s.me.pid

/-- The parts of an access, split at a page boundary: VA and length (R229). -/
def pageParts (va : Word) (n : Nat) : List (Word × Nat) :=
  let left := 65536 - va.toNat % 65536
  if n ≤ left then [(va, n)] else [(va, left), (va + BitVec.ofNat 64 left, n - left)]

/-- A part of an access with its place. -/
structure Part where
  va : Word
  len : Nat
  at_ : Phys
  deriving DecidableEq, Repr

/-- The part lies on a page of kind host or remote (R202). -/
def Part.away (q : Part) : Bool := q.at_.kind == 3 || q.at_.kind == 4

/-- The lines of the parts that lie in this device. -/
def partLines (ps : List Part) : List Nat := ps.flatMap fun q => if q.away then [] else linesOf q.at_.key q.len

/-- Translates every part before any is performed (R229). -/
def translateParts (va : Word) (n : Nat) (acc : Access) (source : Nat) : Act (List Part) :=
  (pageParts va n).mapM fun p => do return { va := p.1, len := p.2, at_ := ← translate p.1 acc source }

/-! ### Windows, poison (R219, R230, R390, R391) -/

/-- A line has its home on a layer that is unreachable (R406). -/
def State.lostLine (s : State) (l : Nat) : Bool := s.lost != 0 && s.lost.getLsbD ((s.homeSlice l).extractLsb' 4 2).toNat

/-- An access of n bytes that reaches a home on unreachable layers completes poisoned (R406). -/
def State.lostHome (s : State) (p : Phys) (n : Nat) : Bool := (linesOf p.key n).any s.lostLine

/-- The first byte of an access that lies in a line. -/
def firstIn (va : Word) (key line : Nat) : Word := if key / 64 = line then va else va + BitVec.ofNat 64 (line * 64 - key)

/-- The first of some lines that has an error, and whether the error is new (R230, R301). -/
def State.badIn (s : State) (ls : List Nat) : Option (Nat × Bool) :=
  match ls.find? fun l => s.poison.contains l || s.latent.contains l with
  | some l => some (l, !s.poison.contains l)
  | none => none

/-- A read half meets an error. -/
def State.badLine (s : State) (key n : Nat) : Option (Nat × Bool) := s.badIn (linesOf key n)

/-- A load that reads some lines of a place traps where one has an error (R230); an atomic records its address `ea` (R301). -/
def checkLines (va : Word) (p : Phys) (n : Nat) (ls : List Nat) (causeU causeP : Cause) (ea : Option Word := none) : Act Unit := do
  let s ← get
  match s.badIn ls with
  | none => if s.lostHome p n then (match ea with | some a => trap causeP a | none => trapFree causeP)
  | some (l, new) =>
    if new then
      set (s.findError l)
      trap causeU (ea.getD (firstIn va p.key l))
    else (match ea with | some a => trap causeP a | none => trapFree causeP)

/-- A load whose bytes meet an error traps (R230). -/
def checkPoison (va : Word) (p : Phys) (n : Nat) (causeU causeP : Cause) (ea : Option Word := none) : Act Unit :=
  checkLines va p n (linesOf p.key n) causeU causeP ea

/-! ### DET tracking (R280) -/

/-- Any task, where several touched a line. -/
def manyTasks : BitVec 32 := 0xFFFFFFFF

/-- A commuting update's operator and format (R280). -/
abbrev CommKey := Nat × Nat

/-- The cause of a DET access, by the line's state in the current epoch (R280). -/
def detCause (l : DetLine) (t : BitVec 32) (e : Nat) (write : Bool) (comm : Option CommKey) : Option Cause :=
  let otherW := l.wEpoch = e && l.writer ≠ 0 && l.writer ≠ t && !(comm.isSome && l.wOp == comm)
  let otherR := l.rEpoch = e && (l.many || (match l.reader with | some r => r != t | none => false))
  if write then if otherW then some 0x150 else if otherR then some 0x151 else none
  else if otherW then some 0x152 else none

/-- The line after an access of a DET task. Writes of one epoch stay commuting updates only while all of them are of one operator and
format. -/
def detMark (l : DetLine) (t : BitVec 32) (e : Nat) (write : Bool) (comm : Option CommKey) : DetLine :=
  if write then
    let again := l.wEpoch = e && l.writer ≠ 0
    { l with
      writer := if again && l.writer ≠ t then manyTasks else t, wEpoch := e, wOp := if again && l.wOp != comm then none else comm }
  else
    { l with
      reader := some t, many := l.rEpoch = e && (l.many || (match l.reader with | some r => r != t | none => false)), rEpoch := e }

/-- The check and the mark of the lines that a space 00 access by a task with DET set touches, in a partition whose DETCTL is on. Each
element of the access gives its address and its lines; the lowest that conflicts decides, and an access that traps marks nothing (R234,
R280). (DEDUCED, assumption 58) -/
def detMany (es : List (Word × List Nat)) (write : Bool) (comm : Option CommKey := none) : Act Unit := do
  let s ← get
  let p := s.part s.me.pid
  if s.me.det && p.regs.detctl.getLsbD 0 then
    let get (l : Nat) : DetLine := (p.detLines.find? fun d => d.line == l).getD { line := l }
    match es.findSome? fun e => (e.2.findSome? fun l => detCause (get l) s.me.tid p.quantum write comm).map fun c => (c, e.1) with
    | some c => trap c.1 c.2
    | none =>
      set (s.onPart s.me.pid fun p => { p with
        detLines := (es.flatMap (·.2)).dedup.foldl (fun acc l => putBy DetLine.line (detMark (get l) s.me.tid p.quantum write comm) acc) p.detLines })

/-- The same of n bytes at a key. -/
def detTouch (va : Word) (key n : Nat) (write : Bool) (comm : Option CommKey := none) : Act Unit := detMany [(va, linesOf key n)] write comm

/-! ### Requests that leave the device (R417 to R422) -/

/-- The target device and key of a remote place (R219, R420). -/
def remoteDev (p : Phys) : BitVec 10 := BitVec.ofNat 10 (p.pa / 2 ^ 42)
def remoteKey (p : Phys) : BitVec 26 := BitVec.ofNat 26 (p.pa / 2 ^ 16)

/-- Requests of a device that are still unanswered (R422). -/
def State.outTo (s : State) (d : BitVec 10) : Nat := (s.outs.filter fun o => o.dev == some d && o.reply.isNone && !o.lost).length

/-- A write to another device leaves for its target, on behalf of a task (R419, R421). A fenced target takes none (R422). -/
def State.postRemote (s : State) (tid : BitVec 32) (p : Phys) (va : Word) (data : List Byte) (seq elem : Nat) : State :=
  if s.pod.fenced.getLsbD (remoteDev p).toNat then s
  else
    { s with
      outs := s.outs.concat { tid := tid, dev := some (remoteDev p), va := va, n := data.length, store := true, seq := seq, elem := elem, ord := p.ord }
      sentRemote := s.sentRemote.concat (remoteDev p, remoteKey p, va, .write data) }

/-- A posted write to host memory (R417). -/
def State.postHost (s : State) (ha : Word) (data : List Byte) : State := { s with hostWrites := s.hostWrites ++ [(ha, data)] }

/-- The runs of bytes that a byte mask names: offset and length. -/
def maskRuns (m : BitVec 64) : List (Nat × Nat) :=
  (List.range 64).foldr (fun i acc =>
    if m.getLsbD i then
      match acc with
      | (o, n) :: r => if o = i + 1 then (i, n + 1) :: r else (i, 1) :: acc
      | [] => [(i, 1)]
    else acc) []

/-- The low n bytes of a number. -/
def bytesOf (v n : Nat) : List Byte := (List.range n).map fun i => BitVec.ofNat 8 (v / 2 ^ (8 * i))

/-! ### Staged stores (R252, R253) -/

/-- A plain store of the masked bytes of a staged line at its home, which for a host or remote page lies outside the device. -/
def State.mergeLine (s : State) (c : BitVec 16) (st : StagedLine) : State :=
  let pa := linePa st.line * 64
  if lineKind st.line = 3 then
    (maskRuns st.mask).foldl (fun s r => s.postHost (BitVec.ofNat 64 (pa + r.1)) (bytesOf (st.data.toNat / 2 ^ (8 * r.1)) r.2)) s
  else if lineKind st.line = 4 then
    (maskRuns st.mask).foldl (fun s r =>
      s.postRemote s.me.tid { kind := 4, pa := pa, ord := 0 } (st.va + BitVec.ofNat 64 r.1) (bytesOf (st.data.toNat / 2 ^ (8 * r.1)) r.2) s.me.retired 0) s
  else
    let s := s.l1Access c st.line (s.nudOf {}) 0 true
    let s := { s with mem := s.mem.writeMasked (st.line * 64) 64 st.mask.toNat st.data.toNat }
    let s := if st.mask = BitVec.allOnes 64 then { s with poison := s.poison.filter fun l => l != st.line, latent := s.latent.filter fun l => l != st.line } else s
    s.wrote (st.line * 64) 64

/-- The staged line of a task for a line. -/
def Task.stagedLine (t : Task) (line : Nat) : Option StagedLine := t.staged.find? fun l => l.line == line

/-- Bytes [off, off + n) as a byte mask. -/
def byteMask (off n : Nat) : BitVec 64 := BitVec.ofNat 64 ((2 ^ n - 1) * 2 ^ off)

/-- A bit mask from a byte mask of 64 bytes. -/
def bitMask (m : BitVec 64) : BitVec 512 :=
  BitVec.ofNat 512 ((List.range 64).foldl (fun acc i => if m.getLsbD i then acc + 255 * 2 ^ (8 * i) else acc) 0)

/-- A staged write of bytes within one line. -/
def StagedLine.merge (l : StagedLine) (off n v : Nat) : StagedLine :=
  let m := byteMask off n
  { l with mask := l.mask ||| m, data := (l.data &&& ~~~(bitMask m)) ||| BitVec.ofNat 512 (v % 2 ^ (8 * n) * 2 ^ (8 * off)) }

/-- A release write needs a message that leaves an instance: of a scope (R263, R264). -/
def outsideScope (scope : Nat) (me c : BitVec 16) : Bool :=
  match scope with
  | 1 => c != me
  | 2 => clusterOf c != clusterOf me
  | 3 => layerOf (clusterOf c) != layerOf (clusterOf me)
  | _ => false

/-- A release write at a scope needs a message that leaves the instance (R275): for a copy, a U copy or a replica outside it, or for a
page of another owner. (DESIGN CHOICE, assumption 26) -/
def State.missAt (s : State) (kind : BitVec 3) (line scope : Nat) : Bool :=
  if kind = 3 then scope < 4
  else if kind = 4 then scope < 5
  else
    s.allCores.any (fun c => outsideScope scope s.core.id c.id &&
      ((c.l1d.any fun l => l.line == line) || c.ulines.any fun u => u.live && u.line == line)) ||
      (scope < 4 && s.slices.any fun sl => (scope < 3 || sl.id.extractLsb' 4 2 != layerOf (clusterOf s.core.id)) &&
        sl.lines.any fun l => l.replica && l.line == line)

/-- The scopes at which a release write misses, from its own on. -/
def State.missScopes (s : State) (kind : BitVec 3) (line : Nat) (scope : BitVec 3) : List Nat :=
  ((List.range 5).map fun i => scope.toNat + i).takeWhile fun n => n < 5 && s.missAt kind line n

/-- Each scope that a release write misses is a notice to its core (R275). -/
def State.noteMisses (s : State) (ms : List Nat) : State := ms.foldl (fun s n => s.push (.scopeMissNotice s.core.id (BitVec.ofNat 3 n))) s

/-- Staged lines are written at their homes in ascending order; a staged release takes effect with its line (R252, R253, R275). -/
def State.mergeLines (s : State) (ls : List StagedLine) (rel : List (Nat × BitVec 3)) : State :=
  ls.foldl (fun s l =>
    ((rel.filter fun r => r.1 == l.line).foldl (fun s r => s.noteMisses (s.missScopes (lineKind l.line) l.line r.2)) s).mergeLine s.core.id l) s

/-- The running task loses replayability; its staged lines merge in ascending order (R253). Only the first loss sets LOST. -/
def State.loseReplay (s : State) (why : BitVec 2) : State :=
  if s.me.replayable then
    (s.onMe fun t =>
      { t with replayable := false, lost := if t.lost = 0 then why else t.lost, staged := [], stagedCore := none, relStaged := [] }).mergeLines
      s.me.staged s.me.relStaged
  else s

/-- There is room for the staged lines of one access: 512 of a task, and 8 of all tasks in a set (R252). -/
def State.roomStaged (s : State) (ls : List Nat) : Bool :=
  let new := (ls.filter fun l => (s.me.stagedLine l).isNone).dedup
  s.me.staged.length + new.length ≤ 512 &&
    new.all fun l => s.stagedIn s.core.id (l1Set l) + (new.filter fun x => l1Set x == l1Set l).length ≤ 8

/-- Stages bytes within one line. A new staged line takes a way of its set. -/
def State.stage (s : State) (va : Word) (line off n v : Nat) : State :=
  let put (s : State) (l : StagedLine) : State :=
    s.onMe fun t => { t with staged := putBy StagedLine.line (l.merge off n v) t.staged, stagedCore := some s.core.id }
  match s.me.stagedLine line with
  | some l => put s l
  | none =>
    let m := s.makeWay s.core.id line
    put m.1 { line := line, va := va, mask := 0, data := 0, way := m.2.getD 0 }

/-- Stages n bytes at a place, line by line. -/
def State.stageAt (s : State) (va : Word) (key n v : Nat) : State :=
  (linesOf key n).foldl (fun s l =>
    let a := Nat.max key (l * 64)
    let e := Nat.min (key + n) (l * 64 + 64)
    s.stage (va + BitVec.ofNat 64 (l * 64) - BitVec.ofNat 64 key) l (a - l * 64) (e - a) (v / 2 ^ (8 * (a - key)))) s

/-! ### Physical accesses -/

/-- The byte that a task has staged at a key (R252). -/
def Task.stagedByte (t : Task) (key : Nat) : Option Nat :=
  match t.stagedLine (key / 64) with
  | some l => if l.mask.getLsbD (key % 64) then some (l.data.toNat / 2 ^ (8 * (key % 64)) % 256) else none
  | none => none

/-- The bytes at a place, as the running task sees them: its staged bytes over the home's (R252). -/
def State.seeByte (s : State) (key : Nat) : Nat := (s.me.stagedByte key).getD (s.mem.get key).toNat

def State.seeBytes (s : State) (key : Nat) : Nat → Nat
  | 0 => 0
  | n + 1 => s.seeByte key + 256 * s.seeBytes (key + 1) n

/-- Staged bytes of a task over n bytes read elsewhere. -/
def Task.overStaged (t : Task) (key n x : Nat) : Nat :=
  if t.staged.isEmpty then x
  else (List.range n).foldr (fun i acc => (t.stagedByte (key + i)).getD (x / 2 ^ (8 * i) % 256) + 256 * acc) 0

/-- The task has staged every byte of [key, key + n) that lies in a line. -/
def Task.stagedWhole (t : Task) (key n line : Nat) : Bool :=
  match t.stagedLine line with
  | some sl => (List.range 64).all fun i => sl.mask.getLsbD i || line * 64 + i < key || key + n ≤ line * 64 + i
  | none => false

/-- Lines of an access whose bytes come from elsewhere than the task's own staged lines. -/
def State.openLines (s : State) (key n : Nat) : List Nat := (linesOf key n).filter fun l => !s.me.stagedWhole key n l

/-- The cache effects of an access to each of its lines (R202). -/
def State.touchLines (s : State) (p : Phys) (n : Nat) (o : Opt) (write : Bool) : State :=
  (linesOf p.key n).foldl (fun s l => s.l1Access s.core.id l (s.nudOf o) o.l1p write) s

/-- The request that the running task has out for an address. -/
def State.myOut (s : State) (dev : Option (BitVec 10)) (va : Word) (n : Nat) (fetch : Bool := false) : Option OutReq :=
  s.outs.find? fun o =>
    o.tid == s.me.tid && o.dev == dev && o.va == va && o.n == n && !o.store && !o.fut && o.fetch == fetch && o.seq == s.me.retired

/-- Takes the request out. -/
def State.dropOut (s : State) (o : OutReq) : State := { s with outs := s.outs.erase o }

/-- How an answered request ends (R417, R420, R422). Its answer stays until the instruction retires. -/
def endRequest (o : OutReq) (lostCause : Cause) : Act Nat := do
  if o.lost then trapFree lostCause
  else
    match o.reply with
    | some (.data v) => return v.toNat % 2 ^ (8 * o.n)
    | some .key => trapFree 0x161
    | some .targetFault => trapFree 0x162
    | some .poisoned => trapFree (if o.dev = none then 0x080 else 0x163)
    | none => throw .stall

/-- A strong access to another device waits for the task's earlier strong accesses to it, so that they are performed in program order
(R265, R421). -/
def State.strongWaits (s : State) (p : Phys) : Bool :=
  p.ord == 1 && s.outs.any fun o => o.tid == s.me.tid && o.dev == some (remoteDev p) && o.ord == 1 && o.reply.isNone && !o.lost

/-- A request to another device, for its answer (R419 to R422): the instruction waits on its core and issues again. -/
def remoteRequest (p : Phys) (va : Word) (n : Nat) (op : PeerOp) (fetch : Bool := false) : Act Nat := do
  let s ← get
  let d := remoteDev p
  match s.myOut (some d) va n fetch with
  | some o => if o.lost || o.reply.isSome then endRequest o 0x160 else throw .stall
  | none =>
    if s.pod.fenced.getLsbD d.toNat then trapFree 0x160
    else if s.pod.rmaxout.toNat ≤ s.outTo d || s.strongWaits p then throw .stall
    else
      set { s with outs := s.outs.concat ({ tid := s.me.tid, dev := some d, va := va, n := n, seq := s.me.retired, ord := p.ord, fetch := fetch })
                   sentRemote := s.sentRemote.concat ((d, remoteKey p, va, op)) }
      throw .stall

/-- A request to host memory, for its answer (R417). -/
def hostRequest (ha : Word) (n : Nat) (fetch : Bool := false) : Act Nat := do
  let s ← get
  match s.myOut none ha n fetch with
  | some q => if q.lost || q.reply.isSome then endRequest q 0x080 else throw .stall
  | none =>
    set { s with outs := s.outs.concat ({ tid := s.me.tid, dev := none, va := ha, n := n, seq := s.me.retired, fetch := fetch }) }
    throw .stall

/-- This instruction has sent a store to another device already. -/
def State.sentStore (s : State) (p : Phys) (va : Word) (n elem : Nat) : Bool :=
  s.outs.any fun o => o.tid == s.me.tid && o.dev == some (remoteDev p) && o.va == va && o.n == n && o.store && o.seq == s.me.retired && o.elem == elem

/-- A store to another device may leave now, or has left (R265, R422). -/
def remoteReady (p : Phys) (va : Word) (n elem : Nat) : Act Unit := do
  let s ← get
  if s.sentStore p va n elem then return ()
  else if s.pod.fenced.getLsbD (remoteDev p).toNat then trapFree 0x160
  else if s.pod.rmaxout.toNat ≤ s.outTo (remoteDev p) || s.strongWaits p then throw .stall

/-- A store to another device leaves without waiting (R419, R421); one that this instruction has sent already is not sent again. -/
def remoteStore (p : Phys) (va : Word) (n v elem : Nat) : Act Unit := do
  remoteReady p va n elem
  let s ← get
  if !s.sentStore p va n elem then set (s.postRemote s.me.tid p va (bytesOf v n) s.me.retired elem)

/-- The host address of a page of kind host, as ATS gives it (R219, R418). -/
def hostAddr (va : Word) (p : Phys) (write : Bool) : Act Nat := do
  let s ← get
  let page := va &&& ~~~(0xFFFF : Word)
  match s.ats.find? fun a => a.tid == s.me.tid && a.va == page with
  | none =>
    set { s with ats := s.ats.concat ({ tid := s.me.tid, va := page }) }
    throw .stall
  | some a =>
    let refuse (c : Cause) : Act Nat := do
      set { s with ats := s.ats.erase a, pri := s.pri.concat ((s.me.asid, page)) }
      throw (.fault c va (if write then .write else .read) 0)
    match a.answer with
    | none => throw .stall
    | some .refused => refuse 0x044
    | some .noWrite => if write then refuse 0x049 else return p.pa
    | some (.granted pa) => return pa.toNat + va.toNat % 65536

/-- The values that a byte had before MSTZs of the bound task, youngest first. -/
def Matrix.shadeOf (m : Matrix) (space : BitVec 2) (key : Nat) : List ShadeByte := m.shade.filter fun e => e.space == space && e.key == key

/-- The unit after its task read at a byte the value of index `j`, 0 the present one: no later load sees an older one (R262). -/
def Matrix.readShade (m : Matrix) (space : BitVec 2) (key j : Nat) : Matrix :=
  let keep := (m.shadeOf space key).take j
  { m with shade := m.shade.filter fun e => !(e.space == space && e.key == key) || keep.contains e }

/-- Bytes read at a place of a space, some of which the task's own MSTZ wrote: before MWAIT each is old or new (R198), and never older
than one read before (R262). (DESIGN CHOICE, assumption 30) -/
def mixShade (space : BitVec 2) (key n v : Nat) : Act Nat := do
  let s ← get
  if s.core.mx.shade.isEmpty || s.core.mx.bound != s.me.tid then return v
  let k := s.freeCount
  let pick (i : Nat) : Nat := Config.freeNat (k + i) % ((s.core.mx.shadeOf space (key + i)).length + 1)
  set (({ s with freeCount := k + n } : State).onCore fun c => { c with
    mx := (List.range n).foldl (fun m i => m.readShade space (key + i) (pick i)) c.mx })
  return (List.range n).foldr (fun i acc =>
    (v / 2 ^ (8 * i) % 256 :: (s.core.mx.shadeOf space (key + i)).map fun e => e.old.toNat).getD (pick i) 0 + 256 * acc) 0

/-- A store of the running task to bytes that its MSTZ wrote: later loads see neither of the older values. -/
def State.unshade (s : State) (space : BitVec 2) (key n : Nat) : State :=
  if s.core.mx.shade.isEmpty then s
  else s.onCore fun k => { k with mx := { k.mx with shade := k.mx.shade.filter fun e => !(e.space == space && decide (key ≤ e.key) && decide (e.key < key + n)) } }

/-- An acquire of the running task (R266, R268): at a byte of global memory that another agent has written since the task's MSTZ, its later
loads see no older value. -/
def State.acquired (s : State) : State :=
  if s.core.mx.shade.isEmpty then s
  else
    s.onCore fun k => { k with mx := { k.mx with shade := k.mx.shade.filter fun e =>
      e.space != 0 || (match (k.mx.shadeOf 0 e.key).head? with | some y => s.seeByte e.key == y.new.toNat | none => true) } }

/-- A byte lies in one of some ranges. -/
def inRanges (rs : List (Word × Nat)) (va : Word) : Bool := rs.any fun r => (va - r.1).toNat < r.2

/-- A byte that an outstanding collective of the running task names (R276). -/
def State.collNames (s : State) (va : Word) : Bool := s.colls.any fun c => c.tid == s.me.tid && inRanges c.named va

/-- Between COLL and COLLWAIT a load of a named byte returns any value (R276). -/
def mixColl (va : Word) (n v : Nat) : Act Nat := do
  let s ← get
  if s.colls.isEmpty then return v
  let k := s.freeCount
  set { s with freeCount := k + n }
  return (List.range n).foldr (fun i acc =>
    (if s.collNames (va + BitVec.ofNat 64 i) then (Config.freeByte k i).toNat else v / 2 ^ (8 * i) % 256) + 256 * acc) 0

/-- A store to a named byte leaves it undefined (R276). -/
def State.spoil (s : State) (va : Word) (p : Phys) (n : Nat) : State :=
  if s.colls.isEmpty then s
  else if (List.range n).any fun i => s.collNames (va + BitVec.ofNat 64 i) then
    { s with
      mem := s.mem.forget p.key (p.key + n) s.freeCount, freeCount := s.freeCount + 1
      colls := s.colls.map fun c => if c.tid == s.me.tid then { c with spoiled := (va, n) :: c.spoiled } else c }
  else s

/-- What must hold of a part before any part is performed (R229, R233): its window, ATS's answer, and a free request. The part is answered
with the place that ATS gives. -/
def readyPart (write : Bool) (o : Opt) (q : Part) : Act Part := do
  if q.at_.kind = 3 then
    let ha ← hostAddr q.va q.at_ write
    return { q with at_ := { q.at_ with pa := ha } }
  else if q.at_.kind = 4 then
    if write then remoteReady q.at_ q.va q.len o.elem
    return q
  else
    if (← get).windowBad q.at_ then trapFree 0x172
    return q

/-- Translates and checks every part of an access (R229). -/
def openParts (va : Word) (n : Nat) (write : Bool) (o : Opt) : Act (List Part) := do
  let ps ← translateParts va n (if write then .write else .read) o.source
  ps.mapM (readyPart write o)

/-- What precedes an access that is ready: the DET tracking of R280; and a scalar access to a host or remote page loses replayability
(R389). -/
def enterParts (va : Word) (write : Bool) (o : Opt) (ps : List Part) : Act Unit := do
  detMany [(va, partLines ps)] write
  if o.scalar && ps.any Part.away then upd (·.loseReplay 3)

/-- An access that may be performed. -/
def readyParts (va : Word) (n : Nat) (write : Bool) (o : Opt) : Act (List Part) := do
  let ps ← openParts va n write o
  enterParts va write o ps
  return ps

/-- A read of one page's part (R202, R230, R417). -/
def readPart (o : Opt) (causeU causeP : Cause) (q : Part) : Act Nat := do
  let key := q.at_.key
  if q.away then
    let s ← get
    if (List.range q.len).all fun i => (s.me.stagedByte (key + i)).isSome then return s.me.overStaged key q.len 0
    let x ← if q.at_.kind = 3 then hostRequest (BitVec.ofNat 64 q.at_.pa) q.len else remoteRequest q.at_ q.va q.len (.read (BitVec.ofNat 7 q.len))
    return (← get).me.overStaged key q.len x
  else
    let ls := (← get).openLines key q.len
    if !ls.isEmpty then checkLines q.va q.at_ q.len ls causeU causeP
    upd (·.touchLines q.at_ q.len o false)
    mixColl q.va q.len (← mixShade 0 key q.len ((← get).seeBytes key q.len))

/-- A read of parts that are ready. -/
def readParts (o : Opt) (causeU causeP : Cause) : List Part → Act Nat
  | [q] => readPart o causeU causeP q
  | [q, r] => do
    let x ← readPart o causeU causeP q
    let y ← readPart o causeU causeP r
    return x + y * 2 ^ (8 * q.len)
  | _ => return 0

/-- A read of n bytes at a VA (R6, R229). -/
def readV (va : Word) (n : Nat) (o : Opt := {}) (causeU : Cause := 0x07B) (causeP : Cause := 0x080) : Act Nat := do
  readParts o causeU causeP (← readyParts va n false o)

/-- A plain store at the home, and what follows it (R230, R308). -/
def State.storeHome (s : State) (p : Phys) (n v : Nat) (o : Opt) : State :=
  let s := s.touchLines p n o true
  let whole := (linesOf p.key n).filter fun l => p.key ≤ l * 64 && l * 64 + 64 ≤ p.key + n
  let s := { s with
    mem := s.mem.write p.key n v
    poison := s.poison.filter fun l => !whole.contains l, latent := s.latent.filter fun l => !whole.contains l }
  s.wrote p.key n

/-- The copy engine of the task's cluster may not see the store yet (R30, R251, R260). -/
def State.noteStore (s : State) (key n old : Nat) : State := s.onMe fun t => { t with unseen := { key := key, len := n, old := old } :: t.unseen }

/-- A write of one page's part at its home. -/
def writePart (o : Opt) (v : Nat) (q : Part) : Act Unit := do
  if q.at_.kind = 3 then upd (·.postHost (BitVec.ofNat 64 q.at_.pa) (bytesOf v q.len))
  else if q.at_.kind = 4 then remoteStore q.at_ q.va q.len v o.elem
  else
    let old := (← get).mem.read q.at_.key q.len
    upd fun s => ((((s.unshade 0 q.at_.key q.len).storeHome q.at_ q.len v o).spoil q.va q.at_ q.len)).noteStore q.at_.key q.len old

/-- A part with the bytes of a value that it takes. -/
def cutValue (v : Nat) : List Part → List (Part × Nat)
  | [] => []
  | q :: qs => (q, v % 2 ^ (8 * q.len)) :: cutValue (v / 2 ^ (8 * q.len)) qs

/-- One access's writes, or those of each element of a vector, all of them ready; `stage` for the stores that a replayable task stages
(R252). Where its staged lines find no room the task loses replayability first (R253). Parts that leave the device go first: one that must
wait has then written nothing here. -/
def storeParts (stage : Bool) (es : List (List Part × Nat × Opt)) : Act Unit := do
  let s ← get
  let qs := es.flatMap fun e => (cutValue e.2.1 e.1).map fun q => (q.1, q.2, e.2.2)
  if stage && s.me.replayable && s.roomStaged (qs.flatMap fun q => linesOf q.1.at_.key q.1.len) then
    set (qs.foldl (fun (s : State) q =>
      ((s.unshade 0 q.1.at_.key q.1.len).noteStore q.1.at_.key q.1.len (s.seeBytes q.1.at_.key q.1.len)).stageAt q.1.va q.1.at_.key q.1.len q.2.1) s)
  else
    if stage then upd (·.loseReplay 1)
    for q in (qs.filter fun q => q.1.away) ++ qs.filter fun q => !q.1.away do writePart q.2.2 q.2.1 q.1

/-- A write of n bytes at a VA (R6, R229). -/
def writeV (va : Word) (n v : Nat) (o : Opt := {}) (stage : Bool := true) : Act Unit := do
  storeParts stage [(← readyParts va n true o, v, o)]

/-! ### Spaces 01, 10 and 11 (R227 to R229) -/

/-- The tile of the running task's cluster that holds a frame and that the task owns. -/
def State.ownTile (s : State) (frame : Nat) : Option Tile :=
  (s.getCluster (clusterOf s.core.id)).tiles.find? fun t => t.owner == s.me.tid && t.frame ≤ frame && frame < t.frame + t.frames

/-- Every frame of a range lies in the task's reach; a FILLING tile parks the task (R228). -/
def checkReach (ea : Word) (n : Nat) : Act Unit := do
  let s ← get
  let frames := (List.range ((ea.toNat % 4096 + n + 4095) / 4096)).map fun i => ea.toNat / 4096 + i
  match frames.findSome? fun f => match s.ownTile f with
    | none => some (Stop.trap 0x064 ea)
    | some t => if t.failed then some (.trap 0x079 ea) else if t.st == .filling then some (.park 0x066 (BitVec.ofNat 64 t.frame)) else
        if t.st == .draining then some (.trap 0x064 ea) else none with
  | some e => throw e
  | none => return ()

/-- The checks of an access in space 01, 10 or 11, in the order of R229: bound, alignment, reach. (DEDUCED, assumption 60) -/
def checkSpace (space : BitVec 2) (ea : Word) (n align : Nat) : Act Unit := do
  let lim := if space = 1 then 0x1C000 else if space = 2 then 0x800000 else 0x2000
  if lim < ea.toNat + n then trap 0x01C ea
  if ea.toNat % align ≠ 0 then trapFree 0x03A
  if space = 2 then checkReach ea n

/-- Lines of a local store that an access covers. -/
def localLines (store key n : Nat) : List Nat := (linesOf key n).map fun l => 2 ^ 40 * store + l

/-- The memory, the key and the store number of a local space. -/
def State.localMem (s : State) (space : BitVec 2) : Memory := if space = 1 then s.sp else if space = 2 then s.cm else s.ls
def State.localKey (s : State) (space : BitVec 2) (ea : Word) : Nat :=
  if space = 1 then spKey s.core.id ea.toNat else if space = 2 then cmKey (clusterOf s.core.id) ea.toNat else lsKey s.core.id ea.toNat
def localStore (space : BitVec 2) : Nat := if space = 1 then 1 else if space = 2 then 0 else 2

/-- The record of an uncorrectable error in a line of a local store (R391, R395, R408). -/
def State.localRecord (s : State) (l : Nat) : State :=
  let a := l % 2 ^ 40 * 64
  let r :=
    if l / 2 ^ 40 = 0 then
      { clusterRecord 0x02 3 (BitVec.ofNat 8 (a / 2 ^ 23)) with core := BitVec.ofNat 5 (a % 2 ^ 23 / 2 ^ 18), address := BitVec.ofNat 64 (a % 2 ^ 23), detail := 7 }
    else if l / 2 ^ 40 = 1 then
      { coreRecord 0x02 3 (BitVec.ofNat 16 (a / 2 ^ 17)) with address := BitVec.ofNat 64 (a % 2 ^ 17), detail := 0x3007 }
    else { coreRecord 0x02 3 (BitVec.ofNat 16 (a / 2 ^ 13)) with address := BitVec.ofNat 64 (a % 2 ^ 13), detail := 0x4007 }
  { s with freeCount := s.freeCount + 1 }.report { r with syndrome := Config.syndrome s.freeCount }

/-- An undiscovered error of a local store is found. -/
def State.findLocal (s : State) (l : Nat) : State :=
  if s.localLatent.contains l then
    ({ s with localLatent := s.localLatent.filter fun x => x != l, localPoison := l :: s.localPoison.filter fun x => x != l }).localRecord l
  else s

/-- A checked read of a local space (R230). -/
def readLocal (space : BitVec 2) (ea : Word) (n : Nat) : Act Nat := do
  let s ← get
  let k := s.localKey space ea
  let st := localStore space
  match (localLines st k n).find? fun l => s.localPoison.contains l || s.localLatent.contains l with
  | some l =>
    if s.localPoison.contains l then trapFree 0x080
    else
      set (s.findLocal l)
      trap 0x07B (firstIn ea k (l % 2 ^ 40))
  | none => mixShade space k n ((s.localMem space).read k n)

/-- A checked write of a local space; a whole line written clears its poison (R230). -/
def State.writeLocal (s : State) (space : BitVec 2) (ea : Word) (n v : Nat) : State :=
  let k := s.localKey space ea
  let m := (s.localMem space).write k n v
  let whole := (linesOf k n).filter fun l => k ≤ l * 64 && l * 64 + 64 ≤ k + n
  let keep (l : Nat) : Bool := !(l / 2 ^ 40 == localStore space && whole.contains (l % 2 ^ 40))
  let s := { s with localPoison := s.localPoison.filter keep, localLatent := s.localLatent.filter keep }
  if space = 1 then { s with sp := m } else if space = 2 then { s with cm := m } else { s with ls := m }

/-- A load of any space (R227 to R231). -/
def loadAny (space : BitVec 2) (ea : Word) (n align : Nat) (o : Opt) : Act Nat := do
  if space = 0 then readV ea n o
  else
    checkSpace space ea n align
    readLocal space ea n

/-- A store of any space. -/
def storeAny (space : BitVec 2) (ea : Word) (n align v : Nat) (o : Opt) : Act Unit := do
  if space = 0 then writeV ea n v o
  else
    checkSpace space ea n align
    upd fun s => (s.unshade space (s.localKey space ea) n).writeLocal space ea n v

/-! ### Fetch (R40, R84, R86, R87) -/

/-- The 64 bytes of a line as a fetch reads them now: from the home with the task's own staged bytes over it, or from outside the device
(R84, R202, R252). -/
def fetchLine (va : Word) (p : Phys) : Act (List Byte) := do
  let off := va.toNat % 64
  if p.kind = 3 then
    let ha ← hostAddr va p false
    return bytesOf (← hostRequest (BitVec.ofNat 64 (ha - off)) 64 true) 64
  else if p.kind = 4 then return bytesOf (← remoteRequest { p with pa := p.pa - off } (va - BitVec.ofNat 64 off) 64 (.read 64) true) 64
  else
    upd (·.combine p.line)
    return bytesOf ((← get).seeBytes (p.line * 64) 64) 64

/-- A part of the word within one 64-byte line. What the cache holds may serve where no IFENCE came since, even if it is old (R86). A line
with staged bytes of the task does not enter the cache, where other tasks could meet them. The core does not fetch ahead of the word that
it needs (R87: it may; DESIGN CHOICE, assumption 80). -/
def fetchPart (va : Word) (n : Nat) : Act (List Byte) := do
  let p ← translate va .exec 1
  let s ← get
  let lineVa := va.toNat / 64
  let held := s.core.icache.find? fun l => l.asid == s.me.asid && l.va == lineVa
  let away := p.kind == 3 || p.kind == 4
  let now ← match away, held with
    | true, some l => pure l.bytes
    | _, _ => do
      if !away then
        if s.windowBad p then trapFree 0x172
        match s.badLine p.key n with
        | some (l, new) =>
          if new then set (s.findError l)
          trap 0x078 s.me.pc
        | none => if s.lostHome p n then trap 0x078 s.me.pc
      fetchLine va p
  let s ← get
  let differs := match held with | some l => l.bytes != now | none => false
  let useOld := differs && Config.freeBit s.freeCount
  let s := if differs then { s with freeCount := s.freeCount + 1 } else s
  let bytes := if useOld then (match held with | some l => l.bytes | none => now) else now
  let keep := useOld || away || (s.me.stagedLine p.line).isNone
  let entry : ICLine := { asid := s.me.asid, va := lineVa, bytes := bytes }
  set (s.onCore fun c =>
    let rest := c.icache.filter fun l => !(l.asid == entry.asid && l.va == entry.va)
    { c with icache := (if keep then entry :: rest else rest).take 256 })
  return (List.range n).map fun i => bytes.getD (va.toNat % 64 + i) 0

/-- The twelve bytes of the word at the PC (R84). -/
def fetchWord : Act (List Byte) := do
  let pc := (← get).me.pc
  let left := 64 - pc.toNat % 64
  if 12 ≤ left then fetchPart pc 12
  else
    let a ← fetchPart pc left
    let b ← fetchPart (pc + BitVec.ofNat 64 left) (12 - left)
    return a ++ b

end Sys2Proof.Machine
end

