-- ==== Sys2Proof/Machine/Engine.lean ====
section
/-!
DEFINITION. Internal accesses of clusters and engines (R41, R429, R430), shape records and their cache (R26, R29, R30, R150,
R239, R247), the tile table (R72 to R74, R225), and the copy engine (R246 to R251).
-/

namespace Sys2Proof.Machine

/-! ### Internal accesses (R430) -/

/-- A place in an address space, for an agent that serves it. -/
def State.asPhys (s : State) (pid : BitVec 2) (asid : BitVec 16) (va : Word) (acc : Access) : Except Cause (State × Phys) :=
  match s.walk pid asid (asid == (s.part pid).sysasid) va acc with
  | .error c => .error c
  | .ok l =>
    let p : Phys := { kind := l.ent.kind, pa := l.pa, ord := l.ent.ord }
    if s.windowBad p then .error 0x172 else .ok ((s.walkReads pid asid va).setAD l acc, p)

/-- The same for a unit of a cluster: a page with a pending fault there stops it as it stops the cluster's tasks (R224). -/
def State.clPhys (s : State) (cl : BitVec 8) (pid : BitVec 2) (asid : BitVec 16) (va : Word) (acc : Access) : Except Cause (State × Phys) :=
  match s.pendingFault cl pid asid va with
  | some p => .error p.cause
  | none => s.asPhys pid asid va acc

/-- The codes of a request that a unit makes on its own account (R210). -/
def State.nudOwn (s : State) (pid : BitVec 2) (asid : BitVec 16) : Nud := Nud.of 0 (s.part pid).nuddef asid pid

/-- Bytes that lie in one page; what the host or another device holds is a free value (DESIGN CHOICE, assumption 15). -/
def State.asRead (s : State) (pid : BitVec 2) (asid : BitVec 16) (va : Word) (n : Nat) : Except Cause (State × Nat) :=
  match s.asPhys pid asid va .read with
  | .error c => .error c
  | .ok (s, p) =>
    if p.kind = 3 || p.kind = 4 then
      .ok ({ s with freeCount := s.freeCount + 1 }, (List.range n).foldr (fun i acc => (Config.freeByte s.freeCount i).toNat + 256 * acc) 0)
    else
      let s := (linesOf p.key n).foldl (fun s l => s.homeAccess l (s.nudOwn pid asid) false) s
      .ok (s, s.mem.read p.key n)

def State.asWrite (s : State) (pid : BitVec 2) (asid : BitVec 16) (va : Word) (n v : Nat) : Except Cause State :=
  match s.asPhys pid asid va .write with
  | .error c => .error c
  | .ok (s, p) =>
    if p.kind = 3 then .ok (s.postHost (BitVec.ofNat 64 p.pa) (bytesOf v n))
    else if p.kind = 4 then .ok { s with sentRemote := s.sentRemote.concat (remoteDev p, remoteKey p, va, .write (bytesOf v n)) }
    else
      let s := (linesOf p.key n).foldl (fun s l => s.homeAccess l (s.nudOwn pid asid) true) s
      .ok ({ s with mem := s.mem.write p.key n v }.wrote p.key n)

/-- CtrAdd at a place (R6, R308): the sum saturates; whether it did. -/
def State.ctrAddAt (s : State) (p : Phys) (n : Nat) : State × Bool :=
  let s := (s.combine p.line).dropOthers none p.line
  let x := s.mem.read p.key 8 + n
  let ovf : Bool := decide (2 ^ 64 ≤ x)
  ({ s with mem := s.mem.write p.key 8 (if ovf then 2 ^ 64 - 1 else x) }.wrote p.key 8, ovf)

/-- The operation code of a counter add on a link; the atomics of R299 have their minors as codes (DESIGN CHOICE, assumption 13). -/
def ctrOp : BitVec 4 := 13

/-- A counter add that the device makes on its own account (R429, R430). `false` where a translation fault holds it back; the
fault record, which names the task that the add serves (R369), is then written. -/
def State.devAdd (s : State) (pid : BitVec 2) (asid : BitVec 16) (cl : BitVec 8) (va : Word) (n : Nat) (w : About) (serves : BitVec 32) :
    State × Bool :=
  match s.clPhys cl pid asid va .atomic with
  | .error c =>
    if faultCause c then (s.pageFault pid cl (coreIn cl 0) asid serves va c 7 false .atomic, false)
    else (s.reportRecord pid w cl c va 0 0, true)
  | .ok (s, p) =>
    if p.kind = 4 then
      if s.pod.fenced.getLsbD (remoteDev p).toNat then (s.reportRecord pid w cl 0x160 va 0 0, true)
      else ({ s with sentRemote := s.sentRemote.concat (remoteDev p, remoteKey p, va, .atomic ctrOp 3 false (BitVec.ofNat 64 n) 0) }, true)
    else
      let r := s.ctrAddAt p n
      (if r.2 then r.1.reportRecord pid w cl 0x090 va 0 0 else r.1, true)

/-- A counter add that waits at a cluster where a fault holds it back. -/
def State.devAddOrWait (s : State) (pid : BitVec 2) (asid : BitVec 16) (cl : BitVec 8) (va : Word) (n : Nat) (w : About)
    (serves : BitVec 32) : State :=
  let r := s.devAdd pid asid cl va n w serves
  if r.2 then r.1
  else r.1.onCluster cl fun c => { c with intAcc := c.intAcc.concat (pid, .ctrAdd w serves asid va (BitVec.ofNat 64 n)) }

/-! ### Shape records (R29, R150) -/

/-- A tensor shape record. -/
structure Tsr where
  base : Word
  e0 : Nat
  e1 : Nat
  e2 : Nat
  e3 : Nat
  s1 : Int
  s2 : Int
  s3 : Int
  scale : Word
  trows : Nat
  tcols : Nat
  fmt : Nat
  rank : Nat
  resv : Nat
  deriving DecidableEq, Repr

/-- Extents at and above RANK count as 1, and strides there are not read (R29). -/
def tsrOf (w : List Word) : Tsr :=
  let x (i : Nat) : Nat := (w.getD i 0).toNat
  let rank := fld (x 7) 40 8
  let ext (k v : Nat) : Nat := if k < rank then v else 1
  let str (k i : Nat) : Int := if k < rank then sgn 64 (x i) else 0
  { base := w.getD 0 0, e0 := ext 0 (fld (x 1) 0 32), e1 := ext 1 (fld (x 1) 32 32), e2 := ext 2 (fld (x 2) 0 32), e3 := ext 3 (fld (x 2) 32 32)
    s1 := str 1 3, s2 := str 2 4, s3 := str 3 5, scale := w.getD 6 0, trows := fld (x 7) 0 16, tcols := fld (x 7) 16 16
    fmt := fld (x 7) 32 8, rank := rank, resv := fld (x 7) 48 16 }

def isBlock (f : Nat) : Bool := 0x20 ≤ f && f ≤ 0x2F

/-- Element width of the record's format. -/
def Tsr.w (t : Tsr) : Nat := widthOf t.fmt

/-- Bytes of a row of the tile (R29). -/
def Tsr.rb (t : Tsr) : Nat := t.tcols * t.w / 8

/-- The checks of R29 that hold of every use. Where several checks of R29's table fail, its first row decides (DESIGN CHOICE, assumption 81:
the rule gives no order). -/
def Tsr.formCause (t : Tsr) : Option Cause :=
  if 64 ≤ t.fmt || t.w = 0 || (isBlock t.fmt && t.scale = 0) || (!isBlock t.fmt && t.scale ≠ 0) then some 0x071
  else if t.rank = 0 || 4 < t.rank || t.resv ≠ 0 then some 0x072
  else none

/-- The checks of R29 and R150 with the tile's shape, in the order of assumption 81. -/
def Tsr.cause (t : Tsr) : Option Cause :=
  match t.formCause with
  | some c => some c
  | none =>
    if t.tcols * t.w % 8 ≠ 0 || t.e0 < t.tcols || t.e1 < t.trows then some 0x073
    else if isBlock t.fmt && (t.e0 % 16 ≠ 0 || t.tcols % 16 ≠ 0) then some 0x073
    else none

/-- Bytes of the tile with its scales (R239). -/
def Tsr.size (t : Tsr) : Nat := t.trows * t.rb + if isBlock t.fmt then t.trows * (t.tcols / 16) else 0

/-- The coordinates' checks of R247. -/
def Tsr.coordsOk (t : Tsr) (i0 i1 i2 i3 : Int) : Bool :=
  0 ≤ i0 && 0 ≤ i1 && 0 ≤ i2 && 0 ≤ i3 && (i0 * t.w) % 8 = 0 && (!isBlock t.fmt || i0 % 16 = 0) && i0 + t.tcols ≤ t.e0 &&
    i1 + t.trows ≤ t.e1 && i2 < t.e2 && i3 < t.e3

/-- The coordinates of the tile's first element from its VA (R26). -/
def Tsr.coordsOf (t : Tsr) (va : Word) : Option (Int × Int × Int × Int) :=
  let d := (va - t.base).toInt
  let q (k : Nat) (st : Int) (d : Int) : Int := if t.rank ≤ k || st = 0 then 0 else Int.fdiv d st
  let i3 := q 3 t.s3 d
  let d := d - i3 * t.s3
  let i2 := q 2 t.s2 d
  let d := d - i2 * t.s2
  let i1 := q 1 t.s1 d
  let d := d - i1 * t.s1
  if (8 * d) % t.w ≠ 0 then none
  else
    let i0 := 8 * d / t.w
    if t.coordsOk i0 i1 i2 i3 then some (i0, i1, i2, i3) else none

/-- The rows of a tile and its scale bytes, as runs (R150, R239, R247). -/
def Tsr.segs (t : Tsr) (c : Int × Int × Int × Int) : List Seg :=
  let (i0, i1, i2, i3) := c
  let rows := (List.range t.trows).map fun (r : Nat) =>
    let a : Int := i0 * t.w / 8 + (i1 + r) * t.s1 + i2 * t.s2 + i3 * t.s3
    { va := t.base + BitVec.ofInt 64 a, off := r * t.rb, len := t.rb : Seg }
  let scales := (List.range t.trows).map fun (r : Nat) =>
    let a : Int := ((i3 * t.e2 + i2) * t.e1 + (i1 + r)) * (t.e0 / 16 : Nat) + i0 / 16
    { va := t.scale + BitVec.ofInt 64 a, off := t.trows * t.rb + r * (t.tcols / 16), len := t.tcols / 16 : Seg }
  if isBlock t.fmt then rows ++ scales else rows

/-- Eight words of a line-aligned record, read in an address space. -/
def State.asWords (s : State) (pid : BitVec 2) (asid : BitVec 16) (va : Word) : Except Cause (State × List Word) :=
  match s.asRead pid asid va 64 with
  | .error c => .error c
  | .ok (s, x) => .ok (s, (List.range 8).map fun i => BitVec.ofNat 64 (x / 2 ^ (64 * i)))

/-- The bytes [key, key + n) as the copy engine reads them for the running task, which sees `x` there: each store that the task has not
made visible to the engine shows or does not, in each byte for itself (R251, R260). -/
def State.engineView (s : State) (key n x : Nat) : State × Nat :=
  let us := s.me.unseen
  let k := s.freeCount
  let byte (i : Nat) : Nat :=
    (us.zipIdx.foldl (fun (a : Nat × Bool) e =>
      let covers : Bool := decide (e.1.key ≤ key + i) && decide (key + i < e.1.key + e.1.len)
      if a.2 || !covers then a
      else if Config.freeBit (k + us.length * i + e.2) then (a.1, true) else (e.1.old / 2 ^ (8 * (key + i - e.1.key)) % 256, false))
      (x / 2 ^ (8 * i) % 256, false)).1
  if us.isEmpty then (s, x)
  else ({ s with freeCount := k + us.length * n }, (List.range n).foldr (fun i acc => byte i + 256 * acc) 0)

/-- A read of a cluster's unit: a page with a pending fault stops it (R224). -/
def State.clRead (s : State) (cl : BitVec 8) (pid : BitVec 2) (asid : BitVec 16) (va : Word) (n : Nat) : Except Cause (State × Nat) :=
  match s.pendingFault cl pid asid va with
  | some p => .error p.cause
  | none => s.asRead pid asid va n

/-- A record that the cache of a cluster does not hold, as its copy engine reads it: for a lookup of the running task, with the task's own
staged bytes over the home's (R252; DEDUCED, assumption 89). -/
def State.lookupTsr (s : State) (pid : BitVec 2) (asid : BitVec 16) (cl : BitVec 8) (va : Word) (own : Bool) : Except Cause (State × List Word) :=
  match s.pendingFault cl pid asid va with
  | some p => .error p.cause
  | none =>
    if own then
      match s.asRead pid asid va 64, s.asPhys pid asid va .read with
      | .ok (s, x), .ok (_, p) =>
        let r := s.engineView p.key 64 (s.me.overStaged p.key 64 x)
        .ok (r.1, (List.range 8).map fun i => BitVec.ofNat 64 (r.2 / 2 ^ (64 * i)))
      | .error c, _ => .error c
      | _, .error c => .error c
    else s.asWords pid asid va

/-- A shape record through the record cache of a cluster: a held record is used as it was read (R30). `own` marks a lookup that an
instruction of the running task makes. -/
def State.readTsr (s : State) (pid : BitVec 2) (asid : BitVec 16) (cl : BitVec 8) (va : Word) (own : Bool := false) :
    Except Cause (State × List Word) :=
  let c := s.getCluster cl
  match c.rcache.find? fun e => e.asid == asid && e.va == va with
  | some e => .ok (s.putCluster { c with rcache := e :: c.rcache.filter fun x => !(x.asid == asid && x.va == va) }, e.words)
  | none =>
    match s.lookupTsr pid asid cl va own with
    | .error x => .error x
    | .ok (s, ws) =>
      .ok (s.onCluster cl fun c => { c with rcache := ({ asid := asid, va := va, words := ws } :: c.rcache).take 32 }, ws)

/-! ### Tile entries (R26, R27, R242) -/

/-- A tile-argument entry, read (R26). -/
structure TileArg where
  va : Word
  rowbytes : Nat
  rows : Nat
  mode : Nat
  frames : Nat
  sri : Nat
  deriving DecidableEq, Repr

def tileArgOf (w0 w1 : Nat) : TileArg :=
  { va := BitVec.ofNat 64 w0, rowbytes := fld w1 0 16, rows := fld w1 16 16, mode := fld w1 32 8, frames := fld w1 40 8, sri := fld w1 48 16 }

/-- The layout of an entry: its runs and its size, or why it is refused (R26, R27, R29). -/
def TileArg.layout (a : TileArg) (tsr : Option Tsr) : Except Cause (List Seg × Nat) :=
  match tsr with
  | none =>
    if a.rows = 0 || a.rowbytes = 0 then .error 0x063
    else .ok ([{ va := a.va, off := 0, len := a.rows * a.rowbytes }], a.rows * a.rowbytes)
  | some t =>
    if a.rows ≠ 0 || a.rowbytes ≠ 0 then .error 0x063
    else
      match t.cause with
      | some c => .error c
      | none =>
        match t.coordsOf a.va with
        | none => .error 0x073
        | some c => .ok (t.segs c, t.size)

def tileModeOf (m : Nat) : TileMode := if m = 1 then .inp else if m = 2 then .out else if m = 3 then .inout else .scratch

/-- Frames of a tile that its size needs (R26). -/
def framesFor (bytes : Nat) : Nat := (bytes + 4095) / 4096

/-! ### Frames and leases (R72 to R74, R225) -/

/-- A frame of the tile area that no tile holds. -/
def Cluster.freeFrame (c : Cluster) (f : Nat) : Bool := !c.tiles.any fun t => t.frame ≤ f && f < t.frame + t.frames

/-- The lowest run of n contiguous free frames among frames 0 to 1535 (R72). -/
def Cluster.freeRun (c : Cluster) (n : Nat) : Option Nat :=
  (List.range (1536 - n + 1)).find? fun f => (List.range n).all fun i => c.freeFrame (f + i)

/-- The pages of 64 KiB that runs touch. -/
def pagesOf (segs : List Seg) : List Nat :=
  (segs.flatMap fun g => (List.range ((g.va.toNat % 65536 + g.len + 65535) / 65536)).map fun i => (g.va.toNat / 65536 + i) % 2 ^ 48).dedup

/-- The most entries of a bank that are pinned (R225). -/
def pinLimit : Nat := 8192

/-- Two translations are entries of one page. -/
def TlbEnt.samePage (a b : TlbEnt) : Bool := a.pid == b.pid && a.asid == b.asid && a.log == b.log && a.page == b.page

/-- The access that the walk of a tile's page makes: OUT tiles are only written, and the others are read first (R73). -/
def leaseAcc (mode : TileMode) : Access := if mode == .out then .write else .read

/-- The walk of a leased page; a page with a pending fault in the cluster has none (R224). -/
def State.leaseWalk (s : State) (cl : BitVec 8) (pid : BitVec 2) (asid : BitVec 16) (mode : TileMode) (pg : Nat) : Option Leaf :=
  let va := BitVec.ofNat 64 (pg * 65536)
  if (s.pendingFault cl pid asid va).isSome then none
  else match s.walk pid asid (asid == (s.part pid).sysasid) va (leaseAcc mode) with | .ok l => some l | .error _ => none

/-- A lease for each page that translates: it raises the page's lease count and pins its entry in its L3 bank (R73, R225). A page that
does not translate is walked again, and leased, when the engine reaches it. -/
def State.takeLeases (s : State) (cl : BitVec 8) (pid : BitVec 2) (asid : BitVec 16) (mode : TileMode) (pages : List Nat) : State × List Lease :=
  pages.foldl (fun (a : State × List Lease) pg =>
    match a.1.leaseWalk cl pid asid mode pg with
    | none => a
    | some l =>
      let e := l.tlbEnt (leaseAcc mode)
      let s := (a.1.walkReads pid asid (BitVec.ofNat 64 (pg * 65536))).setAD l (leaseAcc mode)
      let sl := s.getSlice (s.l3Bank asid (pg * 65536))
      let n := match sl.pins.find? fun p => p.1.samePage e with | some p => p.2 | none => 0
      if n = 0 && pinLimit ≤ sl.pins.length then (s, a.2)
      else
        (s.putSlice { sl with pins := (e, n + 1) :: sl.pins.filter fun p => !p.1.samePage e, tlb := sl.tlb.filter fun x => !x.samePage e },
          a.2 ++ [{ va := pg, ent := e }])) (s, [])

/-- Leases are dropped, and their pages' counts fall; at 0 an entry is a plain one of its bank again (R225). A TLBINV that revoked a lease
has unpinned its entry already (R74). -/
def State.dropLeases (s : State) (asid : BitVec 16) (ls : List Lease) : State :=
  (ls.filter fun l => !l.revoked).foldl (fun s l =>
    s.onSlice (s.l3Bank asid (l.va * 65536)) fun sl =>
      match sl.pins.find? fun p => p.1.samePage l.ent with
      | none => sl
      | some p =>
        let rest := sl.pins.filter fun x => !x.1.samePage l.ent
        if 1 < p.2 then { sl with pins := (p.1, p.2 - 1) :: rest }
        else
          let sl := { sl with pins := rest }
          { sl with tlb := tlbAdd 1024 (sl.bankWays p.1.page) p.1 sl.tlb }) s

/-- The leases of a tile would pin more than 8,192 entries of a bank (R225). -/
def State.pinsFull (s : State) (cl : BitVec 8) (pid : BitVec 2) (asid : BitVec 16) (mode : TileMode) (segs : List Seg) : Bool :=
  let new := ((pagesOf segs).filterMap fun pg =>
    (s.leaseWalk cl pid asid mode pg).bind fun l =>
      let bank := s.l3Bank asid (pg * 65536)
      if (s.getSlice bank).pins.any fun p => p.1.samePage l.ent then none else some (bank, l.ent.log, l.ent.page)).dedup
  new.any fun e => pinLimit < (s.getSlice e.1).pins.length + (new.filter fun x => x.1 == e.1).length

/-- What waits for frames or for a lease of a bank looks again: TALLOCs, and the first claimed record of each cluster (R72, R225). -/
def State.framesFreed (s : State) : State :=
  let s := s.wakeWhere fun x => x.parkCause == 0x058
  let firsts := s.allTasks.foldl (fun (acc : List Task) x =>
    if x.st == .preparing && !acc.any (fun y => y.cl == x.cl) then acc ++ [x] else acc) []
  firsts.foldl (fun s x => s.push (.tileFrameAllocate x.tid)) s

/-- A tile's entry goes EMPTY: its leases are dropped and its frames freed (R72, R73). -/
def State.freeTile (s : State) (cl : BitVec 8) (frame : Nat) : State :=
  match (s.getCluster cl).tiles.find? fun t => t.frame == frame && t.frames != 0 with
  | none => s
  | some t =>
    ((s.dropLeases t.asid t.leases).onCluster cl fun c => { c with tiles := c.tiles.filter fun t => t.frame != frame || t.frames == 0 }).framesFreed

/-- The marks of a task's failed fills go (R242). -/
def State.dropMarks (s : State) (cl : BitVec 8) (t : BitVec 32) : State :=
  s.onCluster cl fun c => { c with tiles := c.tiles.filter fun x => !(x.owner == t && x.failed) }

/-- Every tile of a task goes EMPTY with nothing written, and its marks go (R73, R242, R362, R388). -/
def State.freeTiles (s : State) (cl : BitVec 8) (t : BitVec 32) : State :=
  (((s.getCluster cl).tiles.filter fun x => x.owner == t && x.frames != 0).map Tile.frame).foldl (fun s f => s.freeTile cl f) (s.dropMarks cl t)

/-- Changes a tile's entry. -/
def State.onTile (s : State) (cl : BitVec 8) (frame : Nat) (f : Tile → Tile) : State :=
  s.onCluster cl fun c => { c with tiles := c.tiles.map fun t => if t.frame == frame && t.frames != 0 then f t else t }

/-! ### Copying (R246 to R251) -/

/-- How an engine's access to one page ended. -/
inductive EngStop where
  | fault (va : Word) (c : Cause)
  | attr (va : Word) (c : Cause)
  deriving DecidableEq, Repr

/-- A page of a run, through a lease that still stands, or by a walk (R73, R74). A write through a lease whose D is 0 walks (R222). -/
def State.engPhys (s : State) (cl : BitVec 8) (pid : BitVec 2) (asid : BitVec 16) (leases : List Lease) (va : Word) (acc : Access) :
    Except EngStop (State × Phys) :=
  match leases.find? fun l => l.va == va.toNat / 65536 && !l.revoked && entAllows l.ent true acc with
  | some l => if s.windowBad (l.ent.place va) then .error (.attr va 0x172) else .ok (s, l.ent.place va)
  | none =>
    match s.clPhys cl pid asid va acc with
    | .ok r => .ok r
    | .error c => .error (if faultCause c then .fault va c else .attr va c)

/-- Where a byte run stands, on one side. -/
structure Side where
  cm : Bool
  key : Nat
  kind : BitVec 3
  va : Word
  deriving DecidableEq, Repr

/-- A side that lies with the host or another device. -/
def Side.away (x : Side) : Bool := !x.cm && (x.kind == 3 || x.kind == 4)

def State.sideOf (s : State) (pid : BitVec 2) (asid : BitVec 16) (cl : BitVec 8) (leases : List Lease) (p : Place) (acc : Access) :
    Except EngStop (State × Side) :=
  match p with
  | .cm off => .ok (s, { cm := true, key := cmKey cl off, kind := 0, va := 0 })
  | .va a =>
    match s.engPhys cl pid asid leases a acc with
    | .error e => .error e
    | .ok (s, ph) => .ok (s, { cm := false, key := ph.key, kind := ph.kind, va := a })

/-- A line of a side holds data that an error destroyed (R390), or is out of reach (R406). -/
def State.sideBad (s : State) (x : Side) (line : Nat) : Bool :=
  !x.away && if x.cm then s.localPoison.contains (localLine 0 (line * 64)) else s.poison.contains line || s.lostLine line

/-- Bytes of an engine that leave the device for the host or for another device (R417, R419). `job` is the engine's work that the other
device's answer belongs to. -/
def State.sendBytes (s : State) (dst : Side) (bs : List Byte) (job : Nat) : State :=
  if dst.kind = 3 then s.postHost (BitVec.ofNat 64 (dst.key % 2 ^ 52)) bs
  else s.postRemote 0 { kind := 4, pa := dst.key % 2 ^ 52, ord := 0 } dst.va bs job 0

/-- Numbers of an engine's work: of a queued operation, and of a tile's drain. -/
def opJob (id : BitVec 32) : Nat := 2 * id.toNat
def tileJob (cl : BitVec 8) (frame : Nat) : Nat := 2 * (2048 * cl.toNat + frame) + 1

/-- Writes of an engine's work have not reached their destination yet (R249). -/
def State.jobOut (s : State) (job : Nat) : Bool := s.outs.any fun o => o.tid == 0 && o.store && o.seq == job && o.reply.isNone && !o.lost

/-- The bytes that a side gives. What the host or another device holds is not part of this machine: a free value for each byte
(DESIGN CHOICE, assumption 15). -/
def State.takeBytes (s : State) (src : Side) (n : Nat) : State × List Byte :=
  if src.away then
    ({ s with freeCount := s.freeCount + 1 }, (List.range n).map fun i => Config.freeByte s.freeCount (src.key + i))
  else
    let m := if src.cm then s.cm else s.mem
    (s, (List.range n).map fun i => m.get (src.key + i))

/-- Bytes written from an address on. -/
def Memory.putBytes (m : Memory) (a : Nat) : List Byte → Memory
  | [] => m
  | b :: bs => (m.set a b).putBytes (a + 1) bs

/-- Moves n bytes that lie in one page on each side, for cluster `cl`'s engine; poison travels with its line (R250, R391), and a record
names a copy or a drain that carries it (R395: jobs of tiles are odd). A new error in a source is found here: its line becomes
poisoned. -/
def State.moveBytes (s : State) (cl : BitVec 8) (src dst : Side) (n : Nat) (code : BitVec 6) (t : Task) (job : Nat) : State :=
  let nud : Nud := { code := if code = 0 then 61 else code, carried := code, deflt := t.nuddef, asid := t.asid, pid := t.pid }
  let s := if src.cm || src.away then s else (linesOf src.key n).foldl (fun s l => s.homeAccess l nud false) s
  let s := if dst.cm || dst.away then s else (linesOf dst.key n).foldl (fun s l => s.homeAccess l nud true) s
  let s := if src.cm || src.away then s else ((linesOf src.key n).filter s.latent.contains).foldl (fun s l => s.findErrorFor t.asid t.tid l) s
  let s := if src.cm then (linesOf src.key n).foldl (fun s l => s.findLocal (localLine 0 (l * 64))) s else s
  let bad := (List.range n).filter fun i => s.sideBad src ((src.key + i) / 64)
  let r := s.takeBytes src n
  let s := r.1
  let s := if bad.isEmpty then s
    else s.report { clusterRecord 0x10 3 cl with
      address := if src.cm then 0 else BitVec.ofNat 64 ((src.key % 2 ^ 52 + bad.headD 0) / 64 * 64), detail := BitVec.ofNat 64 (job % 2), asid := t.asid, tid := t.tid }
  if dst.away then
    let s := s.sendBytes dst r.2 job
    if bad.isEmpty then s
    else { s with poisonOut := s.poisonOut.concat (dst.kind, if dst.kind = 3 then BitVec.ofNat 64 (dst.key % 2 ^ 52) else dst.va, bad) }
  else
    let s := if dst.cm then { s with cm := s.cm.putBytes dst.key r.2 } else { s with mem := s.mem.putBytes dst.key r.2 }
    let whole := (linesOf dst.key n).filter fun l => dst.key ≤ l * 64 && l * 64 + 64 ≤ dst.key + n
    let keep (l : Nat) : Bool := !(whole.map fun x => localLine 0 (x * 64)).contains l
    let s := if dst.cm then { s with localPoison := s.localPoison.filter keep, localLatent := s.localLatent.filter keep }
      else { s with poison := s.poison.filter fun l => !whole.contains l, latent := s.latent.filter fun l => !whole.contains l }
    let s := if bad.isEmpty then s
      else
        let ls := (bad.map fun i => (dst.key + i) / 64).dedup
        if dst.cm then { s with localPoison := s.localPoison ++ ls.map fun l => localLine 0 (l * 64) } else { s with poison := s.poison ++ ls }
    if dst.cm then s else s.wrote dst.key n

/-- Bytes of a run that lie in one page on both sides. -/
def pieceLen (a b : Place) (n : Nat) : Nat :=
  let left (p : Place) : Nat := match p with | .va v => 65536 - v.toNat % 65536 | .cm _ => n
  Nat.min n (Nat.min (left a) (left b))

/-- A place further on. -/
def Place.plus (p : Place) (n : Nat) : Place := match p with | .va v => .va (v + BitVec.ofNat 64 n) | .cm o => .cm (o + n)

/-- Runs piece by piece until all are done or a page stops them: the runs left, and why. `fuel` bounds the pieces. -/
def State.runCopy (s : State) (pid : BitVec 2) (asid : BitVec 16) (cl : BitVec 8) (leases : List Lease) (code : BitVec 6) (t : Task) (job : Nat) :
    Nat → List (Place × Place × Nat) → State × List (Place × Place × Nat) × Option EngStop
  | 0, rs => (s, rs, none)
  | fuel + 1, rs =>
    match rs with
    | [] => (s, [], none)
    | (_, _, 0) :: rs => s.runCopy pid asid cl leases code t job fuel rs
    | (a, b, n) :: rs =>
      let k := pieceLen a b n
      match s.sideOf pid asid cl leases a .read with
      | .error e => (s, (a, b, n) :: rs, some e)
      | .ok (s1, x) =>
        match s1.sideOf pid asid cl leases b .write with
        | .error e => (s, (a, b, n) :: rs, some e)
        | .ok (s2, y) => (s2.moveBytes cl x y k code t job).runCopy pid asid cl leases code t job fuel ((a.plus k, b.plus k, n - k) :: rs)

/-- Enough pieces for runs. -/
def copyFuel (rs : List (Place × Place × Nat)) : Nat := (rs.map fun r => 2 * (r.2.2 / 65536) + 6).sum + 1

/-- The runs of a tile's fill, tensor to frames, or of its drain. -/
def Tile.runs (t : Tile) (drain : Bool) : List (Place × Place × Nat) :=
  t.segs.map fun g =>
    if drain then (.cm (t.frame * 4096 + g.off), .va g.va, g.len) else (.va g.va, .cm (t.frame * 4096 + g.off), g.len)

/-- What a fill or a drain has come to: the runs left, the pages that faulted, the pages refused for good, and whether a source
byte of a fill met an error (R73, R430). -/
structure RunEnd where
  left : List (Place × Place × Nat) := []
  faults : List (Word × Cause) := []
  attrs : List (Word × Cause) := []
  bad : Bool := false
  deriving DecidableEq, Repr

/-- A stop at one page, for a piece of a run. -/
def RunEnd.stopAt (e : RunEnd) (x : EngStop) (piece : Place × Place × Nat) : RunEnd :=
  match x with
  | .fault va c => { e with left := e.left.concat piece, faults := e.faults.concat (va, c) }
  | .attr va c => { e with attrs := e.attrs.concat (va, c) }

/-- Runs piece by piece; a page that stops holds back only its own bytes (R73). -/
def State.runAll (s : State) (cl : BitVec 8) (leases : List Lease) (t : Task) (fill : Bool) (job : Nat) :
    Nat → List (Place × Place × Nat) → RunEnd → State × RunEnd
  | 0, rs, e => (s, { e with left := e.left ++ rs })
  | fuel + 1, rs, e =>
    match rs with
    | [] => (s, e)
    | (_, _, 0) :: rs => s.runAll cl leases t fill job fuel rs e
    | (a, b, n) :: rs =>
      let k := pieceLen a b n
      let rest := (a.plus k, b.plus k, n - k) :: rs
      match s.sideOf t.pid t.asid cl leases a .read with
      | .error x => s.runAll cl leases t fill job fuel rest (e.stopAt x (a, b, k))
      | .ok (s1, x) =>
        match s1.sideOf t.pid t.asid cl leases b .write with
        | .error y => s1.runAll cl leases t fill job fuel rest (e.stopAt y (a, b, k))
        | .ok (s2, y) =>
          match (if fill && !x.away then s2.badLine x.key k else none) with
          | some (l, new) => (if new then s2.findErrorFor t.asid t.tid l else s2, { e with bad := true })
          | none => (s2.moveBytes cl x y k 0 t job).runAll cl leases t fill job fuel rest e

/-- Allocates a tile at a run of frames (R72, R73): IN and INOUT start to fill; OUT and SCRATCH are READY with undefined bytes. -/
def State.allocTile (s : State) (cl : BitVec 8) (t : Task) (frame : Nat) (a : TileArg) (segs : List Seg) (bytes : Nat) (arg : Bool) : State :=
  let mode := tileModeOf a.mode
  let (s, ls) := if mode == .scratch then (s, []) else s.takeLeases cl t.pid t.asid mode (pagesOf segs)
  let fill := mode == .inp || mode == .inout
  let tile : Tile :=
    { frame := frame, frames := a.frames, st := if fill then .filling else .ready, mode := mode, va := a.va, bytes := bytes, segs := segs
      asid := t.asid, owner := t.tid, leases := ls, arg := arg }
  let tile := if fill then { tile with todo := tile.runs false } else tile
  let lo := cmKey cl (frame * 4096)
  let s := { s with cm := s.cm.forget lo (lo + a.frames * 4096) s.freeCount, freeCount := s.freeCount + 1 }
  let s := s.onCluster cl fun c => { c with tiles := c.tiles ++ [tile] }
  if fill then s.push (.tileFillComplete cl (BitVec.ofNat 11 frame)) else s

/-- The pages of a tile that no standing lease covers are leased where they translate now (R73, R74). -/
def State.renewLeases (s : State) (cl : BitVec 8) (pid : BitVec 2) (t : Tile) : State × Tile :=
  let kept := t.leases.filter fun l => !l.revoked
  let r := s.takeLeases cl pid t.asid t.mode ((pagesOf t.segs).filter fun pg => !kept.any fun l => l.va == pg)
  let ls := kept ++ r.2
  (r.1.onTile cl t.frame fun y => { y with leases := ls }, { t with leases := ls })

/-- Changes an engine operation. -/
def State.onOp (s : State) (cl : BitVec 8) (id : BitVec 32) (f : EngOp → EngOp) : State :=
  s.onCluster cl fun c => { c with ops := c.ops.map fun o => if o.id == id then f o else o }

/-- An operation joins the engine's queue, and its end is an event (R249). -/
def State.addOp (s : State) (cl : BitVec 8) (o : EngOp) : State :=
  ((s.onCluster cl fun c => { c with ops := c.ops ++ [o] }).push (.copyEngineComplete cl o.id))

/-- Operations of a task that have not completed (R245). One that has ended and waits for nothing is a TFREE's, which its task has
yet to see. -/
def State.opsOf (s : State) (t : BitVec 32) : List EngOp := s.clusters.flatMap fun c => c.ops.filter fun o => o.tid == t && t != 0 && !(o.ended && o.paused.isNone)

end Sys2Proof.Machine
end

