-- ==== Sys2Proof/Machine/Future.lean ====
section
/-!
DEFINITION. Future handles and entries (R31 to R35), the spill area (R288 to R290), result slots of launches (R46), and the
clean-up of a task that has gone (R34, R52, R59, R355, R362).
-/

namespace Sys2Proof.Machine

/-! ### Tasks that have gone (R355) -/

/-- Fields of a handle (R31). -/
def hDev (h : Word) : BitVec 10 := h.extractLsb' 52 10
def hCl (h : Word) : BitVec 8 := h.extractLsb' 44 8
def hEnt (h : Word) : BitVec 9 := h.extractLsb' 35 9
def hGen (h : Word) : BitVec 16 := h.extractLsb' 19 16

/-- Something waits in a cluster for replay-all, or for the end of a wake (R65, R430). -/
def State.intWait (s : State) (cl : BitVec 8) (pid : BitVec 2) (a : IntAcc) : State :=
  s.onCluster cl fun c => { c with intAcc := c.intAcc.concat (pid, a) }

/-- The event by which a future learns of its producer's end. -/
def evOfProducer : FEvent → Bool
  | .producerExit _ => true
  | .producerFail _ => true
  | .producerLost _ => true
  | _ => false

/-- The producer's event at a future, or the write of its result slot, still waits (R46, R430). -/
def State.settleWaits (s : State) (h : Word) : Bool :=
  h != 0 && (s.getCluster (hCl h)).intAcc.any fun a =>
    match a.2 with
    | .resultSlot _ _ f => f == h
    | .event f e _ => f == h && evOfProducer e
    | _ => false

/-- 1 is added to a task's parent done-counter (R34, R362, R385, R429), after the result slot of its future (R46, R270). -/
def State.doneAdd (s : State) (x : Task) : State :=
  if x.tw[6] = 0 then s
  else if s.settleWaits x.self then s.intWait (hCl x.self) x.pid (.afterSlot x.self x.about x.tid x.asid x.tw[6])
  else s.devAddOrWait x.pid x.asid x.cl x.tw[6] 1 x.about x.tid

/-- A stream that waits at a FENCE and has nothing left to wait for goes on by an event (R52). -/
def State.fenceCheck (s : State) (pid n : BitVec 2) : State :=
  let st := rd (s.part pid).streams n
  match st.waiting with
  | some (.cmdFence _) => if st.tasks.isEmpty && st.copies.isEmpty then s.push (.fenceCmdComplete pid n) else s
  | some (.cmdFenceReload _) => if st.tasks.isEmpty && st.copies.isEmpty then s.push (.fenceCmdComplete pid n) else s
  | _ => s

/-- The four numbers of streams, partitions and layers. -/
def two : List (BitVec 2) := [0, 1, 2, 3]

/-- The running partition that uses a cluster. -/
def State.clusterPid (s : State) (cl : BitVec 8) : BitVec 2 := (two.find? fun p => (s.part p).run && s.clusterInPart p cl).getD 0

/-- Waits for room in a table look again: in the table's cluster, and at it (R46, R288, R290). -/
def State.roomFreed (s : State) (cl : BitVec 8) : State :=
  let s := s.wakeWhere fun t => (t.parkCause == 0x0A8 || t.parkCause == 0x0A9) && (if t.parkArg = 0 then t.cl else hCl t.parkArg) == cl
  if (s.getCluster cl).launchWait.isEmpty || s.agenda.contains (.launchFutureAllocate cl) then s else s.push (.launchFutureAllocate cl)

/-- A task that is gone, or starts anew, waits for no future any more; an entry that so loses its last waiter may be spilled (R288). -/
def State.dropWaiter (s : State) (t : BitVec 32) : State :=
  let mine (w : Waiter) : Bool := w.dev == s.deviceId && w.tid == t
  let hit := (s.clusters.filter fun c => c.futs.any fun f => f.waiters.any mine).map Cluster.id
  let rest (ws : List Waiter) : List Waiter := ws.filter fun w => !mine w
  let s := { s with clusters := s.clusters.map fun c =>
    { c with futs := c.futs.map fun f => { f with waiters := rest f.waiters }, kept := c.kept.map fun k => (k.1, k.2.1, rest k.2.2) } }
  hit.foldl (fun s cl => s.roomFreed cl) s

/-- The partition has a record that the lottery may draw (R57, R59). -/
def LaunchQ.eligible (q : LaunchQ) (s : State) : Bool :=
  q.enable && match q.recs with
    | [] => false
    | t :: _ => !(twBarrier (s.getTask t).tw[7]) || q.started.isEmpty

/-- A draw follows while any queue is eligible (R57). -/
def State.drawCheck (s : State) (pid : BitVec 2) : State :=
  if (s.part pid).queues.toList.any (·.eligible s) && !s.agenda.contains (.lotteryDraw pid) then s.push (.lotteryDraw pid) else s

/-- The task is gone: its context, slots and id are free, and what waits for it looks again (R52, R59, R355). -/
def State.gone (s : State) (t : BitVec 32) : State :=
  match s.findTask t with
  | none => s
  | some x =>
    let clr (c : Core) : Core :=
      { c with slots := c.slots.map fun y => if y = t then 0 else y, running := if c.running = t then 0 else c.running
               mx := if c.mx.bound = t then c.mx.unbind else c.mx }
    let s := ((s.giveTaskRoom x).unqueue t).dropWaiter t
    let s := { s with
      core := clr s.core, cores := s.cores.map clr
      me := if s.me.tid = t then {} else s.me
      tasks := dropBy Task.key t.toNat s.tasks
      capWaits := s.capWaits.filter fun w => w.2 != t
      outs := s.outs.filter fun o => o.tid != t, ats := s.ats.filter fun o => o.tid != t }
    let s := s.onPart x.pid fun p => { p with
      streams := p.streams.map fun st => { st with tasks := st.tasks.filter fun y => y != t }
      queues := p.queues.map fun q => { q with started := q.started.filter fun y => y != t, recs := q.recs.filter fun y => y != t } }
    (two.foldl (fun s n => s.fenceCheck x.pid n) s).drawCheck x.pid

/-! ### Handles (R31, R32) -/

def handleOf (dev : BitVec 10) (cl : BitVec 8) (ent : BitVec 9) (gen : BitVec 16) : Word :=
  (2 : BitVec 2) ++ dev ++ cl ++ ent ++ gen ++ (0 : BitVec 19)

/-- The layer counts as holding the COMPUTE role for handles (R32, R83). -/
def State.handleLayer (s : State) (l : BitVec 2) : Bool :=
  s.role l == .compute || s.clusters.any fun c => layerOf c.id == l && c.standing

/-- A peer that may be reached (R32, R284, R422). -/
def State.reachable (s : State) (d : BitVec 10) : Bool := s.peers.contains d && !s.pod.fenced.getLsbD d.toNat

/-- The checks of R32 that need only the handle and the device. -/
def State.handleCause (s : State) (h : Word) : Option Cause :=
  if h.extractLsb' 62 2 ≠ 2 || h.extractLsb' 0 19 ≠ 0 || 47 < (h.extractLsb' 44 6).toNat || !s.handleLayer (h.extractLsb' 50 2) then some 0x098
  else if hDev h ≠ s.deviceId && !s.reachable (hDev h) then some 0x09A
  else none

/-! ### Events on an entry (R34, R35) -/

/-- RESOLVED, POISONED and CANCELLED. -/
def FutSt.terminal (st : FutSt) : Bool := st == .resolved || st == .poisoned || st == .cancelled

def Fut.terminal (f : Fut) : Bool := f.st.terminal

/-- A terminal entry that nothing names any more is FREE. -/
def Fut.free (f : Fut) : Bool := f.terminal && f.refs == 0 && !f.live

/-- What an event earns. -/
inductive EvOut where
  | ok
  | duplicate
  | exitDup
  | refcount
  deriving DecidableEq, Repr

/-- An entry after an event, whether the event made it terminal, and what it earned. -/
structure Applied where
  fut : Fut
  out : EvOut := .ok
  settled : Bool := false
  deriving DecidableEq, Repr

/-- JOIN.cancelled. -/
def joinCancelled : Cause := 0x0B9

/-- The table of R34. `started` says whether the producer has started (R294). -/
def Fut.apply (f : Fut) (started : Bool) (ev : FEvent) : Applied :=
  let res (st : FutSt) (v : Word) (f : Fut) : Applied := { fut := { f with st := st, val := v }, settled := true }
  match ev, f.st with
  | .resolve v, .empty => res .resolved v f
  | .resolve _, .cancelPending => { fut := f }
  | .resolve _, .cancelled => { fut := f }
  | .resolve _, _ => { fut := f, out := .duplicate }
  | .poison c, .empty => res .poisoned (c.setWidth 64) f
  | .poison _, .cancelPending => { fut := f }
  | .poison _, .cancelled => { fut := f }
  | .poison _, _ => { fut := f, out := .duplicate }
  | .cancel, .empty =>
    if started then { fut := { f with st := .cancelPending } }
    else res .cancelled (joinCancelled.setWidth 64) { f with live := false }
  | .cancel, _ => { fut := f }
  | .producerExit v, .empty => res .resolved v { f with live := false }
  | .producerExit _, .cancelPending => res .cancelled (joinCancelled.setWidth 64) { f with live := false }
  | .producerExit _, .cancelled => { fut := { f with live := false } }
  | .producerExit _, _ => { fut := { f with live := false }, out := .exitDup }
  | .producerFail c, .empty => res .poisoned (c.setWidth 64) { f with live := false }
  | .producerFail _, .cancelPending => res .cancelled (joinCancelled.setWidth 64) { f with live := false }
  | .producerFail _, _ => { fut := { f with live := false } }
  | .producerLost c, .empty => res .poisoned (c.setWidth 64) { f with live := false }
  | .producerLost c, .cancelPending => res .poisoned (c.setWidth 64) { f with live := false }
  | .producerLost _, _ => { fut := { f with live := false } }
  | .fdup, _ => if f.refs = BitVec.allOnes 32 then { fut := f, out := .refcount } else { fut := { f with refs := f.refs + 1 } }
  | .fdrop, _ => if f.refs = 0 then { fut := f, out := .refcount } else { fut := { f with refs := f.refs - 1 } }
  | .touch _ _ _, _ => { fut := f }

/-! ### The spill area (R289, R290) -/

/-- KEY of a tag. -/
def futKey (cl : BitVec 8) (ent : BitVec 9) (gen : BitVec 16) : BitVec 33 := cl ++ ent ++ gen

/-- The sixteen records of a tag's probe run. -/
def probeRun (key : BitVec 33) (log : Nat) : List Nat :=
  let i := 0x9E3779B9 * key.toNat % 2 ^ 32 / 2 ^ (32 - log)
  (List.range 16).map fun j => (i + j) % 2 ^ log

/-- VA of record i. -/
def State.recVa (s : State) (pid : BitVec 2) (i : Nat) : Word := areaBase (s.part pid).regs.fspill + BitVec.ofNat 64 (32 * i)

def futStCode : FutSt → Nat | .empty => 0 | .resolved => 1 | .poisoned => 2 | .cancelPending => 3 | .cancelled => 4
def futStOf (n : Nat) : FutSt := match n with | 1 => .resolved | 2 => .poisoned | 3 => .cancelPending | 4 => .cancelled | _ => .empty

/-- A record of 32 bytes (R289). -/
def futRecord (cl : BitVec 8) (f : Fut) : Nat :=
  wordsNat [if f.terminal then f.val else 0, (1 : BitVec 1) ++ (0 : BitVec 11) ++ (cl ++ f.ent ++ f.gen) ++ (0 : BitVec 19), f.refs ++ f.producer,
    BitVec.ofNat 64 (futStCode f.st + if f.live then 8 else 0)]

/-- The entry that a record holds. -/
def futOfRecord (x : Nat) (pid : BitVec 2) : Fut :=
  { slot := 0, ent := BitVec.ofNat 9 (fld x 99 9), gen := BitVec.ofNat 16 (fld x 83 16), st := futStOf (fld x 192 3), val := BitVec.ofNat 64 x
    refs := BitVec.ofNat 32 (fld x 160 32), producer := BitVec.ofNat 32 (fld x 128 32), live := fld x 195 1 == 1, pid := pid }

/-- Where an entry lies: a table, a record of a spill area, or a record that translation refuses for good (R430). -/
inductive FutLoc where
  | table
  | spill (pid : BitVec 2) (i : Nat)
  | refused
  deriving DecidableEq, Repr

/-- An entry and where it lies. -/
structure FutRef where
  cl : BitVec 8
  fut : Fut
  loc : FutLoc
  deriving DecidableEq, Repr

/-- An access to a spill area that translation refuses. -/
structure AreaStop where
  pid : BitVec 2
  va : Word
  cause : Cause
  deriving DecidableEq, Repr

/-- The record of a tag among the records of its probe run. -/
def State.probe (s : State) (pid : BitVec 2) (key : BitVec 33) : List Nat → Except AreaStop (State × Option (Nat × Nat))
  | [] => .ok (s, none)
  | i :: is =>
    match s.sysRead pid (s.recVa pid i) 32 with
    | .error c => .error { pid := pid, va := s.recVa pid i, cause := c }
    | .ok (s, x) =>
      if fld x 127 1 = 1 && fld x 83 33 = key.toNat then .ok (s, some (i, x)) else s.probe pid key is

/-- The first record of a run with VALID 0. -/
def State.probeFree (s : State) (pid : BitVec 2) : List Nat → Except AreaStop (State × Option Nat)
  | [] => .ok (s, none)
  | i :: is =>
    match s.sysRead pid (s.recVa pid i) 32 with
    | .error c => .error { pid := pid, va := s.recVa pid i, cause := c }
    | .ok (s, x) => if fld x 127 1 = 0 then .ok (s, some i) else s.probeFree pid is

/-- A partition has a spill area. -/
def State.hasSpill (s : State) (pid : BitVec 2) : Bool := areaBase (s.part pid).regs.fspill != 0

/-- The waiters that a cluster keeps for a spilled entry (R83). -/
def Cluster.keptOf (c : Cluster) (ent : BitVec 9) (gen : BitVec 16) : List Waiter :=
  match c.kept.find? fun k => k.1 == ent && k.2.1 == gen with
  | some k => k.2.2
  | none => []

/-- The record of a tag in the spill areas of the partitions. -/
def State.findSpilled (s : State) (cl : BitVec 8) (ent : BitVec 9) (gen : BitVec 16) : List (BitVec 2) → Except AreaStop (State × Option FutRef)
  | [] => .ok (s, none)
  | pid :: ps =>
    if !s.hasSpill pid then s.findSpilled cl ent gen ps
    else
      match s.probe pid (futKey cl ent gen) (probeRun (futKey cl ent gen) (areaLog (s.part pid).regs.fspill)) with
      | .error e => .error e
      | .ok (s, some (i, x)) =>
        .ok (s, some { cl := cl, fut := { futOfRecord x pid with waiters := (s.getCluster cl).keptOf ent gen }, loc := .spill pid i })
      | .ok (s, none) => s.findSpilled cl ent gen ps

/-- How a lookup ends (R285, R430). -/
inductive FutFind where
  | found (r : FutRef)
  | stale
  | wait (e : AreaStop)
  deriving DecidableEq, Repr

/-- A waiter on this device is woken; a remote waiter's wake is a fabric message (R34, R296). -/
def State.wakeWaiters (s : State) (ws : List Waiter) : State :=
  let out : List (BitVec 10 × Fabric) := (ws.filter fun (w : Waiter) => w.dev != s.deviceId).map fun w => (w.dev, Fabric.wake w.tid)
  { s with fabricOut := s.fabricOut ++ out }.wakeHead ((ws.filter fun (w : Waiter) => w.dev == s.deviceId).map Waiter.tid)

/-- A layer's standing ends with its last kept entry (R83). -/
def State.endStanding (s : State) (cl : BitVec 8) : State :=
  if (s.clusters.filter fun c => layerOf c.id == layerOf cl).all fun c => c.kept.isEmpty then
    { s with clusters := s.clusters.map fun c => if layerOf c.id == layerOf cl then { c with standing := false } else c }
  else s

/-- An entry is put back where it lies, or goes FREE (R34, R290). -/
def State.putFut (s : State) (r : FutRef) (f : Fut) : State :=
  match r.loc with
  | .refused => s
  | .table =>
    let s := s.onCluster r.cl fun c =>
      if f.free then
        { c with
          futs := c.futs.filter fun x => !(x.ent == f.ent && x.gen == f.gen)
          gens := putBy Prod.fst (f.slot.toNat, ((c.gens.find? fun g => g.1 == f.slot.toNat).map (·.2)).getD 0 + 1) c.gens }
      else { c with futs := c.futs.map fun x => if x.ent == f.ent && x.gen == f.gen then f else x }
    if f.free then s.roomFreed r.cl else s
  | .spill pid i =>
    let x := futRecord r.cl f
    let s := match s.sysWrite pid (s.recVa pid i) 32 (if f.free then x - 2 ^ 127 else x) with | .ok s => s | .error _ => s
    let same (k : BitVec 9 × BitVec 16 × List Waiter) : Bool := k.1 == f.ent && k.2.1 == f.gen
    let s := s.onCluster r.cl fun c =>
      if f.free then { c with kept := c.kept.filter fun k => !same k }
      else { c with kept := c.kept.map fun k => if same k then (k.1, k.2.1, f.waiters) else k }
    if f.free then (s.roomFreed r.cl).endStanding r.cl else s

/-- What a result slot holds (R46). -/
def resultSlotNat (f : Fut) : Nat :=
  let v := if f.st == .resolved then f.val else 0
  let k := match f.st with | .resolved => 1 | .poisoned => 2 | _ => 3
  wordsNat [v, (1 : BitVec 1) ++ (0 : BitVec 45) ++ BitVec.ofNat 2 k ++ (0 : BitVec 7) ++ (if f.st == .resolved then (0 : BitVec 9) else f.val.extractLsb' 0 9)]

/-- The result slot of a launch is written in one write; the launch's reference is then dropped (R46, R430). The entry as the
cluster leaves it, and whether the write still waits. -/
def State.launchDone (s : State) (cl : BitVec 8) (asid : BitVec 16) (va : Word) (f : Fut) : State × Fut × Bool :=
  let drop (f : Fut) : Fut := { f with refs := if f.refs = 0 then 0 else f.refs - 1 }
  if va = 0 then (s, drop f, false)
  else
    match s.asWrite f.pid asid va 16 (resultSlotNat f) with
    | .ok s => (s, drop f, false)
    | .error c =>
      if faultCause c then (s.pageFault f.pid cl (coreIn cl 0) asid f.producer va c 7 false .write, f, true)
      else (s.reportRecord f.pid (s.about f.producer asid) cl c va (handleOf s.deviceId cl f.ent f.gen) 0, drop f, false)

/-- What follows when an entry becomes terminal: its waiters wake, and a launch's result is handed over (R34, R46). -/
def State.settle (s : State) (cl : BitVec 8) (f : Fut) : State × Fut :=
  let s := s.wakeWaiters f.waiters
  let f := { f with waiters := [] }
  match s.findTask f.producer with
  | some x =>
    if x.launched.isSome && x.self == handleOf s.deviceId cl f.ent f.gen then
      let r := s.launchDone cl x.asid x.resultSlot f
      if r.2.2 then (r.1.intWait cl f.pid (.resultSlot x.asid x.resultSlot x.self), r.2.1)
      else (r.1, r.2.1)
    else (s, f)
  | none => (s, f)

/-- The entry with a tag: in its table, else in a spill area (R285). A record whose line is destroyed makes its entry POISONED
and wakes its waiters; one that translation refuses for good counts as POISONED with the cause, with one record (R285, R430).
The entry counts as used (R288). -/
def State.lookupFut (s : State) (cl : BitVec 8) (ent : BitVec 9) (gen : BitVec 16) : State × FutFind :=
  match (s.getCluster cl).futs.find? fun f => f.ent == ent && f.gen == gen with
  | some f =>
    let f := { f with used := s.stamp }
    let r : FutRef := { cl := cl, fut := f, loc := .table }
    (({ s with stamp := s.stamp + 1 }).putFut r f, .found r)
  | none =>
    match s.findSpilled cl ent gen two with
    | .error e =>
      if faultCause e.cause then (s.pageFault e.pid cl (coreIn cl 0) (s.part e.pid).sysasid 0 e.va e.cause 7 false .read, .wait e)
      else
        (s.reportRecord e.pid {} cl e.cause e.va (handleOf s.deviceId cl ent gen) 0,
          .found { cl := cl, loc := .refused
                   fut := { slot := 0, ent := ent, gen := gen, st := .poisoned, val := e.cause.setWidth 64, live := false, pid := e.pid } })
    | .ok (s, none) => (s, .stale)
    | .ok (s, some r) =>
      match r.loc with
      | .spill pid i =>
        match s.sysPhys pid (s.recVa pid i) .write with
        | .error c =>
          if faultCause c then (s.pageFault pid cl (coreIn cl 0) (s.part pid).sysasid 0 (s.recVa pid i) c 7 false .write, .wait { pid := pid, va := s.recVa pid i, cause := c })
          else (s.reportRecord pid {} cl c (s.recVa pid i) (handleOf s.deviceId cl ent gen) 0,
            .found { r with loc := .refused, fut := { r.fut with st := .poisoned, val := c.setWidth 64, live := false } })
        | .ok (s, p) =>
          match s.badLine p.key 32 with
          | none => (s, .found r)
          | some (l, new) =>
            let s := if new then s.findError l else s
            let f : Fut := { r.fut with st := .poisoned, val := 0x07C }
            let q := if r.fut.terminal then (s.wakeWaiters f.waiters, { f with waiters := [] }) else s.settle cl f
            (q.1.putFut r q.2, if q.2.free then .stale else .found { r with fut := q.2 })
      | _ => (s, .found r)

/-- How an event ends. -/
inductive EvEnd where
  | done (o : EvOut)
  | stale
  | wait
  | asleep
  deriving DecidableEq, Repr

/-- The producer has started (R294): from dispatch onward. -/
def State.hasStarted (s : State) (t : BitVec 32) : Bool :=
  match s.findTask t with
  | some x => !(x.st == .queued || x.st == .preparing)
  | none => true

/-- A record that CANCEL removes: it leaves its deque or its preparation, with its tiles, and its parent's counter rises (R34,
R294). -/
def State.removeTask (s : State) (t : BitVec 32) : State :=
  match s.findTask t with
  | none => s
  | some x => (((s.unqueue t).freeTiles x.cl t).doneAdd x).gone t

/-- The cluster is gated or still wakes, and nothing stands in for it (R65, R83). -/
def State.asleep (s : State) (cl : BitVec 8) : Bool := let c := s.getCluster cl; !c.awake && !c.standing

/-- The event may resolve the entry. -/
def evResolves : FEvent → Bool
  | .fdup => false
  | .fdrop => false
  | .touch _ _ _ => false
  | _ => true

/-- One event for the entry of a handle on this device (R34). A resolution wakes a gated cluster, and waits until it has woken (R65). -/
def State.futEvent (s : State) (h : Word) (ev : FEvent) : State × EvEnd :=
  if evResolves ev && s.asleep (hCl h) then (s.wakeCluster (hCl h), .asleep) else
  match s.lookupFut (hCl h) (hEnt h) (hGen h) with
  | (s, .stale) => (s, .stale)
  | (s, .wait _) => (s, .wait)
  | (s, .found r) =>
    let started := s.hasStarted r.fut.producer
    let a := r.fut.apply started ev
    let q := if a.settled then s.settle r.cl a.fut else (s, a.fut)
    let s := q.1.putFut r q.2
    let s := if a.settled then s.roomFreed r.cl else s
    let s := if ev == .cancel && a.settled then s.removeTask r.fut.producer else s
    (s, .done a.out)

/-- An error that the owning table finds goes to the owning partition's trap ring with the message id (R34, R284). Its TVAL is a
free value. -/
def State.fabricRecord (s : State) (h : Word) (c : Cause) (id : BitVec 32) : State :=
  let pid := match (s.lookupFut (hCl h) (hEnt h) (hGen h)).2 with | .found r => r.fut.pid | _ => s.clusterPid (hCl h)
  let w := { s with freeCount := s.freeCount + 1 }
  w.reportRecord pid {} (hCl h) c (Config.freeWord s.freeCount) h id

/-- An event that a unit of the device makes on its own account, or that a message brought: one that meets a translation fault or a gated
cluster waits in the owning cluster (R65, R430). What is wrong with a message's event goes to the trap ring (R32, R34, R284). -/
def State.futEventOrWait (s : State) (pid : BitVec 2) (h : Word) (ev : FEvent) (id : Option (BitVec 32) := none) : State :=
  let tell (s : State) (c : Cause) : State := match id with | some i => s.fabricRecord h c i | none => s
  match s.futEvent h ev with
  | (s, .done .duplicate) => tell s 0x0A0
  | (s, .done .refcount) => tell s 0x09B
  | (s, .done .exitDup) => tell s 0x0A1
  | (s, .done .ok) => s
  | (s, .stale) => tell s 0x099
  | (s, _) => s.intWait (hCl h) pid (.event h ev id)

/-! ### Allocation and spill (R288) -/

/-- Moves an entry of a table to the spill area of its partition; the cluster keeps its waiters where it has some (R82, R289). -/
inductive SpillEnd where
  | ok
  | full
  | wait
  deriving DecidableEq, Repr

/-- The slot's generation counter advances (R288). -/
def Cluster.bumpGen (c : Cluster) (slot : BitVec 9) : Cluster :=
  { c with gens := putBy Prod.fst (slot.toNat, ((c.gens.find? fun g => g.1 == slot.toNat).map (·.2)).getD 0 + 1) c.gens }

def State.spillFut (s : State) (cl : BitVec 8) (f : Fut) (keep : Bool) : State × SpillEnd :=
  if !s.hasSpill f.pid then (s, .full)
  else
    let key := futKey cl f.ent f.gen
    match s.probeFree f.pid (probeRun key (areaLog (s.part f.pid).regs.fspill)) with
    | .error e =>
      if faultCause e.cause then (s.pageFault e.pid cl (coreIn cl 0) (s.part e.pid).sysasid 0 e.va e.cause 7 false .read, .wait)
      else (s.reportRecord e.pid {} cl e.cause e.va (handleOf s.deviceId cl f.ent f.gen) 0, .full)
    | .ok (s, none) => (s, .full)
    | .ok (s, some i) =>
      match s.sysWrite f.pid (s.recVa f.pid i) 32 (futRecord cl f) with
      | .error c =>
        if faultCause c then (s.pageFault f.pid cl (coreIn cl 0) (s.part f.pid).sysasid 0 (s.recVa f.pid i) c 7 false .write, .wait)
        else (s.reportRecord f.pid {} cl c (s.recVa f.pid i) (handleOf s.deviceId cl f.ent f.gen) 0, .full)
      | .ok s =>
        (s.onCluster cl fun c =>
          { c.bumpGen f.slot with
            futs := c.futs.filter fun x => !(x.ent == f.ent && x.gen == f.gen)
            kept := if keep then c.kept.concat (f.ent, f.gen, f.waiters) else c.kept }, .ok)

/-- The least recently used entry of a choice. -/
def lru (l : List Fut) : Option Fut := l.foldl (fun (b : Option Fut) f => match b with | none => some f | some x => if f.used < x.used then some f else b) none

/-- The entry that R288 spills. -/
def Cluster.spillVictim (c : Cluster) : Option Fut :=
  match lru (c.futs.filter fun f => f.terminal && f.waiters.isEmpty) with
  | some f => some f
  | none => lru (c.futs.filter fun f => !f.terminal && f.waiters.isEmpty)

/-- FTLIMIT of the partition that allocates. -/
def State.tableFull (s : State) (pid : BitVec 2) (cl : BitVec 8) : Bool := (s.part pid).regs.ftlimit.toNat ≤ (s.getCluster cl).futs.length

/-- Makes room in a table (R288): the cause to park with, where there is none; `some none` where a spill waits. -/
def State.makeRoom (s : State) (pid : BitVec 2) (cl : BitVec 8) : Nat → State × Option (Option Cause)
  | 0 => (s, none)
  | fuel + 1 =>
    if s.tableFull pid cl then
      match (s.getCluster cl).spillVictim with
      | none => (s, some (some 0x0A8))
      | some f =>
        match s.spillFut cl f false with
        | (s, .ok) => s.makeRoom pid cl fuel
        | (s, .full) => (s, some (some 0x0A9))
        | (s, .wait) => (s, some none)
    else (s, none)

/-- The lowest FREE slot of a table. -/
def Cluster.freeSlot (c : Cluster) : BitVec 9 :=
  BitVec.ofNat 9 (((List.range 512).find? fun n => !c.futs.any fun f => f.slot.toNat == n).getD 0)

/-- A generation of the slot whose tag no entry holds (R288). A fault of the spill area holds the allocation back (R430). With every
generation held it parks as for a full table (DESIGN CHOICE, assumption 62: the loop of R288 does not end there). -/
def State.freeGen (s : State) (cl : BitVec 8) (slot : BitVec 9) (gen : BitVec 16) : Nat → State × Except (Option Cause) (BitVec 16)
  | 0 => (s, .error (some 0x0A8))
  | fuel + 1 =>
    match s.lookupFut cl slot gen with
    | (s, .stale) => (s, .ok gen)
    | (s, .wait _) => (s, .error none)
    | (s, .found _) => s.freeGen cl slot (gen + 1) fuel

/-- Allocate() at a cluster for a producer (R288): the handle, or why not. -/
def State.allocFut (s : State) (pid : BitVec 2) (cl : BitVec 8) (producer : BitVec 32) : State × Except (Option Cause) Word :=
  match s.makeRoom pid cl 513 with
  | (s, some e) => (s, .error e)
  | (s, none) =>
    let c := s.getCluster cl
    let slot := c.freeSlot
    match s.freeGen cl slot (((c.gens.find? fun g => g.1 == slot.toNat).map (·.2)).getD 0) 65536 with
    | (s, .error e) => (s, .error e)
    | (s, .ok gen) =>
      let f : Fut := { slot := slot, ent := slot, gen := gen, producer := producer, used := s.stamp, pid := pid }
      let s := { s with stamp := s.stamp + 1 }.onCluster cl fun c =>
        { c with futs := c.futs.concat f, gens := putBy Prod.fst (slot.toNat, gen) c.gens }
      (s, .ok (handleOf s.deviceId cl slot gen))

/-- A spilled entry moves back to a slot of its table, so that a waiter can join (R290). (DEDUCED, assumption 62) -/
def State.refill (s : State) (r : FutRef) : State × Except (Option Cause) FutRef :=
  match r.loc with
  | .spill pid i =>
    if (s.getCluster r.cl).standing then (s, .ok r)
    else if s.asleep r.cl then (s.wakeCluster r.cl, .error none)
    else
      match s.makeRoom pid r.cl 513 with
      | (s, some e) => (s, .error (if e.isSome then some 0x0A8 else none))
      | (s, none) =>
        match s.sysWrite pid (s.recVa pid i) 32 (futRecord r.cl r.fut - 2 ^ 127) with
        | .error _ => (s, .error none)
        | .ok s =>
          let slot := (s.getCluster r.cl).freeSlot
          let f := { r.fut with slot := slot, used := s.stamp }
          let s := { s with stamp := s.stamp + 1 }.onCluster r.cl fun c =>
            { c.bumpGen slot with futs := c.futs.concat f, kept := c.kept.filter fun k => !(k.1 == f.ent && k.2.1 == f.gen) }
          (s, .ok { r with fut := f, loc := .table })
  | _ => (s, .ok r)

/-- The waiters of an entry change where the entry, or what its cluster keeps of it, lies (R33, R83). -/
def State.addWaiters (s : State) (r : FutRef) (f : Fut) : State :=
  match r.loc with
  | .spill _ _ => s.onCluster r.cl fun c =>
      { c with kept := (f.ent, f.gen, f.waiters) :: c.kept.filter fun k => !(k.1 == f.ent && k.2.1 == f.gen) }
  | _ => s.putFut r f

end Sys2Proof.Machine
end

