-- ==== Sys2Proof/Machine/Ops.lean ====
section
/-!
DEFINITION. The shared operations of instructions: going on at the next word, parking (R355), delivery of a trap and its
disposition (R356, R357, R362), failure and rollback (R385 to R388), handler aborts (R318), the steps of retirement (R385), the
return from a handler (R133, R196), and `finish`, which ends every instruction that may stop.
-/

namespace Sys2Proof.Machine

/-! ### Cores and streams -/

/-- Another core's turn: its task and its units become the active ones. -/
def State.activate (s : State) (c : BitVec 16) : State :=
  if s.core.id = c then s
  else
    let ts := if s.me.tid = 0 then s.tasks else putBy Task.key s.me s.tasks
    let cs := putBy Core.key s.core s.cores
    let k := (findBy Core.key c.toNat cs).getD { id := c }
    let t := findBy Task.key k.running.toNat ts
    { s with
      core := if t.isSome then k else { k with running := 0 }
      cores := dropBy Core.key c.toNat cs
      me := t.getD {}
      tasks := dropBy Task.key k.running.toNat ts }

/-- The active core leaves its stream; a leader's leaving ends it (R106). -/
def State.breakStream (s : State) : State :=
  let s := s.core.members.foldl (fun s m => s.onCoreId m fun c => { c with leader := none }) s
  let s := match s.core.leader with
    | some l => s.onCoreId l fun c => { c with members := c.members.filter fun m => m != s.core.id }
    | none => s
  s.onCore fun c => { c with members := [], leader := none, followAt := none }

/-- The running task leaves its core and keeps its slot (R75). In capsule mode it looks at its block when it resumes (R335). -/
def State.leave (s : State) : State :=
  let s := s.breakStream
  let x := { s.me with desched := s.clock, ran := s.stamp, core := s.core.id, cap := { s.me.cap with displaced := s.me.capsule } }
  { s with
    stamp := s.stamp + 1, core := { s.core with running := 0 }, me := {}
    tasks := if x.tid = 0 then s.tasks else putBy Task.key x s.tasks }

/-! ### Going on (R84, R78) -/

/-- A store that needs nothing more: its response came without an error, or it was dropped (R421, R422). -/
def OutReq.answered (o : OutReq) : Bool := o.lost || (match o.reply with | some (.data _) => true | _ => false)

/-- What stays outstanding when the running task retires an instruction: answers that it has used, and responses to its stores, are
done with. -/
def State.outsLeft (s : State) : List OutReq := s.outs.filter fun o => !(o.tid == s.me.tid && (!o.store || o.answered))

/-- One instruction has retired (R89); in capsule mode it counts in its step (R328). -/
def Task.counted (t : Task) : Task :=
  { t with retired := t.retired + 1, cap := if t.capsule then { t.cap with instrs := t.cap.instrs + 1 } else t.cap }

/-- The running task's instructions count towards its core's quantum (R78). -/
def State.quantumCounts (s : State) : Bool := s.me.det && (s.part s.me.pid).regs.detctl.getLsbD 0

/-- The event at the end of the core's quantum (R78). -/
def State.quantumEv (s : State) : List Ev :=
  if s.quantumCounts && s.core.retiredDet + 1 == (s.part s.me.pid).quantNow then [.quantumBoundary s.core.id] else []

/-- One instruction of the running task has retired (R78, R89). -/
def State.retire (s : State) : State :=
  { s with
    me := s.me.counted
    core := { s.core with retiredDet := if s.quantumCounts then s.core.retiredDet + 1 else s.core.retiredDet }
    agenda := s.agenda ++ s.quantumEv
    outs := s.outsLeft }

/-- The instruction retires and the task goes on at an address. -/
def State.goTo (s : State) (a : Word) : State := s.retire.setPc a

/-- The instruction retires and the task goes on at the next word (R84). -/
def State.advance (s : State) : State := s.goTo (s.pc + 12)

/-- The ageing sweep of the active core's L1D (R214) at a value of CCLK: the line in way w of set i is visited where CCLK is
128 × (8i + w) modulo 65,536, so that each is visited once per 65,536 steps. -/
def Core.sweepEv (c : Core) (cclk : BitVec 32) : List Ev :=
  let n := cclk.toNat % 65536
  if n % 128 = 0 then
    let all : List (Nat × Nat) := (c.l1d.map fun l => (l.line, l.way)) ++ (c.ulines.filter fun u => u.live).map fun u => (u.line, u.way)
    match all.find? fun l => l1Set l.1 == n / 1024 && l.2 == n / 128 % 8 with
    | some l => [.ageingSweepVisit (some c.id) 0 (BitVec.ofNat 64 l.1)]
    | none => []
  else []

/-- A memory instruction counts in MCLK and CCLK as it retires (R211). -/
def State.countMem (s : State) : State :=
  { s with
    me := { s.me with mclk := s.me.mclk + 1 }
    core := { s.core with cclk := s.core.cclk + 1 }
    agenda := s.agenda ++ s.core.sweepEv (s.core.cclk + 1) }

/-! ### The matrix queue (R182, R183, R200) -/

/-- The unit of the active core is bound to the running task and has commands to run. -/
def State.mxBusy (s : State) : Bool :=
  s.me.tid != 0 && s.core.mx.bound == s.me.tid && !s.core.mx.queue.isEmpty && s.core.mx.held.isNone

/-- The sequencer's next command is an event (R183). -/
def State.kickMatrix (s : State) : State :=
  if s.agenda.contains (.sequencerRunCommand s.core.id) then s else s.push (.sequencerRunCommand s.core.id)

/-! ### Failing (R362, R36) -/

/-- A free word for a field that the manual does not give. -/
def State.freshWord (s : State) : State × Word := ({ s with freeCount := s.freeCount + 1 }, Config.freeWord s.freeCount)

/-- The cause with which a failing task poisons its future (R36, R362). -/
def poisonCause (x : Task) (c : Cause) : Cause := if c = 0x0B8 then x.parkArg.extractLsb' 0 9 else c

/-- A task that no longer runs fails: its collectives end with it (R323), its future is POISONED, 1 is added to its parent done-counter, its tiles go EMPTY with
nothing drained, and leases, claims and context are released (R362, R387). -/
def State.failTask (s : State) (t : BitVec 32) (c : Cause) : State :=
  match s.findTask t with
  | none => s
  | some x =>
    let s := if x.self = 0 then s else s.futEventOrWait x.pid x.self (.producerFail (poisonCause x c))
    let s := ((s.freeTiles x.cl t).doneAdd x).gone t
    { s with colls := s.colls.filter fun c => c.tid != t }

/-! ### Rollback (R387, R388) -/

/-- The task of the record as it entered its deque, with the state of R37 but the handle, the id and the count of rollbacks. -/
def Task.requeued (x : Task) : Task :=
  { tid := x.tid, pid := x.pid, asid := x.asid, tw := x.tw, self := x.self, st := .preparing, core := x.core, cl := x.cl
    resultSlot := x.resultSlot, launched := x.launched, tag := x.tag, rollbacks := x.rollbacks + 1 }

/-- The ROLLBACK record (R387, R395). -/
def State.rollbackRecord (s : State) (x : Task) (c : Cause) : State :=
  s.report { coreRecord 0x11 2 x.core with count := BitVec.ofNat 32 (x.rollbacks + 1), detail := c.setWidth 64, asid := x.asid, tid := x.tid }

/-- Prepares a claimed record (R71, R72). `ran` then tells the order of claims. -/
def State.prepare (s : State) (t : BitVec 32) (c : BitVec 16) : State :=
  let s := s.onTask t fun x => { x with st := .preparing, core := c, cl := clusterOf c, ran := s.stamp, parkArg := 0 }
  ({ s with stamp := s.stamp + 1 }.onCoreId c fun k => { k with prep := k.prep.concat t }).push (.tileFrameAllocate t)

/-- The rollback path of a task that no longer runs (R387, R388). -/
def State.rollback (s : State) (t : BitVec 32) (c : Cause) : State :=
  match s.findTask t with
  | none => s
  | some x =>
    if x.replayable && x.rollbacks < 2 then
      let s := s.rollbackRecord x c
      let pending : Bool := match s.lookupFut (hCl x.self) (hEnt x.self) (hGen x.self) with
        | (_, .found r) => x.self != 0 && r.fut.st == .cancelPending
        | _ => false
      if pending then s.failTask t c
      else
        let clr (k : Core) : Core :=
          { k with
            slots := k.slots.map fun y => if y = t then 0 else y
            mx := if k.mx.bound = t then k.mx.unbind else k.mx }
        let s := (((s.freeTiles x.cl t).giveTaskRoom x).unqueue t).dropWaiter t
        let s := { s with core := clr s.core, cores := s.cores.map clr }
        (s.putTask x.requeued).prepare t x.core
    else s.failTask t c

/-! ### Handler tasks (R318) -/

/-- A trap or an abort of a handler task: its sends are discarded, its message returns to the head of its class queue, the class
is masked, and one record names the message. The task is gone. -/
def State.abortHandler (s : State) (c : Cause) (tval : Word) : State :=
  let x := s.me
  let s := s.onCluster x.cl fun k =>
    match x.msg with
    | some m => { k with msgs := m :: k.msgs, live := k.live ||| BitVec.ofNat 16 (2 ^ m.cls.toNat) }
    | none => k
  let s := s.taskRecord { x with core := s.core.id } 2 false c x.pc tval
  (s.breakStream).gone x.tid

/-- The running task was built from a message (R39). -/
def Task.isHandler (t : Task) : Bool := twHandler t.tw[7]

/-! ### Parking (R355) -/

/-- The running task parks with a reason, and resumes at an address. A handler task aborts instead (R318). -/
def State.parkMe (s : State) (c : Cause) (arg at_ : Word) : State :=
  if s.me.isHandler then s.abortHandler 0x0D2 arg
  else (s.onMe fun t => { t with st := .parked, parkCause := c, parkArg := arg, pc := at_ }).leave

/-- The page lies in a declared tile of the task (R369). -/
def State.declaredPage (s : State) (cl : BitVec 8) (t : BitVec 32) (va : Word) : Bool :=
  (s.getCluster cl).tiles.any fun x => x.owner == t && x.arg && (pagesOf x.segs).contains (va.toNat / 65536)

/-- A translation fault parks the task in FAULT, with a record where R224 does not coalesce it (R220, R355, R369). -/
def State.faultMe (s : State) (c : Cause) (va : Word) (acc : Access) (source : Nat) : State :=
  if s.me.isHandler then s.abortHandler 0x0D2 va
  else
    let x := s.me
    let cl := clusterOf s.core.id
    let s := s.pageFault x.pid cl s.core.id x.asid x.tid va c source (s.declaredPage cl x.tid va) acc
    (s.onMe fun t => { t with st := .fault, parkCause := c, parkArg := va }).leave

/-! ### Delivery (R357) and disposition (R362) -/

/-- Classes marked H in R363. -/
def handleable (c : Cause) : Bool := !([8, 9, 11, 21, 40, 41, 45, 47].contains (c.toNat / 8))

/-- Classes MEMERR-U and MEMERR-P. -/
def memErr (c : Cause) : Bool := c.toNat / 8 == 15 || c.toNat / 8 == 16

/-- The task parks TRAPPED with a record, and is then disposed of (R355, R361, R362). -/
def State.trapped (s : State) (c : Cause) (tval at_ : Word) : State :=
  let x := { s.me with core := s.core.id }
  let kept := !memErr c && s.hold x.pid
  let s := s.taskRecord x (if x.intrap then 1 else 0) kept c at_ tval
  let s := (s.onMe fun t => { t with st := .trapped, parkCause := c, trapTval := tval, pc := at_ }).leave
  if memErr c then s.rollback x.tid c
  else if kept then s
  else s.failTask x.tid c

/-- The registers of a delivered trap (R357). -/
def Task.enterHandler (t : Task) (c : Cause) (tval at_ : Word) : Task :=
  { t with cause := c, tval := tval, tpc := at_, intrap := true, pc := t.thandler }

/-- The trap goes to the task's own handler (R357). -/
def Task.handles (t : Task) (c : Cause) : Bool := handleable c && t.thandler != 0 && !t.intrap

/-- Deliver(cause, tval, at) of R357. -/
def State.deliver (s : State) (c : Cause) (tval at_ : Word) : State :=
  if s.me.isHandler then s.abortHandler c tval
  else if !s.me.capsule && s.me.handles c then s.breakStream.onMe (Task.enterHandler · c tval at_)
  else s.trapped c tval at_

/-! ### How an instruction ends -/

/-- The state after an instruction that stopped. -/
def State.stopWith (s : State) (e : Stop) : State :=
  match e with
  | .stall => s
  | .gone => s
  | .trap c v => s.deliver c v s.pc
  | .trapDone c v => s.retire.deliver c v (s.pc + 12)
  | .trapAt c v a => s.deliver c v a
  | .fault c va acc src => s.faultMe c va acc src
  | .park c a => s.parkMe c a s.pc
  | .parkNext c a => s.retire.parkMe c a (s.pc + 12)

/-- A trap or a park, before which the matrix commands that the task queued complete (R200, R356). -/
def Stop.drains : Stop → Bool
  | .stall => false
  | .gone => false
  | _ => true

/-- An instruction that began in `s` stops in `t`. -/
def State.endStop (s t : State) (e : Stop) : State := if s.mxBusy && e.drains then s.kickMatrix else t.stopWith e

/-- Runs an action and then goes on by `k`. -/
def finishWith {α : Type} (m : Act α) (k : α → State → State) (s : State) : Host.Outcome State Fault Refusal :=
  match m.run s with
  | .ok a t => .next (k a t)
  | .error e t => .next (s.endStop t e)

/-- Runs an action and goes on at the next word. -/
def finish (m : Act Unit) (s : State) : Host.Outcome State Fault Refusal := finishWith m (fun _ t => t.advance) s

/-- The same for an instruction that counts in MCLK and CCLK (R211). -/
def finishMem (m : Act Unit) (s : State) : Host.Outcome State Fault Refusal := finishWith m (fun _ t => t.countMem.advance) s

/-- The address of the word that issues, which decode traps and many others record as TVAL (R100). -/
def trapHere {α : Type} (c : Cause) : Act α := do trap c (← get).pc

/-- A starred instruction needs system privilege (R100, R359). -/
def needPrivilege : Act Unit := do
  let s ← get
  if !s.privileged s.me then trapHere 0x028

/-- In a task with DET set the instruction traps (R278). -/
def noDet (c : Cause) : Act Unit := do if (← get).me.det then trapHere c

/-- The running task loses replayability for another cause (R389). -/
def loseReplay3 : Act Unit := upd (·.loseReplay 3)

/-- Every write of the running task's matrix stores is visible to it (R198). -/
def State.clearShade (s : State) : State := if s.core.mx.shade.isEmpty then s else s.onCore fun k => { k with mx := { k.mx with shade := [] } }

/-- A release waits until the writes of earlier matrix stores are visible (R198). -/
def waitMatrix : Act Unit := do
  let s ← get
  if s.mxBusy then
    set s.kickMatrix
    throw .stall
  set s.clearShade

/-- A write of the running task to another device has no response yet. -/
def State.storeOpen (s : State) (o : OutReq) : Bool := o.tid == s.me.tid && o.store && o.reply.isNone && !o.lost

/-- Stores of the running task to other devices that have no response yet. -/
def State.remoteOpen (s : State) : Bool := s.outs.any s.storeOpen

/-- Those that a release waits for: the pages of the others are unordered (R265, R266). -/
def State.releaseOpen (s : State) : Bool := s.outs.any fun o => s.storeOpen o && o.ord != 2

/-- A release at a scope: earlier matrix stores are visible, and at POD every remote request but those to unordered pages has its response
(R198, R265, R421). -/
def releaseAt (scope : BitVec 3) : Act Unit := do
  waitMatrix
  if scope = 5 && (← get).releaseOpen then throw .stall

/-- A release write (R275): each scope that it misses is a notice to its core, and it releases at the scope that holds. In a task
with DET set a miss traps. -/
def releaseWrite (ea : Word) (p : Phys) (scope : BitVec 3) : Act Unit := do
  let s ← get
  let ms := s.missScopes p.kind p.line scope
  if !ms.isEmpty && s.me.det then trap 0x0F0 ea
  releaseAt (scope + BitVec.ofNat 3 ms.length)
  upd (·.noteMisses ms)

/-! ### Return from a handler (R133, R196) -/

/-- The unit as the commands that have run leave it, with an empty queue: what it was before those still queued issued (R179, R199). -/
def Matrix.asRun (m : Matrix) : Matrix :=
  { m with queue := [], shade := [], sclaim := m.sHas, zclaim := m.zHas, sIssue := m.sRun, zIssue := m.zRun, latchIssue := m.latchRun }

/-- ERET releases a held matrix queue: after a memory error the failed load goes, and its readers find its slot EMPTY. Commands of which a
TLBINV has dropped a translation meanwhile issue again from their words (R186, R199; DEDUCED, assumption 67). -/
def State.releaseQueue (s : State) : State :=
  if s.core.mx.bound = s.me.tid then
    match s.core.mx.held with
    | none => s
    | some c =>
      let s := s.onCore fun k => { k with mx := { k.mx with held := none, queue := if c = 0x07A then k.mx.queue.drop 1 else k.mx.queue } }
      if s.core.mx.queue.any (·.stale) then
        (s.onMe fun t => { t with reissue := s.core.mx.queue }).onCore fun k => { k with mx := k.mx.asRun }
      else if s.mxBusy then s.kickMatrix else s
  else s

/-- The registers after ERET (R133). -/
def Task.leaveHandler (t : Task) : Task := { t with intrap := false, pc := t.tpc }

/-- ERET in a handler. -/
def State.eret (s : State) : State := (s.retire.onMe Task.leaveHandler).releaseQueue

/-! ### Retirement (R385, R386) -/

/-- The last step: nothing of the task is left (R385). Its time from dispatch counts in its cluster's mean (R63). -/
def State.retireEnd (s : State) (t : BitVec 32) : State :=
  match s.findTask t with
  | none => s
  | some x =>
    if (s.getCluster x.cl).tiles.any fun y => y.owner == t then s
    else
      let dt := (s.clock - x.dispatched) * 5 / 12
      let s := s.onCluster x.cl fun c =>
        { c with meanTimes :=
            let old := ((c.meanTimes.find? fun m => m.1 == x.pid).map (·.2)).getD []
            (x.pid, (dt :: old).take 64) :: c.meanTimes.filter fun m => m.1 != x.pid }
      s.gone t

/-- Step 3: OUT and INOUT tiles that are READY drain; every other tile goes EMPTY (R73, R385). -/
def State.retireTiles (s : State) (t : BitVec 32) : State :=
  match s.findTask t with
  | none => s
  | some x =>
    let s := s.putTask { x with retiring := 4 }
    let mine := (s.getCluster x.cl).tiles.filter fun y => y.owner == t && y.st != .draining
    let s := mine.foldl (fun s y =>
      if y.st == .ready && !y.failed && (y.mode == .out || y.mode == .inout) then
        (s.onTile x.cl y.frame fun y => { y with st := .draining, todo := y.runs true }).push (.tileDrainComplete x.cl (BitVec.ofNat 11 y.frame))
      else s.freeTile x.cl y.frame) s
    s.retireEnd t

/-- Step 2: the parent done-counter (R385). A translation fault holds back this and the later steps (R430). -/
def State.retireCount (s : State) (t : BitVec 32) : State :=
  match s.findTask t with
  | none => s
  | some x =>
    let s := s.putTask { x with retiring := 2 }
    if s.settleWaits x.self then s.intWait (hCl x.self) x.pid (.retire t)
    else if x.tw[6] = 0 then s.retireTiles t
    else
      let r := s.devAdd x.pid x.asid x.cl x.tw[6] 1 x.about t
      if r.2 then r.1.retireTiles t
      else r.1.intWait x.cl x.pid (.retire t)

/-- Step 1: the producer's EXIT at the task's own future (R34, R142, R385). The value stands in `parkArg`. -/
def State.retireFuture (s : State) (t : BitVec 32) : State :=
  match s.findTask t with
  | none => s
  | some x =>
    let s := s.putTask { x with retiring := 1 }
    if x.self = 0 then s.retireCount t
    else
      match s.futEvent x.self (.producerExit x.parkArg) with
      | (s, .wait) => s.intWait (hCl x.self) x.pid (.retire t)
      | (s, .asleep) => s.intWait (hCl x.self) x.pid (.retire t)
      | (s, .stale) => s.retireCount t
      | (s, .done o) =>
        let s := if o == .exitDup then
            let w := s.freshWord
            w.1.reportRecord x.pid x.about x.cl 0x0A1 w.2 x.self 0
          else s
        s.retireCount t

/-- Goes on with a retirement where it stopped (R430). -/
def State.retireOn (s : State) (t : BitVec 32) : State :=
  match (s.getTask t).retiring with
  | 1 => s.retireFuture t
  | 2 => s.retireCount t
  | 3 => s.retireTiles t
  | _ => s.retireEnd t

/-- A commit of staged lines: every line is read first, and an error sends the task down the rollback path (R386).
(DEDUCED, assumption 64) -/
def commitStaged : Act Unit := do
  let s ← get
  match s.me.staged.find? fun l => s.latent.contains l.line with
  | some l =>
    set (s.findError l.line)
    trap 0x07B (BitVec.ofNat 64 (linePa l.line * 64))
  | none =>
    set ((s.onMe fun t => { t with staged := [], stagedCore := none, replayable := false, relStaged := [] }).mergeLines s.me.staged s.me.relStaged)

/-- The buffered sends of a handler task leave in send order (R318). -/
def State.releaseSends (s : State) : State :=
  s.me.sends.foldl (fun s m =>
    let d : BitVec 10 := m.dest.extractLsb' 16 10
    let cl : BitVec 8 := m.dest.extractLsb' 5 8
    if d = s.deviceId then s.push (.messageArrive cl m.msg) else { s with fabricOut := s.fabricOut.concat (d, .message cl m.msg) }) s

/-- EXIT once nothing holds it back (R142, R385): the core is free, and the steps go on without it. The context slot goes last. -/
def State.exitTask (s : State) (v : Word) : State :=
  let s := s.retire.releaseSends
  let t := s.me.tid
  let s := s.onCore fun k => { k with mx := if k.mx.bound = t then k.mx.unbind else k.mx }
  let s := (s.onMe fun x => { x with st := .retiring, parkArg := v, retiring := 1, sends := [] }).leave
  s.retireFuture t

end Sys2Proof.Machine
end

