-- ==== Sys2Proof/Machine/Operands.lean ====
section
/-!
DEFINITION. Operand forms: scalar sources (R93), effective addresses (R97), elements of vector registers (R157), vector sources
(R158) and the lane mask (R159).
-/

namespace Sys2Proof

/-- EA := (A + (B << SCALE) + DISP) mod 2^64 (R97). -/
def MX.addr (x : MX) (a b : Word) : Word := a + (b <<< x.scale.toNat) + x.disp.signExtend 64

/-- Bytes of the SIZE field (R97). -/
def MX.bytes (x : MX) : Nat := 2 ^ x.size.toNat

/-- Stamp and allocation of the access (R91). -/
def MX.opt (x : MX) : Machine.Opt := Machine.Opt.ofHint x.hint

end Sys2Proof

namespace Sys2Proof.Machine

/-! ### Scalar operands -/

/-- A scalar register or a small constant, sign-extended (R93). -/
def State.gk (s : State) : GK → Word
  | .g r => s.g r
  | .k c => c.signExtend 64

/-- A condition reads bit 0 of a predicate (R116). -/
def State.cond (s : State) (q : QReg) : Bool := (s.q q).getLsbD 0

/-- The effective address of an instruction with A and B. -/
def State.ea (s : State) (a b : GK) (x : MX) : Word := x.addr (s.gk a) (s.gk b)

/-- The effective address of an instruction whose address is A alone. -/
def State.eaA (s : State) (a : GReg) (x : MX) : Word := x.addr (s.g a) 0

/-! ### Vectors (R157, R159) -/

/-- Elements per register for a width. -/
def lanes (w : Nat) : Nat := 512 / w

/-- Element i of a register. -/
def elem (w : Nat) (v : Vec) (i : Nat) : Nat := elemBits v.toNat w i

/-- A register from a function of the element's number. -/
def vecOf (w : Nat) (f : Nat → Nat) : Vec :=
  BitVec.ofNat 512 ((List.range (lanes w)).foldr (fun i acc => f i % 2 ^ w + 2 ^ w * acc) 0)

/-- Element i is active (R159). -/
def State.active (s : State) (m : Option QReg) (i : Nat) : Bool :=
  match m with
  | none => true
  | some q => (s.q q).getLsbD i

/-- An inactive element keeps its old contents (R159). -/
def State.masked (s : State) (m : Option QReg) (w : Nat) (old : Vec) (f : Nat → Nat) : Vec :=
  vecOf w fun i => if s.active m i then f i else elem w old i

/-- A small constant in a format (R158). -/
def constIn (f : Nat) (c : BitVec 6) : Nat :=
  if isFloat f then (roundTo f .rne false (ofInt c.toInt)).1 else intBits (widthOf f) c.toInt

/-- Element i of a vector source (R158). -/
def State.vgk (s : State) (f : Nat) (b : VGK) (i : Nat) : Nat :=
  match b with
  | .v r => elem (widthOf f) (s.v r) i
  | .g r => (s.g r).toNat % 2 ^ widthOf f
  | .k c => constIn f c

/-- Element i of a source that may be a vector or a scalar register. -/
def State.vg (s : State) (f : Nat) (b : VG) (i : Nat) : Nat :=
  match b with
  | .v r => elem (widthOf f) (s.v r) i
  | .g r => (s.g r).toNat % 2 ^ widthOf f

/-- FFLAGS take more flags (R151). -/
def State.orFlags (s : State) (f : Fl) : State := s.onMe fun t => { t with fflags := t.fflags ||| f }

end Sys2Proof.Machine
end

