-- ==== Sys2Proof/Machine/Integer.lean ====
section
/-!
DEFINITION. Integer, immediate, compare and bit, and address and identity instructions (R134 to R139).
-/

namespace Sys2Proof.Machine

/-- The outcome of an instruction. -/
abbrev Out := Host.Outcome State Fault Refusal

/-- A scalar result, and the next word (R128). -/
def putG (d : GReg) (v : Word) (s : State) : Out := .next (s.setG d v).advance

/-- A predicate result, and the next word. -/
def putQ (d : QReg) (v : Word) (s : State) : Out := .next (s.setQ d v).advance

/-- The instruction stops. -/
def stop (e : Stop) (s : State) : Out := .next (s.endStop s e)

/-! ### Arithmetic of R134 to R138 -/

/-- The high half of a signed product. -/
def mulHigh (a b : Word) : Word := BitVec.ofInt 64 (a.toInt * b.toInt / 2 ^ 64)
/-- The high half of an unsigned product. -/
def mulHighU (a b : Word) : Word := BitVec.ofNat 64 (a.toNat * b.toNat / 2 ^ 64)
/-- A shift amount is b[5:0]. -/
def shAmt (b : Word) : Nat := b.toNat % 64
/-- The signed 40-bit immediate. -/
def imm40 (i : BitVec 40) : Word := i.signExtend 64

/-- Leading zero bits; 64 for 0. -/
def clz64 (a : Word) : Nat := ((List.range 64).find? fun i => a.getLsbD (63 - i)).getD 64
/-- Trailing zero bits; 64 for 0. -/
def ctz64 (a : Word) : Nat := ((List.range 64).find? fun i => a.getLsbD i).getD 64
/-- Number of 1 bits. -/
def popc64 (a : Word) : Nat := ((List.range 64).filter fun i => a.getLsbD i).length

/-- Bits [pos + n − 1 : pos], zero-extended or sign-extended. -/
def bitsOf (a : Word) (pos n : Nat) (signed : Bool) : Word :=
  let v := a.toNat / 2 ^ pos % 2 ^ n
  if signed then BitVec.ofInt 64 (sgn n v) else BitVec.ofNat 64 v

/-- The mask of bits [pos + n − 1 : pos]. -/
def fieldMask (pos n : Nat) : Word := BitVec.ofNat 64 ((2 ^ n - 1) * 2 ^ pos)

/-- old with bits [pos + n − 1 : pos] replaced by the low bits of a. -/
def insertBits (old a : Word) (pos n : Nat) : Word :=
  (old &&& ~~~(fieldMask pos n)) ||| ((a <<< pos) &&& fieldMask pos n)

/-- The truth of a condition of R137, in every bit. -/
def cmpWord (cc : BitVec 4) (a b : Word) : Word := truth (condInt cc.toNat 64 a.toNat b.toNat)

/-- Signed and unsigned minimum and maximum. -/
def minS (a b : Word) : Word := if b.toInt < a.toInt then b else a
def maxS (a b : Word) : Word := if a.toInt < b.toInt then b else a
def minU (a b : Word) : Word := if b.toNat < a.toNat then b else a
def maxU (a b : Word) : Word := if a.toNat < b.toNat then b else a

/-- |s(a)|. -/
def absS (a : Word) : Word := if a.toInt < 0 then -a else a

/-- A division result, or the trap of R135. -/
def putDiv (d : GReg) (a b : Word) (v : Word) (s : State) : Out :=
  if b = 0 then stop (.trap 0x128 a) s else putG d v s

/-! ### Integer register group (R134, R135) -/

/-- ADD (R134). -/
def execAdd (d : GReg) (a b : GK) (s : State) : Out := putG d (s.gk a + s.gk b) s

/-- SUB (R134). -/
def execSub (d : GReg) (a b : GK) (s : State) : Out := putG d (s.gk a - s.gk b) s

/-- MUL (R134): the low 64 bits. -/
def execMul (d : GReg) (a b : GK) (s : State) : Out := putG d (s.gk a * s.gk b) s

/-- MULH (R134). -/
def execMulh (d : GReg) (a b : GK) (s : State) : Out := putG d (mulHigh (s.gk a) (s.gk b)) s

/-- MULHN (R134). -/
def execMulhn (d : GReg) (a b : GK) (s : State) : Out := putG d (mulHighU (s.gk a) (s.gk b)) s

/-- DIV (R134, R135): truncated towards zero. -/
def execDiv (d : GReg) (a b : GK) (s : State) : Out := putDiv d (s.gk a) (s.gk b) ((s.gk a).sdiv (s.gk b)) s

/-- DIVN (R134, R135). -/
def execDivn (d : GReg) (a b : GK) (s : State) : Out := putDiv d (s.gk a) (s.gk b) ((s.gk a) / (s.gk b)) s

/-- REM (R134, R135): it takes the sign of a. -/
def execRem (d : GReg) (a b : GK) (s : State) : Out := putDiv d (s.gk a) (s.gk b) ((s.gk a).srem (s.gk b)) s

/-- REMN (R134, R135). -/
def execRemn (d : GReg) (a b : GK) (s : State) : Out := putDiv d (s.gk a) (s.gk b) ((s.gk a) % (s.gk b)) s

/-- AND (R134). -/
def execAnd (d : GReg) (a b : GK) (s : State) : Out := putG d (s.gk a &&& s.gk b) s

/-- OR (R134). -/
def execOr (d : GReg) (a b : GK) (s : State) : Out := putG d (s.gk a ||| s.gk b) s

/-- XOR (R134). -/
def execXor (d : GReg) (a b : GK) (s : State) : Out := putG d (s.gk a ^^^ s.gk b) s

/-- ANDN (R134). -/
def execAndn (d : GReg) (a b : GK) (s : State) : Out := putG d (s.gk a &&& ~~~(s.gk b)) s

/-- SHL (R134). -/
def execShl (d : GReg) (a b : GK) (s : State) : Out := putG d (s.gk a <<< shAmt (s.gk b)) s

/-- SHR (R134). -/
def execShr (d : GReg) (a b : GK) (s : State) : Out := putG d (s.gk a >>> shAmt (s.gk b)) s

/-- SHA (R134). -/
def execSha (d : GReg) (a b : GK) (s : State) : Out := putG d ((s.gk a).sshiftRight (shAmt (s.gk b))) s

/-! ### Immediate group (R134, R136) -/

/-- ADDI (R134). -/
def execAddi (d : GReg) (a : GK) (imm : BitVec 40) (s : State) : Out := putG d (s.gk a + imm40 imm) s

/-- MULI (R134). -/
def execMuli (d : GReg) (a : GK) (imm : BitVec 40) (s : State) : Out := putG d (s.gk a * imm40 imm) s

/-- ANDI (R134). -/
def execAndi (d : GReg) (a : GK) (imm : BitVec 40) (s : State) : Out := putG d (s.gk a &&& imm40 imm) s

/-- ORI (R134). -/
def execOri (d : GReg) (a : GK) (imm : BitVec 40) (s : State) : Out := putG d (s.gk a ||| imm40 imm) s

/-- XORI (R134). -/
def execXori (d : GReg) (a : GK) (imm : BitVec 40) (s : State) : Out := putG d (s.gk a ^^^ imm40 imm) s

/-- SHLI (R134). -/
def execShli (d : GReg) (a : GK) (sh : BitVec 6) (s : State) : Out := putG d (s.gk a <<< sh.toNat) s

/-- SHRI (R134). -/
def execShri (d : GReg) (a : GK) (sh : BitVec 6) (s : State) : Out := putG d (s.gk a >>> sh.toNat) s

/-- SHAI (R134). -/
def execShai (d : GReg) (a : GK) (sh : BitVec 6) (s : State) : Out := putG d ((s.gk a).sshiftRight sh.toNat) s

/-- LDI (R136). -/
def execLdi (d : GReg) (imm : BitVec 40) (s : State) : Out := putG d (imm40 imm) s

/-- LDHI (R136): the immediate is unsigned and stands above the low 24 bits of a. -/
def execLdhi (d : GReg) (a : GK) (imm : BitVec 40) (s : State) : Out := putG d (imm ++ (s.gk a).extractLsb' 0 24) s

/-- CMPI (R136, R137). -/
def execCmpi (d : QReg) (a : GK) (imm : BitVec 36) (cc : BitVec 4) (s : State) : Out :=
  putQ d (cmpWord cc (s.gk a) (imm.signExtend 64)) s

/-! ### Compare and bit (R137, R138) -/

/-- CMP (R137). -/
def execCmp (d : QReg) (a b : GK) (cc : BitVec 4) (s : State) : Out := putQ d (cmpWord cc (s.gk a) (s.gk b)) s

/-- SEL (R138): the mask is the old gd. -/
def execSel (d : GReg) (a b : GK) (s : State) : Out :=
  putG d ((s.gk a &&& s.g d) ||| (s.gk b &&& ~~~(s.g d))) s

/-- MIN (R138). -/
def execMin (d : GReg) (a b : GK) (s : State) : Out := putG d (minS (s.gk a) (s.gk b)) s

/-- MAX (R138). -/
def execMax (d : GReg) (a b : GK) (s : State) : Out := putG d (maxS (s.gk a) (s.gk b)) s

/-- MINN (R138). -/
def execMinn (d : GReg) (a b : GK) (s : State) : Out := putG d (minU (s.gk a) (s.gk b)) s

/-- MAXN (R138). -/
def execMaxn (d : GReg) (a b : GK) (s : State) : Out := putG d (maxU (s.gk a) (s.gk b)) s

/-- CLZ (R138). -/
def execClz (d a : GReg) (s : State) : Out := putG d (BitVec.ofNat 64 (clz64 (s.g a))) s

/-- CTZ (R138). -/
def execCtz (d a : GReg) (s : State) : Out := putG d (BitVec.ofNat 64 (ctz64 (s.g a))) s

/-- POPC (R138). -/
def execPopc (d a : GReg) (s : State) : Out := putG d (BitVec.ofNat 64 (popc64 (s.g a))) s

/-- BEXT (R138). The field holds the length less one. -/
def execBext (d a : GReg) (pos len : BitVec 6) (sgn : Bool) (s : State) : Out :=
  putG d (bitsOf (s.g a) pos.toNat (len.toNat + 1) sgn) s

/-- BINS (R138). -/
def execBins (d : GReg) (a : GK) (pos len : BitVec 6) (s : State) : Out :=
  putG d (insertBits (s.g d) (s.gk a) pos.toNat (len.toNat + 1)) s

/-- ABS (R138). -/
def execAbs (d a : GReg) (s : State) : Out := putG d (absS (s.g a)) s

/-- SEXT (R138): from bit n. -/
def execSext (d a : GReg) (n : BitVec 6) (s : State) : Out := putG d (bitsOf (s.g a) 0 (n.toNat + 1) true) s

/-- ZEXT (R138): bits [n:0]. -/
def execZext (d a : GReg) (n : BitVec 6) (s : State) : Out := putG d (bitsOf (s.g a) 0 (n.toNat + 1) false) s

/-! ### Address and identity (R139) -/

/-- LEA (R139). -/
def execLea (d : GReg) (a b : GK) (x : MX) (s : State) : Out := putG d (s.ea a b x) s

/-- LEA2 (R139): MOD is the shift. -/
def execLea2 (d : GReg) (a b : GK) (x : MX) (s : State) : Out :=
  putG d (s.gk a + (s.gk b <<< x.mod.toNat) + x.disp.signExtend 64) s

/-- The number of a core among the usable cores of a partition (R77). -/
def State.logicalCore (s : State) (pid : BitVec 2) (c : BitVec 16) : Nat :=
  ((allClusters.flatMap fun cl => s.partCores pid cl).filter fun k => k.toNat < c.toNat).length

/-- The values of GETID (R139). -/
def State.idOf (s : State) (sel : Nat) : Word :=
  match sel with
  | 0 => s.core.id.setWidth 64
  | 1 => (clusterOf s.core.id).setWidth 64
  | 2 => (s.core.id.extractLsb' 2 3).setWidth 64
  | 3 => BitVec.ofNat 64 (s.logicalCore s.me.pid s.core.id)
  | 4 => s.me.pid.setWidth 64
  | 5 => s.deviceId.setWidth 64
  | 6 => s.me.asid.setWidth 64
  | _ => s.me.tid.setWidth 64

/-- GETID (R139). -/
def execGetid (d : GReg) (sel : BitVec 3) (s : State) : Out := putG d (s.idOf sel.toNat) s

end Sys2Proof.Machine
end

