-- ==== Sys2Proof/Machine/Pred.lean ====
section
/-!
DEFINITION. Predicate instructions (R140).
-/

namespace Sys2Proof.Machine

/-- PAND (R140). -/
def execPand (d a b : QReg) (s : State) : Out := putQ d (s.q a &&& s.q b) s

/-- POR (R140). -/
def execPor (d a b : QReg) (s : State) : Out := putQ d (s.q a ||| s.q b) s

/-- PXOR (R140). -/
def execPxor (d a b : QReg) (s : State) : Out := putQ d (s.q a ^^^ s.q b) s

/-- PNOT (R140). -/
def execPnot (d a : QReg) (s : State) : Out := putQ d (~~~(s.q a)) s

/-- PMOV (R140). -/
def execPmov (d a : QReg) (s : State) : Out := putQ d (s.q a) s

/-- QMOV (R140): the 64 bits across. -/
def execQmov (m : QMov) (s : State) : Out :=
  match m with
  | .toG d a => putG d (s.q a) s
  | .toQ d a => putQ d (s.g a) s

/-- PANY (R140). -/
def execPany (d a b : QReg) (s : State) : Out := putQ d (truth (s.q a &&& s.q b != 0)) s

/-- PALL (R140). -/
def execPall (d a b : QReg) (s : State) : Out := putQ d (truth (s.q a &&& s.q b == s.q b)) s

/-- The number of low bits that PSET sets (R140). -/
def psetCount (a : Word) (imm : BitVec 40) : Nat := Nat.min (a.toInt + imm.toInt).toNat 64

/-- PSET (R140). -/
def execPset (d : QReg) (a : GK) (imm : BitVec 40) (s : State) : Out :=
  putQ d (BitVec.ofNat 64 (2 ^ psetCount (s.gk a) imm - 1)) s

end Sys2Proof.Machine
end

