-- ==== Sys2Proof/Machine/Control.lean ====
section
/-!
DEFINITION. Control-misc and control instructions (R84, R85, R103 to R107, R118 to R123, R129 to R133, R141, R142).
-/

namespace Sys2Proof.Machine

/-! ### Words that only trap, or do nothing (R129, R131) -/

/-- ILL (R100, R129). -/
def execIll (s : State) : Out := stop (.trap 0x011 s.pc) s

/-- A word whose MAJOR and MINOR name no instruction (R100, R102). -/
def execUnassignedEncoding (s : State) : Out := stop (.trap 0x010 s.pc) s

/-- NOP (R129). -/
def execNop (s : State) : Out := .next s.advance

/-- BRK (R131): taken after the instruction. -/
def execBrk (imm : BitVec 40) (s : State) : Out := stop (.trapDone 0x008 (imm.setWidth 64)) s

/-- TRAP (R131): taken after the instruction. -/
def execTrap (n : BitVec 3) (a : GK) (s : State) : Out := stop (.trapDone (n.setWidth 9) (s.gk a)) s

/-! ### YIELD (R130) -/

/-- The reason with which a task that would otherwise continue parks at a boundary (R365, R366). -/
def State.boundaryReason (s : State) (c : Cause) : Cause :=
  if (s.part s.me.pid).stopping then 0x149 else if s.heldCore s.me.pid s.core.id then 0x148 else c

/-- The running task parks and stands at the tail of its cluster's ready queue (R130, R364). -/
def State.yieldMe (s : State) (c : Cause) (at_ : Word) : State :=
  let t := s.me.tid
  (s.parkMe (s.boundaryReason c) 0 at_).wakeTail t

/-- YIELD (R130). -/
def execYield (s : State) : Out := .next (if s.mxBusy then s.kickMatrix else s.retire.yieldMe 0x14B (s.pc + 12))

/-! ### IFENCE, GETMC, SETNUD, ERET (R129, R132, R133) -/

/-- IFENCE (R132): the instruction lines of the task's ASID go. -/
def execIfence (s : State) : Out :=
  .next (s.onCore fun c => { c with icache := c.icache.filter fun l => l.asid != s.me.asid }).advance

/-- GETMC (R129). -/
def execGetmc (d : GReg) (s : State) : Out := putG d (s.me.mclk.setWidth 64) s

/-- The partition default of NUDDEF (R210). -/
def State.defaultNud (s : State) (pid : BitVec 2) : BitVec 6 := if (s.part pid).nuddef = 0 then 32 else (s.part pid).nuddef

/-- A write of NUDDEF (R119, R129). -/
def State.setNud (s : State) (c : BitVec 6) : State := s.onMe fun t => { t with nuddef := if c = 0 then s.defaultNud s.me.pid else c }

/-- SETNUD (R129). -/
def execSetnud (code : BitVec 6) (s : State) : Out := .next (s.setNud code).advance

/-- ERET (R133, R196). -/
def execEret (s : State) : Out := if s.me.intrap then .next s.eret else stop (.trap 0x031 s.pc) s

/-! ### System registers (R118 to R123) -/

/-- Usable cores of a partition (R119). -/
def State.coreCount (s : State) (pid : BitVec 2) : Nat := (allClusters.map fun cl => (s.partCores pid cl).length).sum

/-- The COMPUTE layers that a partition uses, bit n for layer n (R119). -/
def State.computeMask (s : State) (pid : BitVec 2) : BitVec 4 :=
  two.foldl (fun m l => if s.role l == .compute && (s.partClusters pid).any (fun c => layerOf c == l) then m ||| BitVec.ofNat 4 (2 ^ l.toNat) else m) 0

/-- The running task holds a slot or accumulator claim (R120, R176). -/
def State.matrixBit (s : State) : Bool := s.core.mx.bound == s.me.tid && (s.core.mx.sclaim != 0 || s.core.mx.zclaim != 0)

/-- TSTATUS (R120). -/
def State.tstatus (s : State) : Word :=
  (0 : BitVec 54) ++ s.me.lost ++ (0 : BitVec 1) ++ BitVec.ofBool s.matrixBit ++ BitVec.ofBool s.me.capsule ++
    BitVec.ofBool (!s.core.members.isEmpty) ++ BitVec.ofBool s.core.leader.isSome ++ BitVec.ofBool s.me.intrap ++ BitVec.ofBool s.me.det ++
    BitVec.ofBool s.me.replayable

/-- PART (R119). -/
def State.partWord (s : State) : Word :=
  (0 : BitVec 16) ++ BitVec.ofNat 32 (s.coreCount s.me.pid) ++ (0 : BitVec 8) ++ s.computeMask s.me.pid ++ (0 : BitVec 2) ++ s.me.pid

/-- The value of a register; reserved bits read 0. `none` for an index that is unassigned (R118, R119, R121). -/
def State.readSys (s : State) (idx : Nat) : Option Word :=
  let t := s.me
  let r := (s.part t.pid).regs
  match idx with
  | 0x000 => some (t.tid.setWidth 64)
  | 0x001 => some t.self
  | 0x002 => some (t.mclk.setWidth 64)
  | 0x003 => some (t.budget.setWidth 64)
  | 0x004 => some (t.spawned.setWidth 64)
  | 0x005 => some (t.cause.setWidth 64)
  | 0x006 => some t.tval
  | 0x007 => some t.tpc
  | 0x008 => some t.thandler
  | 0x009 => some (t.nuddef.setWidth 64)
  | 0x00A => some (t.smiss.setWidth 64)
  | 0x00B => some (t.laviol.setWidth 64)
  | 0x00C => some s.tstatus
  | 0x010 => some (s.core.id.setWidth 64)
  | 0x011 => some s.partWord
  | 0x012 => some (t.asid.setWidth 64)
  | 0x013 => some (s.deviceId.setWidth 64)
  | 0x100 => some r.ftlimit
  | 0x101 => some r.fspill
  | 0x102 => some r.trapring
  | 0x103 => some r.faultring
  | 0x104 => some r.quant
  | 0x105 => some r.detctl
  | 0x106 => some r.maxmsg
  | 0x107 => some r.classtab
  | 0x108 => some r.adoptdly
  | 0x109 => some r.tenscale
  | 0x10A => some r.tencap
  | 0x10B => some s.core.redtree
  | 0x10C => some r.lotseed
  | 0x10D => some r.budgetmax
  | 0x10E => some r.watcharea
  | _ => none

/-- The task-level registers with access RW (R119). -/
def taskRW (idx : Nat) : Bool := 5 ≤ idx && idx ≤ 0xB
/-- The system-level registers; all are RW (R121). -/
def sysLevel (idx : Nat) : Bool := 0x100 ≤ idx && idx ≤ 0x10E

/-- Bits of a register that are not reserved (R119, R121). -/
def sysMask (idx : Nat) : Word :=
  match idx with
  | 0x005 => 0x1FF
  | 0x006 => 0xFFFF_FFFF_FFFF_FFFF
  | 0x007 => 0xFFFF_FFFF_FFFF_FFFC
  | 0x008 => 0xFFFF_FFFF_FFFF_FFFC
  | 0x009 => 0x3F
  | 0x00A => 0xFFFF_FFFF
  | 0x00B => 0xFFFF_FFFF
  | 0x100 => 0x3FF
  | 0x101 => 0xFFFF_FFFF_FFFF_F03F
  | 0x102 => 0xFFFF_FFFF_FFFF_F03F
  | 0x103 => 0xFFFF_FFFF_FFFF_F03F
  | 0x104 => 0xFFFF_FFFF
  | 0x105 => 1
  | 0x106 => 7
  | 0x107 => 0xFFFF_FFFF_FFFF_FFC0
  | 0x108 => 0xFFFF_FFFF
  | 0x109 => 0xFFFF
  | 0x10A => 0x0000_FFFF_00FF_FFFF
  | 0x10B => 0x8000_0000_03FF_FFFF
  | 0x10C => 0xFFFF_FFFF
  | 0x10D => 0xFF_FFFF_FFFF
  | 0x10E => 0xFFFF_FFFF_FFFF_F03F
  | _ => 0

/-- A BASE field that is non-zero requires a LOG2N inside its range (R122). -/
def areaOk (v : Word) (lo hi : Nat) : Bool := areaBase v == 0 || (lo ≤ areaLog v && areaLog v ≤ hi)

/-- The value limits of the maps, on a value with reserved bits cleared (R121, R122). -/
def sysValueOk (idx : Nat) (v : Word) : Bool :=
  match idx with
  | 0x100 => 1 ≤ v.toNat && v.toNat ≤ 512
  | 0x101 => areaOk v 9 24
  | 0x102 => areaOk v 6 20
  | 0x103 => areaOk v 3 20
  | 0x104 => 1 ≤ v.toNat && v.toNat ≤ 2 ^ 31
  | 0x106 => 1 ≤ v.toNat && v.toNat ≤ 4
  | 0x109 => 0x10 ≤ v.toNat && v.toNat ≤ 0x1000
  | 0x10D => 1 ≤ v.toNat / 2 ^ 32 && 17 ≤ v.toNat % 2 ^ 32
  | 0x10E => areaOk v 6 20
  | _ => true

/-- A write of a task-level register by its task (R119). -/
def State.writeTaskReg (s : State) (idx : Nat) (v : Word) : State :=
  match idx with
  | 0x005 => s.onMe fun t => { t with cause := v.extractLsb' 0 9 }
  | 0x006 => s.onMe fun t => { t with tval := v }
  | 0x007 => s.onMe fun t => { t with tpc := v }
  | 0x008 => s.onMe fun t => { t with thandler := v }
  | 0x009 => s.setNud (v.extractLsb' 0 6)
  | 0x00A => s.onMe fun t => { t with smiss := v.extractLsb' 0 32 }
  | 0x00B => s.onMe fun t => { t with laviol := v.extractLsb' 0 32 }
  | _ => s

/-- The seed that a value gives the lottery (R57, R121). -/
def seedOf (v : Word) : BitVec 32 := if v.extractLsb' 0 32 = 0 then 0x9E37_79B9 else v.extractLsb' 0 32

/-- A change of a partition's system registers. -/
def State.onRegs (s : State) (pid : BitVec 2) (f : SysRegs → SysRegs) : State := s.onPart pid fun p => { p with regs := f p.regs }

/-- What DET tasks of a partition observe until the next quantum (R279). -/
def State.detSnapshot (s : State) (pid : BitVec 2) : State :=
  s.onPart pid fun p =>
    if p.regs.detctl.getLsbD 0 then { p with detMem := some s.mem, detFuts := s.clusters.map fun (c : Cluster) => (c.id, c.futs) }
    else { p with detMem := none, detFuts := [] }

/-- A write of a system-level register other than CLASSTAB, whole-partition effects included (R118, R121). -/
def State.writeSysReg (s : State) (pid : BitVec 2) (idx : Nat) (v : Word) : State :=
  match idx with
  | 0x100 => s.onRegs pid fun r => { r with ftlimit := v }
  | 0x101 => s.onRegs pid fun r => { r with fspill := v }
  | 0x102 => s.onRegs pid fun r => { r with trapring := v }
  | 0x103 => s.onRegs pid fun r => { r with faultring := v }
  | 0x104 => s.onRegs pid fun r => { r with quant := v }
  | 0x105 =>
    -- the first quantum takes the count that QUANT holds as determinism begins
    let begins := !(s.part pid).regs.detctl.getLsbD 0 && v.getLsbD 0
    ((s.onRegs pid fun r => { r with detctl := v }).onPart pid fun p =>
      { p with quantNow := if begins then p.regs.quant.toNat else p.quantNow }).detSnapshot pid
  | 0x106 => s.onRegs pid fun r => { r with maxmsg := v }
  | 0x108 => s.onRegs pid fun r => { r with adoptdly := v }
  | 0x109 =>
    let s := s.onRegs pid fun r => { r with tenscale := v }
    { s with slices := s.slices.map fun sl => { sl with tenants := sl.tenants.map fun t => if t.pid == pid then { t with kt := v.extractLsb' 0 16, samples := 0, unused := 0 } else t } }
  | 0x10A => s.onRegs pid fun r => { r with tencap := v }
  | 0x10B => s.onCore fun c => { c with redtree := v }
  | 0x10C => (s.onRegs pid fun r => { r with lotseed := v }).onPart pid fun p => { p with x := seedOf v }
  | 0x10D => s.onRegs pid fun r => { r with budgetmax := v }
  | 0x10E => s.onRegs pid fun r => { r with watcharea := v }
  | _ => s

/-! ### The class table (R38) -/

/-- An entry of 16 bytes, as two words. -/
def classEnt (h w : Nat) : ClassEnt :=
  { entry := BitVec.ofNat 64 h, prio := BitVec.ofNat 2 (fld w 14 2), budget := BitVec.ofNat 8 (fld w 6 8), enable := fld w 4 1 == 1
    mask := fld w 3 1 == 1, route := BitVec.ofNat 2 (fld w 0 2) }

/-- An entry that R38 accepts. -/
def classEntOk (h w : Nat) : Bool :=
  fld w 16 48 == 0 && fld w 5 1 == 0 && fld w 2 1 == 0 && !(fld w 4 1 == 1 && (fld w 0 2 == 3 || h % 4 != 0))

/-! ### Handler tasks (R39, R317) -/

/-- The record of a handler task (R39). -/
def handlerRecord (e : ClassEnt) (m : Message) : Vector Word 8 :=
  #v[e.entry, m.id.setWidth 64, (0 : BitVec 38) ++ m.srcDev ++ m.srcCore, (0 : BitVec 57) ++ m.flits ++ m.cls, 0, 0, 0,
    (0 : BitVec 46) ++ (1 : BitVec 1) ++ (0 : BitVec 7) ++ e.prio ++ e.budget]

/-- A handler task is queued in the cluster (R39); it runs in the system address space (DESIGN CHOICE, assumption 14). -/
def State.startHandler (s : State) (cl : BitVec 8) (m : Message) : State :=
  let pid := s.clusterPid cl
  let (s, t) := s.newTask pid (s.part pid).sysasid (handlerRecord (rd (s.getCluster cl).classTab m.cls) m)
  (s.onTask t fun x => { x with msg := some m }).placeRecord t cl

/-- Delivery of a class is queued (R38, R317). -/
def Cluster.isMasked (c : Cluster) (cls : BitVec 4) : Bool := c.live.getLsbD cls.toNat

/-- Messages of unmasked classes start handlers, in queue order (R317). -/
def State.startHandlers (s : State) (cl : BitVec 8) : State :=
  let c := s.getCluster cl
  let go (m : Message) : Bool := (rd c.classTab m.cls).enable && !c.isMasked m.cls
  let s := (s.putCluster { c with msgs := c.msgs.filter fun m => !go m }).fitMsgs cl
  (c.msgs.filter go).foldl (fun s m => s.startHandler cl m) s

/-! ### The class table (R38) -/

/-- Loads a table into every cluster of a partition, or refuses it (R38). Queued messages of classes that it unmasks start handlers (R317).
(DEDUCED, assumption 63) -/
def State.loadClasses (s : State) (pid : BitVec 2) (table : Nat) : Option State :=
  let h (i : Nat) : Nat := fld table (128 * i) 64
  let w (i : Nat) : Nat := fld table (128 * i + 64) 64
  if (List.range 15).all fun i => classEntOk (h i) (w i) then
    let tab : Vector ClassEnt 16 := Vector.ofFn fun i => if i.val = 15 then {} else classEnt (h i.val) (w i.val)
    let live := (List.range 15).foldl (fun m i => if fld (w i) 3 1 = 1 then m ||| BitVec.ofNat 16 (2 ^ i) else m) (0 : BitVec 16)
    some ((s.partClusters pid).foldl (fun s cl => (s.onCluster cl fun c => { c with classTab := tab, live := live }).startHandlers cl) s)
  else none

/-- A write of CLASSTAB (R38): the table is read in the writer's address space. -/
def writeClasstab (v : Word) : Act Unit := do
  let table ← readV v 256
  let s ← get
  match s.loadClasses s.me.pid table with
  | none => trapFree 0x0C8
  | some s => set (s.onRegs s.me.pid fun r => { r with classtab := v })

/-! ### SYSR and SYSW (R122) -/

/-- SYSR without XCHG. -/
def sysrAct (d : GReg) (idx : Nat) : Act Unit := do
  let s ← get
  match s.readSys idx with
  | none => trap 0x025 (BitVec.ofNat 64 idx)
  | some v =>
    if 0x100 ≤ idx && !s.privileged s.me then trap 0x029 (BitVec.ofNat 64 idx)
    set (s.setG d v)

/-- SYSR with XCHG. -/
def sysrXAct (d : GReg) (a : Word) (idx : Nat) : Act Unit := do
  let s ← get
  match s.readSys idx with
  | none => trap 0x025 (BitVec.ofNat 64 idx)
  | some old =>
    if 0x100 ≤ idx && !s.privileged s.me then trap 0x029 (BitVec.ofNat 64 idx)
    if !taskRW idx then trap 0x02A (BitVec.ofNat 64 idx)
    if !sysValueOk idx (a &&& sysMask idx) then trap 0x01B (BitVec.ofNat 64 idx)
    set ((s.writeTaskReg idx (a &&& sysMask idx)).setG d old)

/-- SYSW. -/
def syswAct (idx : Nat) (a : Word) : Act Unit := do
  needPrivilege
  let s ← get
  match s.readSys idx with
  | none => trap 0x025 (BitVec.ofNat 64 idx)
  | some _ =>
    if !taskRW idx && !sysLevel idx then trap 0x02A (BitVec.ofNat 64 idx)
    let v := a &&& sysMask idx
    if !sysValueOk idx v then trap 0x01B (BitVec.ofNat 64 idx)
    if idx = 0x107 then writeClasstab v
    else set (if taskRW idx then s.writeTaskReg idx v else s.writeSysReg s.me.pid idx v)

/-- SYSR (R122). -/
def execSysr (d : GReg) (idx : BitVec 12) (s : State) : Out := finish (sysrAct d idx.toNat) s
/-- SYSR with XCHG (R122). -/
def execSysrX (d : GReg) (a : GK) (idx : BitVec 12) (s : State) : Out := finish (sysrXAct d (s.gk a) idx.toNat) s
/-- SYSW (R122). -/
def execSysw (idx : BitVec 12) (a : GK) (s : State) : Out := finish (syswAct idx.toNat (s.gk a)) s
/-- SYSW of CLASSTAB (R38). -/
def execSyswClasstab (a : GK) (s : State) : Out := finish (syswAct 0x107 (s.gk a)) s
/-- SYSW of LOTSEED (R121): the generator of the lottery takes the seed. -/
def execSyswLotseed (a : GK) (s : State) : Out := finish (syswAct 0x10C (s.gk a)) s
/-- SYSW of TENSCALE (R121): the scale of every tenant of the partition. -/
def execSyswTenscale (a : GK) (s : State) : Out := finish (syswAct 0x109 (s.gk a)) s

/-! ### FOLLOW and LEAVE (R103 to R107) -/

/-- The leader of a core's cell (R104). -/
def cellLeader (c : BitVec 16) : BitVec 16 := c &&& 0xFFFC
/-- The other cores of a cell. -/
def cellMates (c : BitVec 16) : List (BitVec 16) := ((List.range 4).map fun n => cellLeader c + BitVec.ofNat 16 n).filter fun k => k != c

/-- A core waits at a FOLLOW at an address. -/
def Core.waitsAt (c : Core) (p : Word) : Bool := match c.followAt with | some w => w.1 == p | none => false

/-- Turns that stand for the 64 cycles of R104. -/
def followTurns : Nat := 64

/-- The leader's FOLLOW ends (R104): those that wait at the same address join; those that wait elsewhere stop waiting. -/
def State.openStream (s : State) (d : QReg) : State :=
  let p := s.pc
  let mates := cellMates s.core.id
  let joined := mates.filter fun m => (s.getCore m).waitsAt p && (s.getCore m).leader.isNone
  let s := mates.foldl (fun s m => s.onCoreId m fun c =>
    if joined.contains m then { c with leader := some s.core.id, followAt := none }
    else match c.followAt with
      | some w => { c with followAt := some (w.1, followTurns + 1) }
      | none => c) s
  let s := s.onCore fun c => { c with members := joined, followAt := none }
  s.setQ d (truth (!joined.isEmpty && !s.me.det))

/-- The core goes on waiting at its FOLLOW. After 64 turns the wait is over by an event; a core whose leader waits at the same
address does not count (R104). -/
def State.waitFollow (s : State) (counts : Bool) : State :=
  let n := match s.core.followAt with | some w => if w.1 = s.pc then w.2 else 0 | none => 0
  let s' := s.onCore fun c => { c with followAt := some (s.pc, if counts then n + 1 else n) }
  if counts && n + 1 = followTurns then s'.push (.followTimeout s.core.id) else s'

/-- The wait at this FOLLOW has timed out. -/
def State.followOver (s : State) : Bool := match s.core.followAt with | some w => w.1 == s.pc && followTurns < w.2 | none => false

/-- FOLLOW (R104). In a task with DET set it writes 0 (R107). -/
def execFollow (d : QReg) (s : State) : Out :=
  if !s.core.members.isEmpty || s.core.leader.isSome then putQ d (truth (!s.me.det)) s
  else if cellLeader s.core.id = s.core.id then
    let mates := (cellMates s.core.id).filter fun m => (s.getCore m).running ≠ 0 && (s.getTask (s.getCore m).running).asid == s.me.asid
    if s.followOver || mates.all fun m => (s.getCore m).waitsAt s.pc then .next (s.openStream d).advance
    else .next (s.waitFollow true)
  else if s.followOver then .next ((s.onCore fun c => { c with followAt := none }).setQ d 0).advance
  else .next (s.waitFollow (!(s.getCore (cellLeader s.core.id)).waitsAt s.pc))

/-- LEAVE (R103, R106). -/
def execLeave (s : State) : Out := .next s.breakStream.advance

/-! ### Control transfers (R85, R141) -/

/-- PC + 12 × disp (R85). -/
def State.target (s : State) (disp : BitVec 40) : Word := s.pc + 12 * disp.signExtend 64

/-- A transfer to a register's value checks its alignment first (R85). -/
def jumpTo (a : Word) (s t : State) : Out := if a.extractLsb' 0 2 = 0 then .next (t.goTo a) else stop (.trap 0x030 a) s

/-- BRA (R141). -/
def execBra (disp : BitVec 40) (s : State) : Out := .next (s.goTo (s.target disp))
/-- JMP (R141). -/
def execJmp (a : GReg) (s : State) : Out := jumpTo (s.g a) s s
/-- CALL (R141). -/
def execCall (d : GReg) (disp : BitVec 40) (s : State) : Out := .next ((s.setG d (s.pc + 12)).goTo (s.target disp))
/-- CALLR (R141): A is read before D is written. -/
def execCallr (d a : GReg) (s : State) : Out := jumpTo (s.g a) s (s.setG d (s.pc + 12))
/-- RET (R141). -/
def execRet (a : GReg) (s : State) : Out := jumpTo (s.g a) s s
/-- LOOP (R141): the value after the subtraction decides. (DEDUCED, assumption 61) -/
def execLoop (d : GReg) (disp : BitVec 40) (s : State) : Out :=
  let v := s.g d - 1
  .next ((s.setG d v).goTo (if v = 0 then s.pc + 12 else s.target disp))

/-! ### EXIT (R142, R385) -/

/-- What must complete before step 1 of retirement: the matrix queue, the task's engine operations, its staged lines, and its
stores to other devices. On a paused operation the task parks in FAULT (R250), and a handler task aborts (R318). -/
def beforeExit : Act Unit := do
  let s ← get
  if s.mxBusy then
    set s.kickMatrix
    throw .stall
  match s.opsOf s.me.tid with
  | [] => pure ()
  | ops =>
    match ops.findSome? EngOp.paused with
    | some p =>
      set (if s.me.isHandler then s.abortHandler 0x0D2 p.1 else (s.onMe fun t => { t with st := .fault, parkCause := p.2, parkArg := p.1 }).leave)
      throw .gone
    | none => throw .stall
  if s.me.replayable && !s.me.staged.isEmpty then commitStaged
  if (← get).remoteOpen then throw .stall

/-- EXIT (R142). -/
def execExit (a : GK) (s : State) : Out := finishWith beforeExit (fun _ t => t.exitTask (s.gk a)) s

end Sys2Proof.Machine
end

