-- ==== Sys2Proof/Machine/Tasks.lean ====
section
/-!
DEFINITION. Task and future instructions, major 0x07 (R282 to R296).
-/

namespace Sys2Proof.Machine

/-! ### Requests (R284, R285, R279) -/

/-- Determinism holds for the running task (R78, R279). -/
def State.detOn (s : State) : Bool := s.me.det && (s.part s.me.pid).regs.detctl.getLsbD 0

/-- What a DET task observes: memory and future tables as they stood when the quantum began (R279). -/
def State.detView (s : State) : State :=
  if s.detOn then
    let p := s.part s.me.pid
    { s with
      mem := p.detMem.getD s.mem
      clusters := s.clusters.map fun c => match p.detFuts.find? fun f => f.1 == c.id with | some f => { c with futs := f.2 } | none => c }
  else s

/-- The checks of R32 that the core makes. -/
def checkHandle (h : Word) : Act Unit := do
  match (← get).handleCause h with
  | some c => trapFree c
  | none => return ()

/-- The entry of a handle of this device, as it is and as the running task observes it. A DET task observes the tables of the quantum's
start (R279): an entry that came since is not there, and one that went since still is. -/
def findFut (h : Word) : Act (Option FutRef × FutRef) := do
  let s ← get
  let r := s.lookupFut (hCl h) (hEnt h) (hGen h)
  set r.1
  if s.detOn then
    match (s.detView.lookupFut (hCl h) (hEnt h) (hGen h)).2, r.2 with
    | .found q, .found r => return (some r, q)
    | .found q, .stale => return (none, q)
    | .stale, .found r => return (some r, { r with fut := { r.fut with st := .empty } })
    | .stale, .stale => trapFree 0x099
    | _, _ => throw .stall
  else
    match r.2 with
    | .found r => return (some r, r)
    | .stale => trapFree 0x099
    | .wait _ => throw .stall

/-- The next message id of the core (R316). (DEDUCED, assumption 65) -/
def nextMsgId : Act (BitVec 32) := do
  let s ← get
  set (s.onCore fun c => { c with msgSeq := c.msgSeq + 1 })
  return s.core.id ++ s.core.msgSeq

/-- An event of R34 by the running task: at once for an entry of this device, posted for another's (R284). -/
def taskEvent (h : Word) (ev : FEvent) : Act Unit := do
  let s ← get
  if hDev h = s.deviceId then
    let r := s.futEvent h ev
    set r.1
    match r.2 with
    | .stale => trapFree 0x099
    | .wait => throw .stall
    | .asleep => throw .stall
    | .done .duplicate => trapFree 0x0A0
    | .done .refcount => trapFree 0x09B
    | .done _ => return ()
  else
    let id ← nextMsgId
    upd fun s => { s with fabricOut := s.fabricOut.concat (hDev h, .future h ev id) }

/-! ### SPAWN and SPAWNR (R286, R287) -/

/-- The record that enters the deque (R25, R286). -/
def spawnRecord (det : Bool) (rec : Vector Word 8) (ctr : Word) : Vector Word 8 :=
  ((rec.set 5 0).set 6 ctr).set 7 (if det then rec[7] ||| 0x10000 else rec[7])

/-- Allocation, push and count of a SPAWN (R286, R288). The handle goes to gd. -/
def spawnNow (d : GReg) (rec : Vector Word 8) (counted : Bool) : Act Unit := do
  let s ← get
  let cl := clusterOf s.core.id
  let room := s.makeRoom s.me.pid cl 513
  set room.1
  match room.2 with
  | some (some c) => throw (.park c 0)
  | some none => throw .stall
  | none => pure ()
  let s ← get
  match s.allocFut s.me.pid cl s.nextTid with
  | (s1, .error c) =>
    set s1
    match c with
    | some c => throw (.park c 0)
    | none => throw .stall
  | (s1, .ok h) =>
    let (s2, t) := s1.newTask s.me.pid s.me.asid (rec.set 5 h)
    let s2 := s2.onTask t fun x => { x with cl := cl, core := s.core.id }
    match s2.pushDeque s.core.id t s.me.pid with
    | none => throw (.park 0x0B4 0)
    | some s3 =>
      let s3 := if counted then s3.onMe fun x => { x with spawned := x.spawned + 1 } else s3
      set (s3.setG d h)

/-- The checks of R25 and R286 on a record, and what follows. A DET task's SPAWN waits for the end of its quantum (R287): the
answer is then whether it waits. -/
def spawnAct (d b : GReg) (rec : Vector Word 8) : Act Bool := do
  match recordCause rec with
  | some c => trapFree c
  | none => pure ()
  let s ← get
  let ctr := s.g b
  if b ≠ 0 && ctr.toNat % 8 ≠ 0 then trap 0x0B5 ctr
  let r8 := spawnRecord s.me.det rec (if b = 0 then 0 else ctr)
  releaseAt 5
  if s.detOn then
    upd fun s => (s.onMe fun t => { t with detSpawn := some (d, (if b = 0 then 0 else 1) :: r8.toList) }).onCore fun c =>
      { c with detReqs := c.detReqs ++ [.spawn s.me.tid] }
    upd fun s => s.push (.quantumBoundary s.core.id)
    return true
  else
    spawnNow d r8 (b ≠ 0)
    loseReplay3
    return false

/-- Eight words as a record. -/
def recordOf (w : Nat → Word) : Vector Word 8 := Vector.ofFn fun i => w i.val

/-- Goes on unless the SPAWN waits for its quantum. -/
def spawnEnd (waits : Bool) (s : State) : State := if waits then s else s.advance

/-- SPAWN (R286). -/
def execSpawn (d a b : GReg) (s : State) : Out :=
  finishWith (do
    if (s.g a).toNat % 64 ≠ 0 then trapFree 0x0B3
    let x ← readV (s.g a) 64
    spawnAct d b (recordOf fun i => BitVec.ofNat 64 (x / 2 ^ (64 * i)))) spawnEnd s

/-- SPAWNR (R286): the record stands in eight registers from g(A) on. -/
def execSpawnr (d a b : GReg) (s : State) : Out :=
  finishWith (do
    if a.toNat = 0 || 56 < a.toNat then trapFree 0x01B
    spawnAct d b (recordOf fun i => s.g (a + BitVec.ofNat 6 i))) spawnEnd s

/-! ### TOUCH, JOIN, TOUCHQ (R291) -/

/-- The running task joins the waiter list of an entry and parks. What has settled, or gone, in its quantum wakes it at the quantum's end. -/
def joinWaiters (h : Word) (live : Option FutRef) : Act Unit := do
  let s ← get
  match live.filter fun r => !r.fut.terminal with
  | none =>
    set (s.onCore fun c => { c with detReqs := c.detReqs ++ [.wake s.me.tid] })
    throw (.park 0x0AA h)
  | some r =>
    let q := s.refill r
    set q.1
    match q.2 with
    | .error (some c) => throw (.park c h)
    | .error none => throw .stall
    | .ok r =>
      let me : Waiter := { dev := q.1.deviceId, tid := q.1.me.tid }
      let f := if r.fut.waiters.contains me then r.fut else { r.fut with waiters := r.fut.waiters ++ [me] }
      set (q.1.addWaiters r f)
      throw (.park 0x0AA h)

/-- The results of a terminal entry: value or cause, and whether it is RESOLVED. -/
def settleInto (d : GReg) (e : Option QReg) (h : Word) (f : Fut) : Act Unit := do
  if f.st = .resolved then
    upd fun s => (s.setG d f.val)
    match e with | some q => upd (·.setQ q (truth true)) | none => return ()
  else
    match e with
    | some q => upd fun s => (s.setG d (f.val.extractLsb' 0 9 |>.setWidth 64)).setQ q 0
    | none =>
      upd fun s => s.onMe fun t => { t with parkArg := f.val }
      trap (if f.st = .poisoned then 0x0B8 else 0x0B9) h

/-- Codes of R289. -/
def stOfCode (n : Nat) : FutSt := futStOf n

/-- A request to another device's table, for its reply (R284, R296). `op` is 0 TOUCH, 1 JOIN, 2 TOUCHQ, 3 FSTAT and 5 JOIN with a predicate.
A DET task takes a reply that was there when its quantum began, and else goes to its quantum boundary (R279). The reply's bits [63:0] are the value or cause, [66:64] the
state, [67] a count that was 0 already, [68] that the tag is stale, and [191:128] what FSTAT reads (DESIGN CHOICE, assumption 12). -/
def askRemote (h : Word) (op : BitVec 3) : Act (BitVec 512) := do
  let s ← get
  let now := (s.part s.me.pid).quantum
  match s.outs.find? fun o => o.fut && o.tid == s.me.tid && o.va == h && o.n == op.toNat && o.seq == s.me.retired with
  | some o =>
    if s.detOn && o.epoch = now && (o.lost || o.reply.isSome) then
      set (s.push (.quantumBoundary s.core.id))
      throw .stall
    match o.reply with
    | some (.data v) =>
      set (s.dropOut o)
      return v
    | some _ =>
      set (s.dropOut o)
      trapFree 0x099
    | none =>
      if o.lost then
        set (s.dropOut o)
        trapFree 0x09A
      else
        set { s with outs := s.outs.map fun x => if x == o then { x with epoch := now } else x }
        throw .stall
  | none =>
    checkHandle h
    let id ← nextMsgId
    upd fun s => { s with
      outs := s.outs.concat ({ tid := s.me.tid, dev := some (hDev h), va := h, n := op.toNat, seq := s.me.retired, fut := true, epoch := now })
      fabricOut := s.fabricOut.concat (hDev h, .future h (.touch s.deviceId s.me.tid op) id) }
    throw .stall

/-- TOUCH (0), JOIN (1) and TOUCHQ (2) of R291. The answer is whether JOIN's drop found the count at 0. -/
def touchAct (op : BitVec 2) (d : GReg) (e : Option QReg) (h : Word) : Act Bool := do
  let s ← get
  if h.extractLsb' 62 2 = 2 && hDev h ≠ s.deviceId then
    let v ← askRemote h (if op = 1 && e.isSome then 5 else (0 : BitVec 1) ++ op)
    if v.getLsbD 68 then trapFree 0x099
    let f : Fut := { slot := 0, ent := 0, gen := 0, st := stOfCode (v.extractLsb' 64 3).toNat, val := v.extractLsb' 0 64 }
    if !f.terminal then
      if op = 2 then upd fun s => (s.setG d (BitVec.allOnes 64)).setQ (e.getD 0) 0
      else throw (.park 0x0AA h)
    else
      if op = 1 then loseReplay3
      upd (·.acquired)
      settleInto d e h f
    return v.getLsbD 67
  else
    checkHandle h
    let (r, q) ← findFut h
    let s ← get
    let o := q.fut
    if o.producer = s.me.tid && !o.terminal && op ≠ 2 then trap 0x0BA h
    if !o.terminal then
      if op = 2 then
        upd fun s => (s.setG d (BitVec.allOnes 64)).setQ (e.getD 0) 0
        return false
      else
        joinWaiters h r
        return false
    else
      if op = 1 then loseReplay3
      upd (·.acquired)
      settleInto d e h o
      if op = 1 then
        let q := (← get).futEvent h .fdrop
        set q.1
        return q.2 != .done .ok
      else return false

/-- A JOIN whose drop finds the count at 0 traps after it has completed (R291, R356). -/
def touchEnd (refcount : Bool) (s : State) : State :=
  if refcount then
    let w := s.freshWord
    w.1.stopWith (.trapDone 0x09B w.2)
  else s.advance

/-- JOIN (R291). -/
def execJoin (d a : GReg) (e : Option QReg) (s : State) : Out := finishWith (touchAct 1 d e (s.g a)) touchEnd s
/-- TOUCH (R291). -/
def execTouch (d a : GReg) (e : Option QReg) (s : State) : Out := finishWith (touchAct 0 d e (s.g a)) touchEnd s
/-- TOUCHQ (R291). -/
def execTouchq (d a : GReg) (e : QReg) (s : State) : Out := finishWith (touchAct 2 d (some e) (s.g a)) touchEnd s

/-! ### Settling and counting (R293 to R295) -/

/-- An event by instruction: the handle's checks, the operand's, then the event; replayability goes first (R389). -/
def eventAct (h : Word) (ok : Bool) (release : Bool) (ev : FEvent) : Act Unit := do
  checkHandle h
  if !ok then trapFree 0x01B
  if release then releaseAt 5
  loseReplay3
  taskEvent h ev

/-- RESOLVE (R293). -/
def execResolve (a : GReg) (b : GK) (s : State) : Out := finish (eventAct (s.g a) true true (.resolve (s.gk b))) s
/-- POISON (R293). -/
def execPoison (a : GReg) (b : GK) (s : State) : Out :=
  finish (eventAct (s.g a) (decide ((s.gk b).toNat ≤ 0x17F)) true (.poison ((s.gk b).extractLsb' 0 9))) s
/-- CANCEL (R294); it may make the future terminal, and so it releases (R270). -/
def execCancel (a : GReg) (s : State) : Out := finish (eventAct (s.g a) true true .cancel) s
/-- FDUP (R295). -/
def execFdup (a : GReg) (s : State) : Out := finish (eventAct (s.g a) true false .fdup) s
/-- FDROP (R295). -/
def execFdrop (a : GReg) (s : State) : Out := finish (eventAct (s.g a) true false .fdrop) s

/-- What FSTAT writes (R292). -/
def fstatWord (f : Fut) (spilled : Bool) : Word :=
  f.refs ++ f.gen ++ BitVec.ofBool spilled ++ BitVec.ofNat 3 (futStCode f.st) ++ BitVec.ofBool f.live ++ (0 : BitVec 2) ++
    (if f.st == .poisoned || f.st == .cancelled then f.val.extractLsb' 0 9 else (0 : BitVec 9))

/-- The entry lies in a spill area. -/
def FutRef.spilled (r : FutRef) : Bool := match r.loc with | .spill _ _ => true | _ => false

/-- FSTAT (R292). -/
def fstatAct (d : GReg) (h : Word) : Act Unit := do
  let s ← get
  if h.extractLsb' 62 2 = 2 && hDev h ≠ s.deviceId then
    let v ← askRemote h 3
    if v.getLsbD 68 then trapFree 0x099
    if (stOfCode (v.extractLsb' 64 3).toNat).terminal then upd (·.acquired)
    upd (·.setG d (v.extractLsb' 128 64))
  else
    checkHandle h
    let (_, o) ← findFut h
    if o.fut.terminal then upd (·.acquired)
    upd (·.setG d (fstatWord o.fut o.spilled))

def execFstat (d a : GReg) (s : State) : Out := finish (fstatAct d (s.g a)) s

/-- SELF (R295). -/
def execSelf (d : GReg) (s : State) : Out := putG d s.me.self s

/-- SELF.DUP (R295): with SELF = 0 it writes 0 and does nothing else. -/
def execSelfDup (d : GReg) (s : State) : Out :=
  finish (do
    if s.me.self ≠ 0 then
      loseReplay3
      taskEvent s.me.self .fdup
    upd (·.setG d s.me.self)) s

end Sys2Proof.Machine
end

