-- ==== Sys2Proof/Machine/Atomic.lean ====
section
/-!
DEFINITION. Atomics, major 0x09 (R298 to R302).
-/

namespace Sys2Proof.Machine

/-- Float format of an atomic (R299). -/
def atomFmt (size : Nat) (bf : Bool) : Nat := if size = 8 then 0 else if size = 4 then 1 else if bf then 3 else 2

/-- f(old, b) of R299 with the flags it sets. -/
def atomF (op size : Nat) (bf : Bool) (old b cmp : Nat) : Nat × Fl :=
  let w := 8 * size
  match op with
  | 0 => ((old + b) % 2 ^ w, 0)
  | 1 => (if sgn w b < sgn w old then b else old, 0)
  | 2 => (if sgn w old < sgn w b then b else old, 0)
  | 3 => (Nat.min old b, 0)
  | 4 => (Nat.max old b, 0)
  | 5 => (old &&& b, 0)
  | 6 => (old ||| b, 0)
  | 7 => (old ^^^ b, 0)
  | 8 => (b, 0)
  | 9 => (if old = cmp then b else old, 0)
  | 10 => fAdd (atomFmt size bf) .rne false old b
  | 11 => fMinMax false (atomFmt size bf) false old b
  | _ => fMinMax true (atomFmt size bf) false old b

/-- The poison marker (R301). -/
def poisonMarker (size : Nat) (bf : Bool) : Word :=
  if size = 8 then 0x7FF0_0000_0000_0001 else if size = 4 then 0x7F80_0001 else if bf then 0x7F81 else 0x7C01

/-- The read half met an error: gd takes the marker, and the task traps (R301). -/
def atomPoison (d : GReg) (size : Nat) (bf : Bool) (c : Cause) (ea : Word) : Act Nat := do
  upd (·.setG d (poisonMarker size bf))
  trap c ea

/-- The old value and the new one at a place of this device (R299, R301). `new` gives what is written.
(DEDUCED, assumption 37) -/
def atomHere (d : GReg) (ea : Word) (p : Phys) (x : MX) (bf : Bool) (comm : Option CommKey) (new : Nat → Nat) : Act Nat := do
  let n := x.bytes
  let s ← get
  if s.windowBad p then
    upd (·.setG d (poisonMarker n bf))
    trapFree 0x172
  match comm with
  | some k => detTouch ea p.key n true (some k)
  | none =>
    detTouch ea p.key n false
    detTouch ea p.key n true
  let s ← get
  match s.badLine p.key n with
  | some (l, fresh) =>
    if fresh then
      set (s.findError l)
      atomPoison d n bf 0x07D ea
    else atomPoison d n bf 0x081 ea
  | none =>
    if s.lostHome p n then atomPoison d n bf 0x081 ea
    else
      let s := s.homeAccess p.line (s.nudOf x.opt) true
      let old := s.mem.read p.key n
      set ((({ s with mem := s.mem.write p.key n (new old) }.wrote p.key n).spoil ea p n).unshade 0 p.key n)
      mixColl ea n old

/-- An atomic at another device (R300, R420). -/
def atomRemote (d : GReg) (ea : Word) (p : Phys) (x : MX) (bf : Bool) (op : Nat) (b cmp : Word) : Act Nat := do
  let s ← get
  match s.myOut (some (remoteDev p)) ea x.bytes with
  | some o =>
    if o.lost then
      upd fun s => (s.dropOut o).setG d (poisonMarker x.bytes bf)
      trapFree 0x160
    else if o.reply.isSome then endRequest o 0x160 else throw .stall
  | none => remoteRequest p ea x.bytes (.atomic (BitVec.ofNat 4 op) x.size bf b cmp)

/-- A request to another device may leave, or has left: only then are a release's misses counted (R265, R275, R422). -/
def remoteFree (p : Phys) (ea : Word) (n : Nat) : Act Unit := do
  let s ← get
  if p.kind = 4 && (s.myOut (some (remoteDev p)) ea n).isNone && !s.pod.fenced.getLsbD (remoteDev p).toNat &&
    (s.pod.rmaxout.toNat ≤ s.outTo (remoteDev p) || s.strongWaits p) then throw .stall

/-- The old value at EA, with the new one written there (R299, R300). -/
def atomAccess (d : GReg) (ea : Word) (x : MX) (op : Nat) (b cmp : Nat) : Act Nat := do
  let n := x.bytes
  let bf := x.mod.getLsbD 0
  let new (old : Nat) : Nat := (atomF op n bf old b cmp).1
  if ea.toNat % n ≠ 0 then trap 0x03B ea
  if x.space = 1 || x.space = 3 then trap 0x088 ea
  if x.space = 2 then
    if x.scope = 1 then trap 0x088 ea
    checkSpace 2 ea n 1
    upd (·.loseReplay 2)
    if x.scope ≠ 0 then releaseAt x.scope
    let s ← get
    let k := s.localKey 2 ea
    if (localLines 0 k n).any s.localPoison.contains then atomPoison d n bf 0x081 ea
    else if (localLines 0 k n).any s.localLatent.contains then
      set ((localLines 0 k n).foldl (fun s l => s.findLocal l) s)
      atomPoison d n bf 0x07D ea
    else
      let old := s.cm.read k n
      set (s.writeLocal 2 ea n (new old))
      return old
  else
    let p ← translate ea .atomic
    if p.kind = 3 then trapFree 0x089
    upd (·.loseReplay 2)
    remoteFree p ea n
    if x.scope ≠ 0 && ((← get).myOut (some (remoteDev p)) ea n).isNone then releaseWrite ea p x.scope
    if p.kind = 4 then atomRemote d ea p x bf op (BitVec.ofNat 64 b) (BitVec.ofNat 64 cmp)
    else atomHere d ea p x bf (if d = 0 && x.scope = 0 then some (op, 2 * n + if bf then 1 else 0) else none) new

/-- An atomic (R299): the old value goes to gd, and the flags of a float operation to FFLAGS. -/
def atomAct (op : Nat) (d a : GReg) (b : GK) (x : MX) : Act Unit := do
  let s ← get
  let w := 8 * x.bytes
  let bv := (s.gk b).toNat % 2 ^ w
  let cmp := (s.g d).toNat % 2 ^ w
  let old ← atomAccess d (s.eaA a x) x op bv cmp
  if x.scope ≠ 0 then upd (·.acquired)
  upd fun s => (s.setG d (BitVec.ofNat 64 old)).orFlags (atomF op x.bytes (x.mod.getLsbD 0) old bv cmp).2

/-- AADD (R299). -/
def execAadd (d a : GReg) (b : GK) (x : MX) (s : State) : Out := finishMem (atomAct 0 d a b x) s

/-- AMIN (R299). -/
def execAmin (d a : GReg) (b : GK) (x : MX) (s : State) : Out := finishMem (atomAct 1 d a b x) s

/-- AMAX (R299). -/
def execAmax (d a : GReg) (b : GK) (x : MX) (s : State) : Out := finishMem (atomAct 2 d a b x) s

/-- AMINN (R299). -/
def execAminn (d a : GReg) (b : GK) (x : MX) (s : State) : Out := finishMem (atomAct 3 d a b x) s

/-- AMAXN (R299). -/
def execAmaxn (d a : GReg) (b : GK) (x : MX) (s : State) : Out := finishMem (atomAct 4 d a b x) s

/-- AAND (R299). -/
def execAand (d a : GReg) (b : GK) (x : MX) (s : State) : Out := finishMem (atomAct 5 d a b x) s

/-- AOR (R299). -/
def execAor (d a : GReg) (b : GK) (x : MX) (s : State) : Out := finishMem (atomAct 6 d a b x) s

/-- AXOR (R299). -/
def execAxor (d a : GReg) (b : GK) (x : MX) (s : State) : Out := finishMem (atomAct 7 d a b x) s

/-- ASWP (R299, R278). -/
def execAswp (d a : GReg) (b : GK) (x : MX) (s : State) : Out :=
  finishMem (do
    noDet 0x15A
    atomAct 8 d a b x) s

/-- ACAS (R299, R278): D is read before it is written. -/
def execAcas (d a : GReg) (b : GK) (x : MX) (s : State) : Out :=
  finishMem (do
    noDet 0x159
    atomAct 9 d a b x) s

/-- AFADD (R299). -/
def execAfadd (d a : GReg) (b : GK) (x : MX) (s : State) : Out := finishMem (atomAct 10 d a b x) s

/-- AFMIN (R299). -/
def execAfmin (d a : GReg) (b : GK) (x : MX) (s : State) : Out := finishMem (atomAct 11 d a b x) s

/-- AFMAX (R299). -/
def execAfmax (d a : GReg) (b : GK) (x : MX) (s : State) : Out := finishMem (atomAct 12 d a b x) s

end Sys2Proof.Machine
end

