-- ==== Sys2Proof/Machine/Reduce.lean ====
section
/-!
DEFINITION. Reductions at memory, major 0x0A (R303 to R305), and FENCE, major 0x0B (R271, R306).
-/

namespace Sys2Proof.Machine

/-! ### U lines (R205, R206, R304) -/

/-- A U line is stamped as any line of its L1D (R212). -/
def stampU (cclk : BitVec 32) (n : Nud) (u : ULine) : ULine :=
  if nudStream n.code then { u with streaming := true }
  else { u with due := cclk + BitVec.ofNat 32 (nudDistance n.code), streaming := false, stale := false }

/-- A new U line for the active core: a held copy keeps its way, M data is written back first, and the other copies go (R205, R207).
`none` where staged lines hold every way of the set. (DEDUCED, assumption 75) -/
def State.newU (s : State) (line : Nat) (op : RedOp) (size : Nat) (n : Nud) : State × Option ULine :=
  let c := s.core.id
  let u (way : Nat) : ULine := { line := line, op := op, size := size, mask := 0, data := BitVec.ofNat 512 (redFill op size), way := way }
  let s := s.dropOthers (some c) line
  match s.core.l1d.find? fun l => l.line == line with
  | some l =>
    let s := s.onCore fun k => { k with l1d := k.l1d.filter fun x => x.line != line }
    let s := if l.st = .m then s.homeBack line { n with code := l.code, carried := 0 } else s
    (s, some (u l.way))
  | none =>
    let m := (s.dirEnter line).makeWay c line
    (m.1, m.2.map u)

/-- A contribution at the home (R304): into a poisoned line nothing is added, and one record names the core. -/
def State.redHome (s : State) (p : Phys) (op : RedOp) (size : Nat) (b : Nat) (n : Nud) : State :=
  let s := s.homeAccess p.line n true
  let s := if s.latent.contains p.line then s.findError p.line else s
  if s.poison.contains p.line then
    s.report { coreRecord 0x10 3 s.core.id with address := BitVec.ofNat 64 (linePa p.line * 64), detail := 2, asid := s.me.asid, tid := s.me.tid }
  else { s with mem := s.mem.write p.key size (redApply op size (s.mem.read p.key size) b) }.wrote p.key size

/-- A contribution to the core's U line for a place (R205, R304). -/
def State.redU (s : State) (p : Phys) (op : RedOp) (size : Nat) (b : Nat) (n : Nud) : State :=
  let off := p.key % 64
  match s.core.ulines.find? fun u => u.live && u.line == p.line with
  | some u =>
    if u.op = op && u.size = size then
      s.onCore fun k => { k with ulines := k.ulines.map fun x => if x.live && x.line == p.line then stampU k.cclk n (x.add off b) else x }
    else
      let s := s.onCore fun k => k.partial_ p.line
      match s.newU p.line op size n with
      | (s, some u) => s.onCore fun k => { k with ulines := k.ulines.concat (stampU k.cclk n (u.add off b)) }
      | (s, none) => s.redHome p op size b n
  | none =>
    match s.newU p.line op size n with
    | (s, some u) => s.onCore fun k => { k with ulines := k.ulines.concat (stampU k.cclk n (u.add off b)) }
    | (s, none) => s.redHome p op size b n

/-- The operator of a reduction, in the codes of the atomics of R299. -/
def redOpCode : RedOp → Nat
  | .add => 0
  | .min u => if u then 3 else 1
  | .max u => if u then 4 else 2
  | .or => 6
  | .fadd _ => 10

/-- Operator and format of a commuting update (R280). (DEDUCED, assumption 58) -/
def redKey (op : RedOp) (size : Nat) : CommKey := (redOpCode op, 2 * size + match op with | .fadd true => 1 | _ => 0)

/-- A page that takes reductions (R303). -/
def redPage (ea : Word) (acc : Access) : Act Phys := do
  let p ← translate ea acc
  if p.kind = 3 || p.kind = 4 then trapFree 0x089
  upd (·.loseReplay 2)
  if (← get).windowBad p then trapFree 0x172
  return p

/-- Bytes of an entry of a quantum log (DESIGN CHOICE, assumption 32: the manual gives no layout). -/
def redLogBytes : Nat := 32

/-- A contribution of a task with DET set enters its core's quantum log in the partition spill area; where that is full it waits for room
(R304, R423). -/
def redLog (p : Phys) (op : RedOp) (size bv : Nat) : Act Unit := do
  let s ← get
  match s.takeArea s.me.pid redLogBytes with
  | none => throw .stall
  | some (t, r) =>
    set ((t.fillRoom (clusterOf s.core.id) s.me.pid r redLogBytes).onCore fun c =>
      { c with qlog := c.qlog.concat ({ key := p.key, op := op, size := size, b := BitVec.ofNat 64 bv, room := r }) })

/-- A reduction (R303, R304). A task with DET set logs it for the end of its quantum. -/
def redAct (op : RedOp) (a : GReg) (b : GK) (x : MX) : Act Unit := do
  let s ← get
  let ea := s.eaA a x
  let n := x.bytes
  if ea.toNat % n ≠ 0 then trap 0x03B ea
  let p ← redPage ea .atomic
  detTouch ea p.key n true (some (redKey op n))
  let bv := (s.gk b).toNat % 2 ^ (8 * n)
  if s.me.det then redLog p op n bv
  else upd fun s => if x.hint.l1p = 2 then s.redU p op n bv (s.nudOf x.opt) else s.redHome p op n bv (s.nudOf x.opt)
  upd (·.spoil ea p n)

/-- RDADD (R303). -/
def execRdadd (a : GReg) (b : GK) (x : MX) (s : State) : Out := finishMem (redAct .add a b x) s

/-- RDMIN (R303): MOD[0] is U. -/
def execRdmin (a : GReg) (b : GK) (x : MX) (s : State) : Out := finishMem (redAct (.min (x.mod.getLsbD 0)) a b x) s

/-- RDMAX (R303). -/
def execRdmax (a : GReg) (b : GK) (x : MX) (s : State) : Out := finishMem (redAct (.max (x.mod.getLsbD 0)) a b x) s

/-- RDOR (R303). -/
def execRdor (a : GReg) (b : GK) (x : MX) (s : State) : Out := finishMem (redAct .or a b x) s

/-- RDFADD (R303): MOD[0] is BF. -/
def execRdfadd (a : GReg) (b : GK) (x : MX) (s : State) : Out := finishMem (redAct (.fadd (x.mod.getLsbD 0)) a b x) s

/-- RDFLUSH (R305): the home combines, and errors trap as for a load. -/
def rdflushAct (a : GReg) (x : MX) : Act Unit := do
  let ea := (← get).eaA a x
  let p ← redPage ea .read
  detTouch ea p.key 1 false
  upd fun s => s.homeAccess p.line (s.nudOf x.opt) false
  checkPoison ea p 1 0x07B 0x080

def execRdflush (a : GReg) (x : MX) (s : State) : Out := finishMem (rdflushAct a x) s

/-! ### FENCE (R271, R306) -/

/-- Kinds: 0 acquire, 1 release, 2 full, 3 ack. A release kind waits for matrix stores; at POD scope, for the responses to the task's remote
stores; and ack at any scope waits for all of them, those to unordered pages included (R198, R271, R421). -/
def fenceAct (kind scope : BitVec 6) : Act Unit := do
  if 3 < kind.toNat || scope.toNat < 1 || 5 < scope.toNat then trapFree 0x01B
  if kind ≠ 0 then releaseAt (scope.setWidth 3)
  if kind = 3 && (← get).remoteOpen then throw .stall
  if kind ≠ 1 then upd (·.acquired)

/-- FENCE (R306). -/
def execFence (kind scope : BitVec 6) (s : State) : Out := finish (fenceAct kind scope) s

end Sys2Proof.Machine
end

