-- ==== Sys2Proof/Machine/Counter.lean ====
section
/-!
DEFINITION. Counters, major 0x08 (R307 to R311).
-/

namespace Sys2Proof.Machine

/-- A negative constant is refused (R307). -/
def nonNegative (b : GK) : Act Unit := do
  match b with
  | .k c => if c.msb then trapFree 0x01B
  | .g _ => return ()

/-- The place of a counter (R307). -/
def counterAt (ea : Word) (acc : Access) (remote : Bool) : Act Phys := do
  if ea.toNat % 8 ≠ 0 then trap 0x03B ea
  let p ← translate ea acc
  if p.kind = 3 || (p.kind = 4 && !remote) then trapFree 0x091
  if (← get).windowBad p then trapFree 0x172
  return p

/-- The scope of a counter instruction: 000 is DEVICE (R307). -/
def ctrScope (x : MX) : BitVec 3 := if x.scope = 0 then 4 else x.scope

/-! ### CTRADD (R308) -/

/-- Adds of DET tasks to one counter are commuting updates (R279, R280; DEDUCED, assumption 58). -/
def ctrKey : CommKey := (13, 16)

/-- The answer is whether the sum passed 2^64 − 1. (DEDUCED, assumption 59) -/
def ctraddAct (a : GReg) (b : GK) (x : MX) : Act Bool := do
  nonNegative b
  let s ← get
  let ea := s.eaA a x
  let n := (s.gk b).toNat
  let p ← counterAt ea .atomic true
  upd (·.loseReplay 2)
  releaseAt (if p.kind = 4 then 5 else ctrScope x)
  if p.kind = 4 then
    let old ← remoteRequest p ea 8 (.atomic ctrOp 3 false (BitVec.ofNat 64 n) 0)
    return decide (2 ^ 64 ≤ old + n)
  else
    detTouch ea p.key 8 true (some ctrKey)
    checkPoison ea p 8 0x07D 0x081 (some ea)
    let s ← get
    let r := (s.sliceRequest p.line (s.nudOf x.opt) true).ctrAddAt p n
    set ((r.1.spoil ea p 8).unshade 0 p.key 8)
    return r.2

/-- CTRADD completes, and traps after it where the sum was too large (R308). -/
def ctraddEnd (ea : Word) (overflow : Bool) (s : State) : State :=
  if overflow then s.countMem.stopWith (.trapDone 0x090 ea) else s.countMem.advance

/-- CTRADD (R308). -/
def execCtradd (a : GReg) (b : GK) (x : MX) (s : State) : Out := finishWith (ctraddAct a b x) (ctraddEnd (s.eaA a x)) s

/-! ### Observation (R309, R279) -/

/-- The value of a counter as the running task observes it. -/
def ctrValue (ea : Word) (p : Phys) (o : Opt) : Act Word := do
  checkPoison ea p 8 0x07B 0x080
  upd fun s => s.homeAccess p.line (s.nudOf o) false
  let s ← get
  return BitVec.ofNat 64 (← mixColl ea 8 (s.detView.mem.read p.key 8))

/-- CTRREAD (R309). -/
def execCtrread (d a : GReg) (x : MX) (s : State) : Out :=
  finishMem (do
    let ea := s.eaA a x
    let p ← counterAt ea .read false
    let v ← ctrValue ea p x.opt
    upd (·.acquired)
    upd (·.setG d v)) s

/-- CTRWAITQ (R309). -/
def execCtrwaitq (d : QReg) (a : GReg) (b : GK) (x : MX) (s : State) : Out :=
  finishMem (do
    nonNegative b
    let ea := s.eaA a x
    let p ← counterAt ea .read false
    let v ← ctrValue ea p x.opt
    if (s.gk b).toNat ≤ v.toNat then upd (·.acquired)
    upd (·.setQ d (truth (decide ((s.gk b).toNat ≤ v.toNat))))) s

/-! ### Watch entries (R310) -/

/-- The 128 bytes of an entry of the watch area. -/
def watchBytes (w : Watch) : Nat :=
  let kind := w.key / 2 ^ 52
  let pa := w.key % 2 ^ 52
  let body : Nat × Word × Word × Nat := match w.act with
    | .wait t => (0, t.setWidth 64, 0, 0)
    | .arm asid target recva rec =>
      (1, (0 : BitVec 32) ++ asid ++ (0 : BitVec 3) ++ target ++ (0 : BitVec 5), recva, wordsNat rec.toList)
  wordsNat [BitVec.ofNat 64 (2 ^ 63 + 2 ^ 62 * body.1 + 2 ^ 59 * kind + pa), w.t, body.2.1, w.arrival, body.2.2.1, 0, 0, 0] + 2 ^ 512 * body.2.2.2

/-- Indexes of the watch area of a partition that are in use. -/
def State.watchUsed (s : State) (pid : BitVec 2) : List Nat :=
  s.slices.flatMap fun sl => (sl.marks.filter fun m => m.2.pid == pid).map (·.1)

/-- An entry enters the table of the counter's home, else the lowest free entry of the watch area (R310, R430). -/
def enterWatch (key : Nat) (t : Word) (act : WatchAct) : Act Unit := do
  let s ← get
  let id := s.homeSlice (key / 64)
  let sl := s.getSlice id
  let w : Watch := { key := key, t := t, act := act, arrival := sl.arrivals, pid := s.me.pid }
  let sl := { sl with arrivals := sl.arrivals + 1 }
  if sl.watch.length < 256 then set (s.putSlice { sl with watch := sl.watch.concat w })
  else
    let r := (s.part s.me.pid).regs.watcharea
    let used := s.watchUsed s.me.pid
    let i := ((List.range (used.length + 1)).find? fun i => !used.contains i).getD used.length
    if areaBase r = 0 || 2 ^ areaLog r ≤ i then throw (.park 0x094 0)
    match s.sysWrite s.me.pid (s.watchVa s.me.pid i) 128 (watchBytes w) with
    | .error c => if faultCause c then throw (.fault c (s.watchVa s.me.pid i) .write 7) else trap c (s.watchVa s.me.pid i)
    | .ok s => set (s.putSlice { sl with marks := sl.marks.concat (i, w) })

/-! ### CTRWAIT (R309) -/

/-- The task's WAIT entry for a threshold stands already: it waited there, and a role change moved it (R82). -/
def State.waitsAt (s : State) (key : Nat) (t : Word) : Bool :=
  s.slices.any fun sl => (sl.watch ++ sl.marks.map Prod.snd).any fun w => w.key == key && w.t == t && w.act == .wait s.me.tid

/-- The answer is the value where it lies above the threshold. A wait that the home already satisfies fires at once. -/
def ctrwaitAct (d a : GReg) (b : GK) (x : MX) : Act (Option Word) := do
  nonNegative b
  let s ← get
  let ea := s.eaA a x
  let t := s.gk b
  let p ← counterAt ea .read false
  let v ← ctrValue ea p x.opt
  if v.toNat < t.toNat then
    if !s.waitsAt p.key t then enterWatch p.key t (.wait s.me.tid)
    upd (·.evalWatch p.key)
    throw (.park 0x095 ea)
  else
    upd (·.acquired)
    upd (·.setG d v)
    return if x.mod.getLsbD 0 && t.toNat < v.toNat then some v else none

/-- CTRWAIT completes, and with EX traps after it where it observed more than it waited for. -/
def ctrwaitEnd (above : Option Word) (s : State) : State :=
  match above with
  | some v => s.countMem.stopWith (.trapDone 0x092 v)
  | none => s.countMem.advance

/-- CTRWAIT (R309). -/
def execCtrwait (d a : GReg) (b : GK) (x : MX) (s : State) : Out := finishWith (ctrwaitAct d a b x) ctrwaitEnd s

/-! ### CTRARM and CTRDISARM (R311) -/

/-- A target cluster of the task's partition on a COMPUTE layer, at its place in a core id (R311). -/
def State.targetOk (s : State) (w : Word) : Bool :=
  w.extractLsb' 13 51 == 0 && w.extractLsb' 0 5 == 0 && s.clusterInPart s.me.pid (w.extractLsb' 5 8) &&
    s.role (layerOf (w.extractLsb' 5 8)) == .compute

/-- CTRARM (R311). -/
def ctrarmAct (d a : GReg) (b : GK) (x : MX) : Act Unit := do
  if d.toNat = 0 || 62 < d.toNat then trapFree 0x01B
  nonNegative b
  let s ← get
  let ea := s.eaA a x
  let va := s.g d
  if va.toNat % 64 ≠ 0 then trapFree 0x0B3
  let r ← readV va 64
  let rec8 := recordOf fun i => BitVec.ofNat 64 (r / 2 ^ (64 * i))
  match recordCause rec8 with
  | some c => trapFree c
  | none => pure ()
  let target := s.g (d + 1)
  if !s.targetOk target then trapFree 0x093
  let p ← counterAt ea .read false
  upd (·.loseReplay 2)
  enterWatch p.key (s.gk b) (.arm s.me.asid (target.extractLsb' 5 8) va (rec8.set 7 (if s.me.det then rec8[7] ||| 0x10000 else rec8[7])))
  upd fun s => (s.combine p.line).evalWatch p.key

def execCtrarm (d a : GReg) (b : GK) (x : MX) (s : State) : Out := finishMem (ctrarmAct d a b x) s

/-- An entry of the watch area goes; what translation refuses stops the instruction as it stops one that makes an entry (R430; DEDUCED,
assumption 90). -/
def clearWatch (pid : BitVec 2) (i : Nat) : Act Unit := do
  let s ← get
  match s.sysWrite pid (s.watchVa pid i) 128 0 with
  | .ok s => set s
  | .error c => if faultCause c then throw (.fault c (s.watchVa pid i) .write 7) else trap c (s.watchVa pid i)

/-- An ARM entry of the task's address space that names a record. -/
def Watch.armedAs (w : Watch) (key : Nat) (asid : BitVec 16) (va : Word) : Bool :=
  w.key == key && match w.act with | .arm a _ v _ => a == asid && v == va | .wait _ => false

/-- CTRDISARM (R311): the entries that it removes are counted; a freed entry lets waiting instructions try again (R310). -/
def ctrdisarmAct (d a : GReg) (x : MX) : Act Unit := do
  if d = 0 then trapFree 0x01B
  let s ← get
  let ea := s.eaA a x
  let va := s.g d
  let p ← counterAt ea .read false
  upd (·.loseReplay 2)
  let s ← get
  let sl := s.getSlice (s.homeSlice p.line)
  let hit (w : Watch) : Bool := w.pid == s.me.pid && w.armedAs p.key s.me.asid va
  let tab := sl.watch.filter hit
  let area := sl.marks.filter fun m => hit m.2
  for m in area do clearWatch m.2.pid m.1
  let s ← get
  let s := s.onSlice sl.id fun sl => { sl with watch := sl.watch.filter fun w => !hit w, marks := sl.marks.filter fun m => !hit m.2 }
  let s := s.setG d (BitVec.ofNat 64 (tab.length + area.length))
  set (if tab.isEmpty && area.isEmpty then s else s.wakeWhere fun t => t.parkCause == 0x094 && t.pid == s.me.pid)

def execCtrdisarm (d a : GReg) (x : MX) (s : State) : Out := finishMem (ctrdisarmAct d a x) s

end Sys2Proof.Machine
end

