-- ==== Sys2Proof/Machine/Message.lean ====
section
/-!
DEFINITION. Queues and messages, major 0x0C (R312 to R319), and the arrival of a message at a cluster.
-/

namespace Sys2Proof.Machine

/-! ### Rings (R312 to R314) -/

/-- A ring control block, as read. -/
structure Rcb where
  base : Word
  head : Nat
  tail : Nat
  log : Nat
  esize : Nat
  msixen : Bool
  hostvis : Bool
  vector : BitVec 12
  ok : Bool
  deriving DecidableEq, Repr

/-- The fields of 64 bytes; `ok` where reserved fields are zero and LOG2N, ESIZE and VECTOR lie in their ranges (R312). -/
def rcbOf (x : Nat) : Rcb :=
  { base := BitVec.ofNat 64 x, head := fld x 64 64, tail := fld x 128 64, log := fld x 192 5, esize := fld x 200 8, msixen := fld x 209 1 == 1
    hostvis := fld x 208 1 == 1, vector := BitVec.ofNat 12 (fld x 224 11)
    ok := fld x 0 6 == 0 && fld x 192 5 ≤ 20 && fld x 197 3 == 0 && [8, 16, 32, 64].contains (fld x 200 8) && fld x 210 6 == 0 &&
      fld x 216 8 == 0 && fld x 235 5 == 0 && fld x 240 272 == 0 }

/-- Entries in use. -/
def Rcb.used (r : Rcb) : Nat := (r.tail + 2 ^ 64 - r.head) % 2 ^ 64

/-- VA of entry i. -/
def Rcb.entry (r : Rcb) (i : Nat) : Word := r.base + BitVec.ofNat 64 (r.esize * (i % 2 ^ r.log))

/-- A page of a ring (R312, R313): a place of this device of kind HBM, layer memory or slice scratch. -/
def ringPage (va : Word) (acc : Access) (ea : Word) : Act Phys := do
  let p ← translate va acc
  if p.kind = 3 || p.kind = 4 then trap 0x0C3 ea
  if (← get).windowBad p then trapFree 0x172
  return p

/-- The register class matches the entry size (R313). -/
def classMatches (b : VG) (esize : Nat) : Bool := match b with | .g _ => esize == 8 | .v _ => esize != 8

/-- The control block of a QPUT or QGET, with the checks of R313; replayability goes before the access (R302). (DEDUCED, assumption 66) -/
def readRcb (ea : Word) (b : VG) (x : MX) : Act (Phys × Rcb) := do
  if ea.toNat % 64 ≠ 0 then trap 0x0C0 ea
  let p ← ringPage ea .atomic ea
  upd (·.loseReplay 2)
  checkPoison ea p 64 0x07D 0x081 (some ea)
  upd fun s => s.combine p.line
  let r := rcbOf ((← get).mem.read p.key 64)
  if !r.ok then trap 0x0C2 ea
  if x.bytes ≠ r.esize || !classMatches b r.esize then trap 0x0C1 ea
  if 2 ^ r.log < r.used then trap 0x0C2 ea
  return (p, r)

/-- A write of the ring by QPUT or QGET; to bytes that an outstanding collective names it leaves them undefined (R276). -/
def State.ringWrite (s : State) (va : Word) (p : Phys) (off n v : Nat) (o : Opt) : State :=
  let s := s.homeAccess p.line (s.nudOf o) true
  ({ s with mem := s.mem.write (p.key + off) n v }.wrote (p.key + off) n).spoil (va + BitVec.ofNat 64 off) { p with pa := p.pa + off } n

/-- QPUT (R313, R314). -/
def qputAct (d : QReg) (a : GReg) (b : VG) (x : MX) : Act Unit := do
  let s ← get
  let ea := s.eaA a x
  let (p, r) ← readRcb ea b x
  detTouch ea p.key 64 true
  if r.used = 2 ^ r.log then upd (·.setQ d 0)
  else
    let e ← ringPage (r.entry r.tail) .write ea
    detTouch (r.entry r.tail) e.key r.esize true
    releaseAt 4
    upd fun s =>
      let v : Nat := match b with | .g g => (s.g g).toNat | .v v => (s.v v).toNat
      let s := s.ringWrite (r.entry r.tail) e 0 r.esize v x.opt
      let s := s.ringWrite ea p 16 8 (r.tail + 1) x.opt
      let s := if r.hostvis && r.msixen && r.used = 0 then s.raise r.vector else s
      s.setQ d (truth true)

def execQput (d : QReg) (a : GReg) (b : VG) (x : MX) (s : State) : Out := finishMem (qputAct d a b x) s

/-- QGET (R313): with a v register the bytes above the entry are zero. -/
def qgetAct (d : QReg) (a : GReg) (b : VG) (x : MX) : Act Unit := do
  let s ← get
  let ea := s.eaA a x
  let (p, r) ← readRcb ea b x
  detTouch ea p.key 64 true
  if r.used = 0 then upd (·.setQ d 0)
  else
    let e ← ringPage (r.entry r.head) .read ea
    detTouch (r.entry r.head) e.key r.esize false
    checkPoison (r.entry r.head) e r.esize 0x07D 0x081 (some ea)
    upd fun s => s.homeAccess e.line (s.nudOf x.opt) false
    let v ← mixColl (r.entry r.head) r.esize ((← get).mem.read e.key r.esize)
    upd fun s =>
      let s := (s.ringWrite ea p 8 8 (r.head + 1) x.opt).acquired
      let s := match b with | .g g => s.setG g (BitVec.ofNat 64 v) | .v w => s.setV w (BitVec.ofNat 512 v)
      s.setQ d (truth true)

def execQget (d : QReg) (a : GReg) (b : VG) (x : MX) (s : State) : Out := finishMem (qgetAct d a b x) s

/-! ### Arrival (R39, R317) -/

/-- A message reaches its cluster (R317). -/
def State.arrive (s : State) (cl : BitVec 8) (m : Message) : State :=
  if (rd (s.getCluster cl).classTab m.cls).enable then ((s.onCluster cl fun c => { c with msgs := c.msgs.concat m }).fitMsgs cl).startHandlers cl
  else s.reportRecord (s.clusterPid cl) {} cl 0x0CC 0 0 m.id

/-- Messages for a cluster that its router does not accept yet, in order (R65, R317). -/
def State.msgsHeld (s : State) (cl : BitVec 8) : List Message :=
  s.waits.filterMap fun e => match e with | .messageArrive c m => if c = cl then some m else none | _ => none

/-- The arrival of a message (R317). At a gated cluster it waits for the wake (R65), and where no system frame is free for its class queue,
or messages before it wait, the router does not accept it. -/
def execMessageArrive (s : State) : Out :=
  match s.ev with
  | some (.messageArrive cl m) =>
    let e : Ev := .messageArrive cl m
    let first : Bool := match s.msgsHeld cl with | [] => true | x :: _ => x == m
    if !(s.getCluster cl).awake then .next ((s.wakeCluster cl).wait e)
    else if !first || ((rd (s.getCluster cl).classTab m.cls).enable && !s.msgRoom cl m) then .next (s.wait e)
    else .next ((s.unwait e).arrive cl m)
  | _ => .next s

/-! ### MSEND and MSENDV (R315, R316, R318) -/

/-- The checks of R316 on a destination. -/
def State.destOk (s : State) (w : Word) : Bool :=
  let dev : BitVec 10 := w.extractLsb' 16 10
  let cl : BitVec 8 := w.extractLsb' 5 8
  w.extractLsb' 26 38 == 0 && w.extractLsb' 13 3 == 0 && w.extractLsb' 0 5 == 0 && (cl.extractLsb' 0 6).toNat < 48 &&
    if dev == s.deviceId then s.role (layerOf cl) == .compute && s.clusterInPart s.me.pid cl else s.reachable dev

/-- A message leaves, or a handler task buffers it (R316, R318). While the router of a cluster of this device accepts none, its senders
stall (R317). -/
def sendAct (d : GReg) (dest : Word) (cls : BitVec 4) (flits : List (BitVec 512)) : Act Unit := do
  if cls = 15 then trapFree 0x0CB
  let s ← get
  if (s.part s.me.pid).regs.maxmsg.toNat < 1 + flits.length then trapFree 0x0CA
  if !s.destOk dest then trapFree 0x0C9
  if !(rd (s.getCluster (clusterOf s.core.id)).classTab cls).enable then trapFree 0x0CC
  if s.me.isHandler && 8 ≤ s.me.sends.length then trapFree 0x0D1
  if !s.me.isHandler && dest.extractLsb' 16 10 = s.deviceId && !(s.msgsHeld (dest.extractLsb' 5 8)).isEmpty then throw .stall
  loseReplay3
  if !s.me.isHandler then releaseAt (if dest.extractLsb' 16 10 = s.deviceId then 4 else 5)
  let id ← nextMsgId
  let s ← get
  let m : Message := { id := id, srcDev := s.deviceId, srcCore := s.core.id, cls := cls, flits := BitVec.ofNat 3 (1 + flits.length), payload := flits }
  let s := if s.me.isHandler then s.onMe fun t => { t with sends := t.sends.concat { dest := dest, msg := m } }
    else if dest.extractLsb' 16 10 = s.deviceId then s.push (.messageArrive (dest.extractLsb' 5 8) m)
    else { s with fabricOut := s.fabricOut.concat (dest.extractLsb' 16 10, .message (dest.extractLsb' 5 8) m) }
  set (s.setG d (id.setWidth 64))

/-- MSEND (R315, R316): n doublewords from g(B) on. -/
def execMsend (d a b : GReg) (cls n : BitVec 4) (s : State) : Out :=
  finish (do
    noDet 0x15B
    if (n = 0 && b ≠ 0) || (n ≠ 0 && 64 < b.toNat + n.toNat) then trapFree 0x01B
    let ws := (List.range n.toNat).map fun i => s.g (b + BitVec.ofNat 6 i)
    sendAct d (s.g a) cls (if n = 0 then [] else [BitVec.ofNat 512 (wordsNat ws)])) s

/-- MSENDV (R315, R316): N flits from v(B) on. -/
def execMsendv (d a : GReg) (b : VReg) (cls n : BitVec 4) (s : State) : Out :=
  finish (do
    noDet 0x15B
    if 32 < b.toNat + n.toNat then trapFree 0x01B
    sendAct d (s.g a) cls ((List.range n.toNat).map fun i => s.v (b + BitVec.ofNat 5 i))) s

/-! ### Masks (R317) -/

/-- MMASK (R317). -/
def execMmask (m : BitVec 16) (s : State) : Out :=
  finish (do
    noDet 0x15B
    upd fun s => s.onCluster (clusterOf s.core.id) fun c => { c with live := c.live ||| m }) s

/-- MUNMASK (R317): queued messages of the classes start handlers. -/
def execMunmask (m : BitVec 16) (s : State) : Out :=
  finish (do
    noDet 0x15B
    upd fun s => (s.onCluster (clusterOf s.core.id) fun c => { c with live := c.live &&& ~~~m }).startHandlers (clusterOf s.core.id)) s

/-! ### MARG and MID (R319) -/

/-- The message of the running handler task. -/
def myMessage : Act Message := do
  let s ← get
  match s.me.msg with
  | some m => if s.me.isHandler then return m else trap 0x0D0 s.pc
  | none => trap 0x0D0 s.pc

/-- Payload flit i; flits that the message lacks read 0. -/
def flitOf (m : Message) (i : Nat) : BitVec 512 := m.payload.getD i 0

/-- MARG (R319). -/
def execMarg (d : VG) (b : GK) (s : State) : Out :=
  finish (do
    let m ← myMessage
    let i := (s.gk b).toNat
    match d with
    | .g r =>
      if 23 < i then trapFree 0x01B
      upd (·.setG r ((flitOf m (i / 8)).extractLsb' (64 * (i % 8)) 64))
    | .v r =>
      if 2 < i then trapFree 0x01B
      upd (·.setV r (flitOf m i))) s

/-- MID (R319). -/
def execMid (d : GReg) (s : State) : Out :=
  finish (do
    let m ← myMessage
    upd (·.setG d (m.id.setWidth 64))) s

end Sys2Proof.Machine
end

