-- ==== Sys2Proof/Machine/Capsule.lean ====
section
/-!
DEFINITION. Capsules, major 0x0D (R325 to R340): entry, adoption, commits, delivery and the displaced path.
-/

namespace Sys2Proof.Machine

/-! ### The block (R325 to R327) -/

/-- A capsule block as read. -/
structure Block where
  lock : Word
  stepw : Word
  ckpt : List Word
  code : Word
  foot : Word
  adoptw : Word
  deriving DecidableEq, Repr

def Memory.word (m : Memory) (a : Nat) : Word := BitVec.ofNat 64 (m.read a 8)

/-- The block at a physical place. -/
def blockAt (m : Memory) (k : Nat) : Block :=
  { lock := m.word k, stepw := m.word (k + 8), ckpt := (List.range 8).map fun i => m.word (k + 16 + 8 * i)
    code := m.word (k + 80), foot := m.word (k + 88), adoptw := m.word (k + 120) }

/-- STATE of a lock word: 0 FREE, 1 HELD, 2 ADOPTED, 3 DONE. -/
def lockState (w : Word) : Nat := w.toNat % 4
def lockOwner (w : Word) : BitVec 32 := w.extractLsb' 32 32
def stepOf (w : Word) : Nat := w.toNat % 128
def rofsOf (w : Word) : Nat := w.toNat / 2 ^ 32 % 65536
def adopterOf (w : Word) : BitVec 32 := w.extractLsb' 0 32
def adoptAsid (w : Word) : BitVec 16 := w.extractLsb' 48 16

/-- Reserved fields of R326 and R327 are zero, and CODE is a multiple of 4. -/
def Block.formOk (b : Block) : Bool :=
  b.code.extractLsb' 0 2 == 0 && b.lock &&& 0x0000_0000_FFCF_E018 == 0 && b.stepw &&& 0xFFFF_0000_FFFF_FF80 == 0 && !b.adoptw.getLsbD 47

/-- FOOT has at most 8 bits, none of them for the block's own lines (R325). -/
def footOk (foot ea : Word) : Bool :=
  let n := ea.toNat % 4096 / 64
  popc64 foot ≤ 8 && !foot.getLsbD n && !foot.getLsbD (n + 1)

/-- A lock word (R326). -/
def lockWord (tid : BitVec 32) (pid : BitVec 2) (cl : BitVec 8) (st : BitVec 2) : Word :=
  tid ++ (0 : BitVec 10) ++ pid ++ (0 : BitVec 7) ++ cl ++ (0 : BitVec 3) ++ st

/-- A step word (R327). -/
def stepWord (rofs step : Nat) : Word := (0 : BitVec 16) ++ BitVec.ofNat 16 rofs ++ BitVec.ofNat 32 step

/-- An adoption word (R327). -/
def adoptWord (asid : BitVec 16) (cl : BitVec 8) (from_ : Nat) (tid : BitVec 32) : Word :=
  asid ++ (0 : BitVec 1) ++ cl ++ BitVec.ofNat 7 from_ ++ tid

/-- g56 to g63 of the running task. -/
def State.capRegs (s : State) : List Word := (List.range 8).map fun i => s.g (BitVec.ofNat 6 (56 + i))

/-- g56 to g63 take values. -/
def State.setCapRegs (s : State) (ws : List Word) : State :=
  (List.range 8).foldl (fun s i => s.setG (BitVec.ofNat 6 (56 + i)) (ws.getD i 0)) s

/-- q1 to q7 are 0 at the start of a step (R329). -/
def State.clearPreds (s : State) : State := s.onMe fun t => { t with q := Vector.replicate 8 0 }

/-- A word of the block at its home. -/
def Memory.putWord (m : Memory) (a : Nat) (w : Word) : Memory := m.write a 8 w.toNat

/-- The home's access for an event on the block. -/
def State.blockAccess (s : State) (k : Nat) : State := (s.homeAccess (k / 64) (s.nudOf {}) true).homeAccess (k / 64 + 1) (s.nudOf {}) true

/-! ### Descheduling (R332) -/

/-- How long a task has been descheduled, as the cluster that its block names tells it, in cycles of that cluster's layer clock; `none` while
it runs. A task that the cluster does not hold counts without limit. -/
def State.descheduled (s : State) (t : BitVec 32 × BitVec 8) : Option Nat :=
  match (s.findTask t.1).filter fun x => x.cl == t.2 with
  | none => some (2 ^ 64)
  | some x =>
    if x.st == .running && s.allCores.any (fun c => c.running == t.1 && c.awake && !c.halted) then none
    else some (if s.slow.getLsbD (layerOf x.cl).toNat then (s.clock - x.desched) * 3 / 4 else s.clock - x.desched)

/-- The task has been descheduled for ADOPTDLY of its partition's entrants. -/
def State.adoptable (s : State) (pid : BitVec 2) (t : BitVec 32 × BitVec 8) : Bool :=
  match s.descheduled t with | some n => (s.part pid).regs.adoptdly.toNat ≤ n | none => false

/-- The task that an entrant of a block looks at, with its cluster: the holder, or the adopter of an ADOPTED lock. -/
def Block.watched (b : Block) : BitVec 32 × BitVec 8 :=
  if lockState b.lock = 1 then (lockOwner b.lock, b.lock.extractLsb' 5 8) else (adopterOf b.adoptw, b.adoptw.extractLsb' 39 8)

/-- The running task waits on a lock: WAIT is set, which wakes nobody, and it parks (R331, R332). -/
def State.waitLock (s : State) (k : Nat) (ea at_ : Word) : State :=
  let s := { s with mem := s.mem.set k (s.mem.get k ||| 4), capWaits := (s.capWaits.filter (· != (k, s.me.tid))).concat (k, s.me.tid) }
  s.parkMe 0x0E6 ea at_

/-! ### CAPENTER (R331, R334) -/

/-- The page of a block: strong, of kind HBM or layer memory (R325). -/
def blockPage (ea : Word) : Act Phys := do
  let p ← translate ea .atomic
  if p.ord ≠ 1 || !(p.kind = 0 || p.kind = 1) then trapFree 0x0E3
  if (← get).windowBad p then trapFree 0x172
  return p

/-- Takes a FREE or DONE lock. CAPENTER itself does not count in the first step (R328). (DEDUCED, assumption 73) -/
def State.capTake (s : State) (k : Nat) (ea : Word) (b : Block) : State :=
  let s := s.blockAccess k
  let m := ((s.mem.putWord k (lockWord s.me.tid s.me.pid (clusterOf s.core.id) 1)).putWord (k + 8) 0).putWord (k + 120) (adoptWord s.me.asid 0 0 0)
  let m := (List.range 8).foldl (fun m i => m.putWord (k + 16 + 8 * i) (s.capRegs.getD i 0)) m
  let s := { s with mem := m }.wrote k 128
  let back := s.pc + 12
  ((s.onMe fun t => { t with ret := {} }).clearPreds.countMem.goTo b.code).onMe fun t =>
    { t with capsule := true, cap := { block := ea, foot := b.foot, ret := back } }

/-- Adopts the capsule of a descheduled task (R334). -/
def State.capAdopt (s : State) (k : Nat) (ea : Word) (b : Block) : State :=
  let s := s.blockAccess k
  let n := stepOf b.stepw
  let m := s.mem.putWord k ((b.lock &&& ~~~(0x7 : Word)) ||| 2)
  let m := m.putWord (k + 120) (adoptWord (adoptAsid b.adoptw) (clusterOf s.core.id) n s.me.tid)
  let s := { s with mem := m }.wrote k 128
  let saved := s.capRegs
  let back := s.pc
  ((s.setCapRegs b.ckpt).clearPreds.countMem.goTo (b.code + BitVec.ofNat 64 (12 * rofsOf b.stepw))).onMe fun t =>
    { t with capsule := true, cap := { block := ea, foot := b.foot, ret := back, expected := n, adopting := true, save := saved } }

/-- The checks of R331; the answer is the block's place and what stands there. Replayability goes before the block is read (R253, R330). -/
def capenterChecks (ea : Word) : Act (Nat × Block) := do
  noDet 0x158
  if (← get).me.capsule then trapFree 0x0E4
  if ea.toNat % 128 ≠ 0 then trapFree 0x0E3
  let p ← blockPage ea
  upd (·.loseReplay 2)
  let s ← get
  match s.badLine p.key 128 with
  | some (l, new) =>
    if new then set (s.findError l)
    trapFree 0x0EA
  | none => if s.lostHome p 128 then trapFree 0x0EA
  upd (·.blockAccess p.key)
  let b := blockAt (← get).mem p.key
  if !b.formOk then trapFree 0x0E3
  if !footOk b.foot ea then trapFree 0x0DA
  return (p.key, b)

/-- What CAPENTER comes to, after its checks. -/
def State.capenter (s : State) (ea : Word) (k : Nat) (b : Block) : State :=
  if lockState b.lock = 0 || lockState b.lock = 3 then s.acquired.capTake k ea b
  else if adoptAsid b.adoptw ≠ s.me.asid then s.deliver 0x0E9 ea s.pc
  else if s.adoptable s.me.pid b.watched then s.acquired.capAdopt k ea b
  else s.waitLock k ea s.pc

/-- CAPENTER (R331). -/
def execCapenter (a : GReg) (x : MX) (s : State) : Out :=
  finishWith (capenterChecks (s.eaA a x)) (fun r t => t.capenter (s.eaA a x) r.1 r.2) s

/-! ### The displaced path (R335) -/

/-- The task leaves capsule mode for an address; its pending store is discarded. -/
def State.leaveCapsule (s : State) (at_ : Word) : State :=
  s.onMe fun t => { t with capsule := false, cap := { t.cap with pending := none, displaced := false }, pc := at_ }

/-- The rows of R335 in order, for the block at `k`. `resumed` says that the task comes from a park. -/
def State.displacedPath (s : State) (k : Nat) (resumed : Bool) : State :=
  let b := blockAt s.mem k
  let c := s.me.cap
  let t := s.me.tid
  if !c.adopting && s.me.ret.how = 2 then s.leaveCapsule c.ret
  else if c.adopting && adopterOf b.adoptw ≠ t then (s.setCapRegs c.save).leaveCapsule c.ret
  else if resumed && ((lockState b.lock = 1 && lockOwner b.lock = t) || (lockState b.lock = 2 && adopterOf b.adoptw = t)) then
    s.onMe fun t => { t with cap := { t.cap with displaced := false } }
  else if lockState b.lock = 2 && lockOwner b.lock = t then
    (s.onMe fun t => { t with cap := { t.cap with pending := none } }).waitLock k c.block s.pc
  else
    let at_ := if c.adopting then c.ret else c.ret - 12
    (s.leaveCapsule s.pc).deliver 0x0E8 c.block at_

/-- A task in capsule mode resumes from a park (R335). -/
def resumeCapsule (s : State) : State :=
  match (do return (← blockPage s.me.cap.block).key : Act Nat).run s with
  | .ok k t => t.displacedPath k true
  | .error e t => t.stopWith e

/-! ### CAPSTEP and CAPEXIT (R333, R336, R337) -/

/-- The task that executes the capsule makes this commit. -/
def State.commitIsMine (s : State) (b : Block) : Bool :=
  let c := s.me.cap
  ((lockState b.lock = 1 && lockOwner b.lock = s.me.tid && !c.adopting) || (lockState b.lock = 2 && adopterOf b.adoptw = s.me.tid && c.adopting)) &&
    stepOf b.stepw = c.expected

/-- The pending store is written at its home (R337): its line lies on the block's page. -/
def State.writePending (s : State) (k : Nat) : State :=
  match s.me.cap.pending with
  | none => s
  | some (va, n, v) =>
    let key := k - s.me.cap.block.toNat % 4096 + va.toNat % 4096
    s.storeHome { kind := BitVec.ofNat 3 (k / 2 ^ 52), pa := key % 2 ^ 52, ord := 1 } n v.toNat {}

/-- The place and contents of the block of a commit, with the limits of R328 on it. -/
def commitBlock (exit : Bool) : Act (Nat × Block) := do
  noDet 0x158
  let s ← get
  if !s.me.capsule then trapFree 0x0E5
  let p ← blockPage s.me.cap.block
  releaseAt 4
  checkPoison s.me.cap.block p 128 0x07D 0x081 (some s.me.cap.block)
  upd (·.blockAccess p.key)
  let b := blockAt (← get).mem p.key
  let d := (s.pc + 12 - b.code).toNat
  if !exit && (d % 12 ≠ 0 || d < 12 || 12 * 65535 < d) then trapFree 0x0DC
  if s.commitIsMine b && stepOf b.stepw = 64 then trap 0x0D8 s.pc
  return (p.key, b)

/-- A step begins: nothing pending, q1 to q7 zero. -/
def State.beginStep (s : State) : State :=
  (s.onMe fun t => { t with cap := { t.cap with pending := none, instrs := 0, stores := 0 } }).clearPreds

/-- CAPSTEP's commit. -/
def State.capstep (s : State) (k : Nat) (b : Block) : State :=
  let s := s.writePending k
  let m := s.mem.putWord (k + 8) (stepWord ((s.pc + 12 - b.code).toNat / 12) (s.me.cap.expected + 1))
  let s := { s with mem := (List.range 8).foldl (fun m i => m.putWord (k + 16 + 8 * i) (s.capRegs.getD i 0)) m }
  let s := s.wrote (k + 8) 72
  (s.countMem.advance.onMe fun t => { t with cap := { t.cap with expected := t.cap.expected + 1 } }).beginStep

/-- A delivery into the return record of the holder, where it still exists (R336). -/
def State.deliverResults (s : State) (holder : BitVec 32) (r : RetRec) : State :=
  match s.findTask holder with
  | some _ => s.onTask holder fun t => { t with ret := r }
  | none => { s with images := s.images.map fun (i : Image) => { i with tasks := i.tasks.map fun (t : Task) => if t.tid = holder then { t with ret := r } else t } }

/-- CAPEXIT's commit. Where the lock was adopted the home writes DONE once the delivery is acknowledged, by an event. -/
def State.capexit (s : State) (k : Nat) (b : Block) : State :=
  let s := s.writePending k
  let rs := s.capRegs
  let n := s.me.cap.expected + 1
  let c := s.me.cap
  let m := ((s.mem.putWord (k + 96) (rs.getD 0 0)).putWord (k + 104) (rs.getD 1 0)).putWord (k + 112) (rs.getD 2 0)
  let s := { s with mem := m.putWord (k + 8) (stepWord 0 n) }
  let s := (s.wrote (k + 8) 8).wrote (k + 96) 24
  let r : RetRec := { res0 := rs.getD 0 0, res1 := rs.getD 1 0, res2 := rs.getD 2 0, how := 1, steps := BitVec.ofNat 7 n }
  if lockState b.lock = 1 then
    let s := { s with mem := (s.mem.putWord k 0).putWord (k + 120) 0 }.wrote k 128
    (s.countMem.retire.onMe fun t => { t with ret := r }).leaveCapsule c.ret
  else
    let s := (s.deliverResults (lockOwner b.lock) { r with how := 2 }).push (.capsuleDeliveryAck (BitVec.ofNat 64 k))
    (s.countMem.retire.setCapRegs c.save).leaveCapsule c.ret

/-- What a commit comes to. -/
def State.commit (s : State) (exit : Bool) (k : Nat) (b : Block) : State :=
  if !s.commitIsMine b then (s.onMe fun t => { t with cap := { t.cap with pending := none } }).displacedPath k false
  else if exit then s.capexit k b
  else s.capstep k b

/-- CAPSTEP (R333). The hint has no effect (R330). -/
def execCapstep (h : Hint) (s : State) : Out := let _ := h; finishWith (commitBlock false) (fun r t => t.commit false r.1 r.2) s

/-- CAPEXIT (R333). -/
def execCapexit (h : Hint) (s : State) : Out := let _ := h; finishWith (commitBlock true) (fun r t => t.commit true r.1 r.2) s

/-- The acknowledgement of a delivery: the home writes DONE (R336). -/
def execCapsuleDeliveryAck (s : State) : Out :=
  match s.ev with
  | some (.capsuleDeliveryAck k) =>
    let w := s.mem.word k.toNat
    .next ({ s with mem := s.mem.putWord k.toNat ((w &&& ~~~(0x7 : Word)) ||| 3) }.wrote k.toNat 8)
  | _ => .next s

/-! ### CAPRES (R339) -/

/-- A task that a role change moves while it holds or executes a capsule has its cluster's number rewritten at the block's home (R326). The
rewrite wakes nobody (R332). -/
def State.rehomeCapsule (s : State) (x : Task) (cl : BitVec 8) : State :=
  if !x.capsule then s
  else
    match s.asPhys x.pid x.asid x.cap.block .atomic with
    | .error _ => s
    | .ok (s, p) =>
      let s := s.blockAccess p.key
      let b := blockAt s.mem p.key
      let put (w : Word) (lo : Nat) : Word := (w &&& ~~~(0xFF <<< lo : Word)) ||| (cl.setWidth 64 <<< lo)
      if x.cap.adopting then
        if adopterOf b.adoptw = x.tid then { s with mem := s.mem.putWord (p.key + 120) (put b.adoptw 39) } else s
      else if lockOwner b.lock = x.tid then { s with mem := s.mem.putWord p.key (put b.lock 5) }
      else s

/-- What CAPRES reads. -/
def retWord (r : RetRec) (n : BitVec 2) : Word :=
  match n.toNat with
  | 0 => r.res0
  | 1 => r.res1
  | 2 => r.res2
  | _ => (0 : BitVec 25) ++ r.steps ++ (0 : BitVec 30) ++ r.how

/-- CAPRES (R339). -/
def execCapres (d : GReg) (n : BitVec 2) (h : Hint) (s : State) : Out :=
  let _ := h
  finishMem (do
    noDet 0x158
    if s.me.capsule then trapFree 0x0E0
    upd (·.loseReplay 2)
    upd (·.setG d (retWord s.me.ret n))) s

/-! ### Waiters of a descheduled task (R332) -/

/-- The task that the waiters of a lock wait for, with its cluster. -/
def State.lockWatched (s : State) (k : Nat) : BitVec 32 × BitVec 8 := (blockAt s.mem k).watched

/-- The waiters that entered no capsule: displaced holders, which stay in capsule mode, wait for a write of the lock word only (R332, R335). -/
def State.entrants (s : State) : List (Nat × BitVec 32) := s.capWaits.filter fun w => !(s.getTask w.2).capsule

/-- An entrant whose watched task has been descheduled for ADOPTDLY: that task. -/
def State.adoptDue (s : State) : Option (BitVec 32) :=
  (s.entrants.find? fun w => s.adoptable (s.getTask w.2).pid (s.lockWatched w.1)).map fun w => (s.lockWatched w.1).1

/-- Cycles until some waiter's task will have been descheduled for ADOPTDLY, at most `ADOPTDLY` and in cycles of 2.4 GHz. -/
def State.adoptIn (s : State) : Option Nat :=
  (s.entrants.filterMap fun w =>
    match s.descheduled (s.lockWatched w.1) with
    | some n => some (((s.part (s.getTask w.2).pid).regs.adoptdly.toNat - n) * 4 / 3 + 1)
    | none => none).min?

/-- The cluster wakes the entrants that wait for the task and are due (R332). -/
def execCapsuleAdoptTimer (s : State) : Out :=
  match s.ev with
  | some (.capsuleAdoptTimer t) =>
    let hit (w : Nat × BitVec 32) : Bool :=
      s.entrants.contains w && (s.lockWatched w.1).1 == t && s.adoptable (s.getTask w.2).pid (s.lockWatched w.1)
    .next ((({ s with capWaits := s.capWaits.filter fun w => !hit w } : State)).wakeHead ((s.capWaits.filter hit).map Prod.snd))
  | _ => .next s

end Sys2Proof.Machine
end

