-- ==== Sys2Proof/Machine/Mem.lean ====
section
/-!
DEFINITION. Scalar memory instructions, major 0x10 (R227 to R232), with the loads and stores of capsule mode (R328, R329).
-/

namespace Sys2Proof.Machine

/-- A loaded value, zero-extended or sign-extended (R231). -/
def extend (n : Nat) (signed : Bool) (v : Nat) : Word := if signed then BitVec.ofInt 64 (sgn (8 * n) v) else BitVec.ofNat 64 v

/-- Bytes of the pending store over loaded ones (R329). -/
def overPending (p : Option (Word × Nat × Word)) (ea : Word) (n v : Nat) : Nat :=
  match p with
  | none => v
  | some (va, k, w) =>
    (List.range n).foldr (fun i acc =>
      let off := (ea + BitVec.ofNat 64 i - va).toNat
      (if off < k then w.toNat / 2 ^ (8 * off) % 256 else v / 2 ^ (8 * i) % 256) + 256 * acc) 0

/-- The pending store gives every byte of a load (R329). -/
def pendingWhole (p : Option (Word × Nat × Word)) (ea : Word) (n : Nat) : Bool :=
  match p with
  | none => false
  | some (va, k, _) => (List.range n).all fun i => (ea + BitVec.ofNat 64 i - va).toNat < k

/-- The options of a scalar access (R389). -/
def scalarOpt (x : MX) : Opt := { x.opt with scalar := true }

/-- What LD reads (R229, R231). In capsule mode a load takes the bytes of the pending store from there, and reads memory for the others
only (R329). -/
def loadScalar (x : MX) (ea : Word) : Act Nat := do
  let s ← get
  if s.me.capsule && x.space == 0 then
    if pendingWhole s.me.cap.pending ea x.bytes then
      let _ ← translateParts ea x.bytes .read 0
      return overPending s.me.cap.pending ea x.bytes 0
    else return overPending s.me.cap.pending ea x.bytes (← loadAny x.space ea x.bytes x.bytes (scalarOpt x))
  else loadAny x.space ea x.bytes x.bytes (scalarOpt x)

/-- LD (R231). -/
def execLd (d : GReg) (a b : GK) (x : MX) (s : State) : Out :=
  finishMem (do
    let v ← loadScalar x (s.ea a b x)
    upd (·.setG d (extend x.bytes (x.mod.getLsbD 0) v))) s

/-- Every byte of a store lies in a footprint line of the capsule's window (R325, R328). -/
def inFootprint (c : Cap) (ea : Word) (n : Nat) : Bool :=
  ea.extractLsb' 12 52 == c.block.extractLsb' 12 52 && c.foot.getLsbD (ea.toNat % 4096 / 64) && ea.toNat % n == 0

/-- A store in capsule mode is pending until its step commits (R328, R329). -/
def storePending (ea : Word) (n : Nat) (v : Word) : Act Unit := do
  let s ← get
  if s.me.cap.stores ≠ 0 then trapFree 0x0DB
  if !inFootprint s.me.cap ea n then trapFree 0x0DA
  set (s.onMe fun t => { t with cap := { t.cap with pending := some (ea, n, v), stores := t.cap.stores + 1 } })

/-- ST (R231). -/
def execSt (d : GReg) (a b : GK) (x : MX) (s : State) : Out :=
  finishMem (do
    if s.me.capsule then storePending (s.ea a b x) x.bytes (s.g d)
    else storeAny x.space (s.ea a b x) x.bytes x.bytes ((s.g d).toNat % 2 ^ (8 * x.bytes)) (scalarOpt x)) s

/-- LDA (R231): the accesses that follow it come after it; on an unordered page it is an LD (R265). -/
def execLda (d : GReg) (a b : GK) (x : MX) (s : State) : Out :=
  finishMem (do
    let ea := s.ea a b x
    if ea.toNat % x.bytes ≠ 0 then trap 0x039 ea
    let ps ← readyParts ea x.bytes false (scalarOpt x)
    let v ← readParts (scalarOpt x) 0x07B 0x080 ps
    if ps.any fun q => q.at_.ord ≠ 2 then upd (·.acquired)
    upd (·.setG d (extend x.bytes (x.mod.getLsbD 0) v))) s

/-- The release of an STL: that of a staged one takes effect with its line's commit (R252), except that in a task with DET set it
does not retire until its home reports the crossing (R275). -/
def releaseStl (ea : Word) (x : MX) (q : Part) : Act Unit := do
  let s ← get
  if s.me.replayable && !s.me.det && !q.away && s.roomStaged (linesOf q.at_.key q.len) then
    upd (·.onMe fun t => { t with relStaged := t.relStaged.concat (q.at_.line, x.scope) })
  else releaseWrite ea q.at_ x.scope

/-- STL (R231): on an unordered page it is an ST (R265). -/
def execStl (d : GReg) (a b : GK) (x : MX) (s : State) : Out :=
  finishMem (do
    let ea := s.ea a b x
    if ea.toNat % x.bytes ≠ 0 then trap 0x039 ea
    let ps ← openParts ea x.bytes true (scalarOpt x)
    for q in ps do
      if q.at_.ord ≠ 2 then releaseStl ea x q
    enterParts ea true (scalarOpt x) ps
    storeParts true [(ps, (s.g d).toNat % 2 ^ (8 * x.bytes), (scalarOpt x))]) s

/-! ### PREF and DCWB (R232) -/

/-- The line of an address, where translation allows it; the walk sets A and never D. Without the permission asked for there is
nothing to walk for, and A stays (R232: "makes PREF do nothing"). -/
def State.quietLine (s : State) (ea : Word) (write : Bool) : State × Option Phys :=
  let priv := s.privileged s.me
  let w : Bool := match s.walk s.me.pid s.me.asid priv ea .write with | .ok _ => true | .error _ => false
  if (write && !w) || (s.pendingFault (clusterOf s.core.id) s.me.pid s.me.asid ea).isSome then (s, none)
  else
    match s.translateAs s.core.id s.me.pid s.me.asid priv ea .read with
    | (s, .error _) => (s, none)
    | (s, .ok p) => (s, if 3 ≤ p.kind.toNat || s.windowBad p then none else some p)

/-- What PREF does to the caches. -/
def State.pref (s : State) (ea : Word) (x : MX) : State :=
  match s.quietLine ea (x.mod.getLsbD 0) with
  | (s, none) => s
  | (s, some p) =>
    if x.hint.l1p = 1 then s.sliceRequest p.line (s.nudOf x.opt) false
    else s.l1Access s.core.id p.line (s.nudOf x.opt) 0 (x.mod.getLsbD 0)

/-- PREF (R232). -/
def execPref (a b : GK) (x : MX) (s : State) : Out := .next (s.pref (s.ea a b x) x).countMem.advance

/-- What DCWB does to the active core's copy of a line. -/
def State.writeBack (s : State) (line : Nat) (inv : Bool) : State :=
  match s.core.l1d.find? fun l => l.line == line with
  | none => s
  | some l =>
    let n : Nud := { code := l.code, carried := 0, deflt := s.me.nuddef, asid := s.me.asid, pid := s.me.pid }
    let s := if l.st = .m then s.homeBack line n else s
    if inv then s.onCore fun k => { k with l1d := k.l1d.filter fun y => y.line != line }
    else s.onCore fun k => { k with l1d := k.l1d.map fun y => if y.line == line && y.st == .m then { y with st := .e } else y }

/-- DCWB (R232). -/
def execDcwb (a b : GK) (x : MX) (s : State) : Out :=
  let r := s.quietLine (s.ea a b x) false
  .next (match r.2 with
    | none => r.1.countMem.advance
    | some p => (r.1.writeBack p.line (x.mod.getLsbD 0)).countMem.advance)

end Sys2Proof.Machine
end

