-- ==== Sys2Proof/Machine/VMem.lean ====
section
/-!
DEFINITION. Vector memory instructions, major 0x11 (R233 to R238).
-/

namespace Sys2Proof.Machine

/-! ### Elements (R233) -/

/-- Element width in bytes, MOD[5:4]. -/
def ewBytes (x : MX) : Nat := 2 ^ (x.mod.extractLsb' 4 2).toNat

/-- The mask of MOD: ME and QM. -/
def vmask (x : MX) : Option QReg := if x.mod.getLsbD 3 then some (x.mod.extractLsb' 0 3) else none

/-- Active elements of width `ew` bytes among the first `n` bytes. -/
def State.activeElems (s : State) (x : MX) (n : Nat) : List Nat := (List.range (n / ewBytes x)).filter (s.active (vmask x))

/-- A vector register with some elements replaced; active elements that the list lacks become 0. -/
def State.putElems (s : State) (x : MX) (old : Vec) (vals : List (Nat × Nat)) : Vec :=
  vecOf (8 * ewBytes x) fun i =>
    if s.active (vmask x) i then ((vals.find? fun p => p.1 == i).map (·.2)).getD 0 else elem (8 * ewBytes x) old i

/-- The bytes of one element, with its number for requests that leave the device. -/
def elemOpt (x : MX) (i : Nat) : Opt := { x.opt with elem := i }

/-- What stops an element of VGATH or VSCAT has its address as TVAL (R234), but for a load's error, which names the failing byte (R230). -/
def atElem {α : Type} (ea : Word) (m : Act α) : Act α := fun s =>
  match m s with
  | .error (.trap c v) t => .error (.trap c (if c = 0x07B then v else ea)) t
  | r => r

/-- An active element: its number, its address and its parts. -/
structure Elem where
  i : Nat
  ea : Word
  parts : List Part
  deriving DecidableEq, Repr

/-- Checks and translates every element before any is performed (R233, R234). Where `ea` names no address of the whole access, each element
stops with its own. -/
def openElems (x : MX) (write : Bool) (ea : Option Word) (es : List (Nat × Word)) : Act (List Elem) := do
  let n := ewBytes x
  let own (e : Word) {α : Type} (m : Act α) : Act α := if ea.isNone then atElem e m else m
  if x.space = 0 then
    let qs ← es.mapM fun e => do return ({ i := e.1, ea := e.2, parts := ← own e.2 (openParts e.2 n write (elemOpt x e.1)) } : Elem)
    detMany (qs.map fun q => (ea.getD q.ea, partLines q.parts)) write
    return qs
  else
    es.mapM fun e => do
      own e.2 (checkSpace x.space e.2 n n)
      return { i := e.1, ea := e.2, parts := [] }

/-- Reads elements that are ready, ascending: the lowest that meets an error decides. -/
def readElems (x : MX) (own : Bool) (es : List Elem) : Act (List (Nat × Nat)) :=
  es.mapM fun e => do
    let m : Act Nat := if x.space = 0 then readParts (elemOpt x e.i) 0x07B 0x080 e.parts else readLocal x.space e.ea (ewBytes x)
    return (e.i, ← if own then atElem e.ea m else m)

/-- Writes elements that are ready, ascending. -/
def writeElems (x : MX) (val : Nat → Nat) (es : List Elem) : Act Unit := do
  if x.space = 0 then storeParts true (es.map fun e => (e.parts, val e.i, elemOpt x e.i))
  else
    upd fun s => es.foldl (fun (s : State) e =>
      (s.unshade x.space (s.localKey x.space e.ea) (ewBytes x)).writeLocal x.space e.ea (ewBytes x) (val e.i)) s

/-- Every element of the first n bytes is active. -/
def State.allActive (s : State) (x : MX) (n : Nat) : Bool := (List.range (n / ewBytes x)).all (s.active (vmask x))

/-- The bytes of the first n of a vector as elements. -/
def splitElems (x : MX) (n v : Nat) : List (Nat × Nat) := (List.range (n / ewBytes x)).map fun i => (i, elemBits v (8 * ewBytes x) i)

/-! ### VLD, VST, VBLD (R233) -/

/-- VLD: one access where every element is active, else one for each active element. -/
def vldAct (d : VReg) (ea : Word) (x : MX) : Act Unit := do
  let s ← get
  let n := x.bytes
  let vals ← if s.allActive x n then (do return splitElems x n (← loadAny x.space ea n (ewBytes x) x.opt))
    else do
      if x.space ≠ 0 then checkSpace x.space ea n (ewBytes x)
      readElems x false (← openElems x false (some ea) ((s.activeElems x n).map fun i => (i, ea + BitVec.ofNat 64 (i * ewBytes x))))
  upd fun s => s.setV d (s.putElems x (s.v d) vals)

def execVld (d : VReg) (a b : GK) (x : MX) (s : State) : Out := finishMem (vldAct d (s.ea a b x) x) s

/-- VST. -/
def vstAct (d : VReg) (ea : Word) (x : MX) : Act Unit := do
  let s ← get
  let n := x.bytes
  if s.allActive x n then storeAny x.space ea n (ewBytes x) ((s.v d).toNat % 2 ^ (8 * n)) x.opt
  else
    if x.space ≠ 0 then checkSpace x.space ea n (ewBytes x)
    writeElems x (elem (8 * ewBytes x) (s.v d))
      (← openElems x true (some ea) ((s.activeElems x n).map fun i => (i, ea + BitVec.ofNat 64 (i * ewBytes x))))

def execVst (d : VReg) (a b : GK) (x : MX) (s : State) : Out := finishMem (vstAct d (s.ea a b x) x) s

/-- VBLD: read once; with no active element nothing is read. -/
def vbldAct (d : VReg) (ea : Word) (x : MX) : Act Unit := do
  let s ← get
  if !(s.activeElems x 64).isEmpty then
    let v ← loadAny x.space ea x.bytes x.bytes x.opt
    upd fun s => s.setV d (s.putElems x (s.v d) ((List.range (64 / ewBytes x)).map fun i => (i, v)))

def execVbld (d : VReg) (a b : GK) (x : MX) (s : State) : Out := finishMem (vbldAct d (s.ea a b x) x) s

/-! ### VGATH and VSCAT (R234) -/

/-- The address of element i from its index. -/
def State.gatherAddr (s : State) (a : GReg) (b : VReg) (x : MX) (i : Nat) : Word :=
  x.addr (s.g a) (BitVec.ofInt 64 (sgn (8 * ewBytes x) (elem (8 * ewBytes x) (s.v b) i)))

/-- The active elements with their addresses. -/
def State.gatherElems (s : State) (a : GReg) (b : VReg) (x : MX) : List (Nat × Word) := (s.activeElems x 64).map fun i => (i, s.gatherAddr a b x i)

/-- VGATH. -/
def vgathAct (d : VReg) (a : GReg) (b : VReg) (x : MX) : Act Unit := do
  let s ← get
  let vals ← readElems x true (← openElems x false none (s.gatherElems a b x))
  upd fun s => s.setV d (s.putElems x (s.v d) vals)

def execVgath (d : VReg) (a : GReg) (b : VReg) (x : MX) (s : State) : Out := finishMem (vgathAct d a b x) s

/-- VSCAT: in ascending order of elements. -/
def vscatAct (d : VReg) (a : GReg) (b : VReg) (x : MX) : Act Unit := do
  let s ← get
  writeElems x (elem (8 * ewBytes x) (s.v d)) (← openElems x true none (s.gatherElems a b x))

def execVscat (d : VReg) (a : GReg) (b : VReg) (x : MX) (s : State) : Out := finishMem (vscatAct d a b x) s

/-! ### VLSL and VLSS (R235) -/

/-- The checks of R235: the lane field is 0 and the bound of R227 holds, then alignment. (DEDUCED, assumption 71) -/
def checkLane (ea : Word) (n : Nat) : Act Unit := do
  if 1024 ≤ ea.toNat then trap 0x01C ea
  if ea.toNat % n ≠ 0 then trapFree 0x03A

/-- Lane j's own slice. -/
def laneEa (j : Nat) (ea : Word) : Word := BitVec.ofNat 64 (1024 * j) + ea

/-- VLSL. -/
def vlslAct (d : VReg) (ea : Word) (x : MX) : Act Unit := do
  checkLane ea x.bytes
  let s ← get
  let vals ← (s.activeElems x 64).mapM fun j => do return (j, ← readLocal 3 (laneEa j ea) x.bytes)
  upd fun s => s.setV d (s.putElems x (s.v d) vals)

def execVlsl (d : VReg) (a b : GK) (x : MX) (s : State) : Out := finishMem (vlslAct d (s.ea a b x) x) s

/-- VLSS. -/
def vlssAct (d : VReg) (ea : Word) (x : MX) : Act Unit := do
  checkLane ea x.bytes
  upd fun s => (s.activeElems x 64).foldl (fun t j => t.writeLocal 3 (laneEa j ea) x.bytes (elem 64 (s.v d) j % 2 ^ (8 * x.bytes))) s

def execVlss (d : VReg) (a b : GK) (x : MX) (s : State) : Out := finishMem (vlssAct d (s.ea a b x) x) s

/-! ### VSPILL and VFILL (R236, R237) -/

/-- The state of entry e of the running task's spill map; `none` is EMPTY. -/
def Task.spillEnt (t : Task) (e : Nat) : Option SpillSt := (t.spill.find? fun p => p.1 == e).map (·.2)

/-- Byte of a matrix image where accumulator row r starts (R175, R199). -/
def rowByte (r : Nat) : Nat := 65536 + 64 * r

/-- Rows that spill map entries of tasks with a slot of the active core hold. -/
def State.rowsHeld (s : State) : List Nat :=
  (s.allTasks.filter fun t => t.slot.isSome && (t.core == s.core.id || t.tid == s.me.tid)).flatMap fun t =>
    t.spill.filterMap fun p => match p.2 with | .row r => some r | _ => none

/-- The lowest free accumulator row (R236). -/
def State.freeRow (s : State) : Option Nat :=
  let held := s.rowsHeld
  (List.range 512).find? fun r => !(s.core.mx.bound != 0 && s.core.mx.zTaken.getLsbD (r / 32)) && !held.contains r

/-- The reserve line of an entry: a place in the core's scratchpad (R236). -/
def State.reserveKey (s : State) (e : Nat) : Nat := spKey s.core.id (0x1C000 + 4096 * (s.me.slot.getD 0).toNat + 64 * e)

/-- An entry of the spill map takes a state. -/
def State.setSpill (s : State) (e : Nat) (st : SpillSt) : State := s.onMe fun t => { t with spill := putBy Prod.fst (e, st) t.spill }

/-- A row of the matrix unit takes 64 bytes. -/
def State.setRow (s : State) (r : Nat) (v : Vec) : State := s.onCore fun k => { k with mx := { k.mx with img := k.mx.img.write (rowByte r) 64 v.toNat } }

/-- VSPILL's move. -/
def State.vspill (s : State) (e : Nat) (v : Vec) : State :=
  match s.me.spillEnt e with
  | some (.row r) => s.setRow r v
  | _ =>
    match s.freeRow with
    | some r => (s.setRow r v).setSpill e (.row r)
    | none => { s with sp := s.sp.write (s.reserveKey e) 64 v.toNat }.setSpill e .reserve

/-- What an entry holds (R237). -/
def State.spilled (s : State) (e : Nat) : Vec :=
  match s.me.spillEnt e with
  | none => 0
  | some (.row r) => BitVec.ofNat 512 (s.core.mx.img.read (rowByte r) 64)
  | some .reserve => BitVec.ofNat 512 (s.sp.read (s.reserveKey e) 64)
  | some (.image v) => v

/-- VSPILL (R237). -/
def execVspill (d : VReg) (a b : GK) (x : MX) (s : State) : Out :=
  finishMem (do
    let ea := s.ea a b x
    if 63 < ea.toNat then trap 0x121 ea
    upd fun s => s.vspill ea.toNat (s.v d)) s

/-- VFILL (R237). -/
def execVfill (d : VReg) (a b : GK) (x : MX) (s : State) : Out :=
  finishMem (do
    let ea := s.ea a b x
    if 63 < ea.toNat then trap 0x121 ea
    upd fun s => s.setV d (s.spilled ea.toNat)) s

end Sys2Proof.Machine
end

