-- ==== Sys2Proof/Machine/Tile.lean ====
section
/-!
DEFINITION. Tiles and copy, major 0x12 (R239 to R251), and the events of fills, drains and engine operations (R73, R249, R250,
R430).
-/

namespace Sys2Proof.Machine

/-! ### Tile ids (R28, R240) -/

/-- The frame that an id names, where its other bits are zero. -/
def idFrame (id : Word) : Option Nat := if id.extractLsb' 16 48 = 0 && id.extractLsb' 11 4 = 0 then some (id.toNat % 2048) else none

/-- The tile of the running task whose first frame an id names; a failed one keeps its mark in an entry without frames (R242). -/
def State.myTile (s : State) (id : Word) : Option Tile :=
  match idFrame id with
  | none => none
  | some f =>
    let mine (t : Tile) : Bool := t.owner == s.me.tid && t.frame == f
    let ts := (s.getCluster (clusterOf s.core.id)).tiles
    match ts.find? fun t => mine t && !t.failed with
    | some t => some t
    | none => ts.find? mine

/-- A mark of a failed fill goes with the trap that reports it (R242). -/
def State.dropMark (s : State) (t : Tile) : State :=
  s.onCluster (clusterOf s.core.id) fun c => { c with tiles := c.tiles.filter fun x => !(x.failed && x.owner == t.owner && x.frame == t.frame) }

/-- The tile of an id, with the traps of R240. -/
def tileOf (id : Word) : Act Tile := do
  let s ← get
  match s.myTile id with
  | none => trap 0x065 id
  | some t =>
    if t.failed then
      set (s.dropMark t)
      trap 0x079 id
    else if t.st == .draining then trap 0x065 id
    else return t

/-- EA of a tile access: its offset lies within the frames (R240). (DEDUCED, assumption 37) -/
def tileEa (id : Word) (off : Word) (n : Nat) : Act Word := do
  let t ← tileOf id
  let ea := BitVec.ofNat 64 (t.frame * 4096) + off
  if t.frames * 4096 < off.toNat + n then trap 0x064 ea
  return ea

/-- The offset of a tile access. -/
def State.tileOff (s : State) (b : GK) (x : MX) : Word := x.addr 0 (s.gk b)

/-- TLD (R240). -/
def execTld (d a : GReg) (b : GK) (x : MX) (s : State) : Out :=
  finishMem (do
    let ea ← tileEa (s.g a) (s.tileOff b x) x.bytes
    let v ← loadAny 2 ea x.bytes x.bytes {}
    upd (·.setG d (extend x.bytes (x.mod.getLsbD 0) v))) s

/-- TSV (R240). -/
def execTsv (d a : GReg) (b : GK) (x : MX) (s : State) : Out :=
  finishMem (do
    let ea ← tileEa (s.g a) (s.tileOff b x) x.bytes
    storeAny 2 ea x.bytes x.bytes ((s.g d).toNat % 2 ^ (8 * x.bytes)) {}) s

/-- TLDV (R240). -/
def execTldv (d : VReg) (a : GReg) (b : GK) (x : MX) (s : State) : Out :=
  finishMem (do vldAct d (← tileEa (s.g a) (s.tileOff b x) x.bytes) x) s

/-- TSVV (R240). -/
def execTsvv (d : VReg) (a : GReg) (b : GK) (x : MX) (s : State) : Out :=
  finishMem (do vstAct d (← tileEa (s.g a) (s.tileOff b x) x.bytes) x) s

/-! ### Records that an instruction names -/

/-- A shape record through the record cache of the task's cluster (R30, R247). -/
def readShape (va : Word) : Act Tsr := do
  if va.toNat % 64 ≠ 0 then trapFree 0x070
  let s ← get
  match s.readTsr s.me.pid s.me.asid (clusterOf s.core.id) va true with
  | .error c => if faultCause c then throw (.fault c va .read 0) else trapFree c
  | .ok (s, ws) =>
    set s
    return tsrOf ws

/-- The record that REC names, checked under R25; TW5 is 0 and TW6 is kept (R246, R249). -/
def readRec (r : GReg) : Act (Option (Vector Word 8)) := do
  if r = 0 then return none
  let va := (← get).g r
  if va.toNat % 64 ≠ 0 then trapFree 0x0B3
  let v ← readV va 64
  let rec8 := recordOf fun i => BitVec.ofNat 64 (v / 2 ^ (64 * i))
  match recordCause rec8 with
  | some c => trapFree c
  | none => return some (rec8.set 5 0)

/-- An operation of the running task. A full queue of its cluster stalls issue, where the operation takes an entry (R249). -/
def enqueueOp (x : TX) (runs : List (Place × Place × Nat)) (drain : Option Nat) (global : Bool) (entry : Bool := true) : Act EngOp := do
  let rec8 ← readRec x.recp
  waitMatrix
  if global then loseReplay3
  let s ← get
  let cl := clusterOf s.core.id
  if entry && 64 ≤ (s.getCluster cl).ops.length then throw .stall
  let bytes := (runs.map fun r => r.2.2).sum
  let o : EngOp :=
    { id := s.nextOp, tid := s.me.tid, pid := s.me.pid, asid := s.me.asid, runs := if drain.isSome then [] else runs, bytes := bytes
      ctr := if x.ctr = 0 then none else some (s.g x.ctr), amt := if x.amt = 0 then BitVec.ofNat 64 bytes else s.g x.amt
      push := rec8, code := x.cnud, drain := drain }
  let s := { s with nextOp := s.nextOp + 1 }.onCluster cl fun c => { c with ops := c.ops.concat o }
  set (if drain.isSome || !entry then s else s.push (.copyEngineComplete cl o.id))
  return o

/-! ### TCP and TSHAPE (R246, R247) -/

/-- Two ranges of n bytes overlap, modulo 2^64. -/
def overlaps (a b : Word) (n : Nat) : Bool := (a - b).toNat < n || (b - a).toNat < n

/-- A cluster-memory range of a copy lies in the task's reach (R228, R246). -/
def checkCopyReach (ea : Word) (n : Nat) : Act Unit := do
  if 0x800000 < ea.toNat + n then trap 0x064 ea
  checkReach ea n

/-- TCP. -/
def tcpAct (d a b : GReg) (x : TX) : Act Unit := do
  let s ← get
  let n := (s.g b).toNat
  let src := s.g a
  let dst := s.g d
  if n = 0 || 2 ^ 32 < n then trapFree 0x069
  if x.sk == x.dk && overlaps src dst n then trapFree 0x068
  if x.sk then checkCopyReach src n
  if x.dk then checkCopyReach dst n
  let p : Place := if x.sk then .cm src.toNat else .va src
  let q : Place := if x.dk then .cm dst.toNat else .va dst
  let _ ← enqueueOp x [(p, q, n)] none (!x.dk)

def execTcp (d a b : GReg) (x : TX) (s : State) : Out := finishMem (tcpAct d a b x) s

/-- The coordinates of TSHAPE (R247). -/
def State.coords (s : State) (b : GReg) : Int × Int × Int × Int :=
  let u := s.g b
  let v := s.g (b + 1)
  if b = 0 then (0, 0, 0, 0)
  else ((u.toNat % 2 ^ 32 : Nat), (u.toNat / 2 ^ 32 : Nat), (v.toNat % 2 ^ 32 : Nat), (v.toNat / 2 ^ 32 : Nat))

/-- TSHAPE; `st` is DIR 1, tile to tensor. -/
def tshapeAct (d a b : GReg) (st : Bool) (x : TX) : Act Unit := do
  if b = 63 then trapFree 0x01B
  let s ← get
  let t ← readShape (s.g a)
  match t.cause with
  | some c => trapFree c
  | none => pure ()
  let tile ← tileOf (s.g d)
  if tile.st == .filling then throw (.park 0x066 (BitVec.ofNat 64 tile.frame))
  let c := s.coords b
  if !t.coordsOk c.1 c.2.1 c.2.2.1 c.2.2.2 || tile.frames * 4096 < t.size then trapFree 0x073
  let runs : List (Place × Place × Nat) := (t.segs c).map fun g =>
    let f : Place := .cm (tile.frame * 4096 + g.off)
    if st then (f, .va g.va, g.len) else (.va g.va, f, g.len)
  let _ ← enqueueOp x runs none st

def execTshape (d a b : GReg) (st : Bool) (x : TX) (s : State) : Out := finish (tshapeAct d a b st x) s

/-- RCFENCE (R248): every earlier store of the task is visible to its copy engine from here on. -/
def execRcfence (s : State) : Out :=
  finish (do
    waitMatrix
    upd fun s => (s.onMe fun t => { t with unseen := [] }).onCluster (clusterOf s.core.id) fun c => { c with rcache := [] }) s

/-! ### TWAIT and TSTAT (R244, R245) -/

/-- The argument with which a task parks for all of its operations. -/
def allOps : Word := BitVec.allOnes 64

/-- TWAIT (R244). -/
def execTwait (a : GReg) (s : State) : Out :=
  finish (do
    if a = 0 then
      if !(s.opsOf s.me.tid).isEmpty then throw (.park 0x066 allOps)
    else
      let t ← tileOf (s.g a)
      if t.st == .filling then throw (.park 0x066 (BitVec.ofNat 64 t.frame))) s

def tileModeCode : TileMode → Nat | .inp => 1 | .out => 2 | .inout => 3 | .scratch => 4
def tileStCode : TileSt → Nat | .filling => 1 | .ready => 2 | .draining => 3

/-- TSTAT's word for a tile. A failed tile holds no frames. -/
def tstatTile (t : Tile) : Nat :=
  if t.failed then 2 ^ 31 + 2 ^ 30 + 2 ^ 8 * tileModeCode t.mode
  else 2 ^ 31 + 2 ^ 16 * t.frames + 2 ^ 8 * tileModeCode t.mode + tileStCode t.st

/-- TSTAT (R245). -/
def execTstat (d a : GReg) (s : State) : Out :=
  let n := Nat.min (s.opsOf s.me.tid).length 65535
  let lo := if a = 0 then 0 else match s.myTile (s.g a) with | some t => tstatTile t | none => 0
  putG d (BitVec.ofNat 64 (2 ^ 48 * n + lo)) s

/-! ### TALLOC and TFREE (R242, R243) -/

/-- The checks of R27 on one entry, with the SCRATCH mode that TALLOC adds: mode, frames, extent, shape and size, in this order. Entries are
checked one by one, each with its shape record read first (DESIGN CHOICE, assumption 81: the rule gives no order). -/
def TileArg.check (e : TileArg) (tsr : Option Tsr) (scratch : Bool) : Except Cause (List Seg × Nat) :=
  if !(1 ≤ e.mode && e.mode ≤ 3 || (scratch && e.mode = 4)) then .error 0x061
  else if e.frames = 0 || 16 < e.frames then .error 0x062
  else if e.mode = 4 && (e.va ≠ 0 || e.sri ≠ 0) then .error 0x063
  else
    match e.layout tsr with
    | .error c => .error c
    | .ok (segs, n) => if e.frames < framesFor n then .error 0x062 else .ok (segs, n)

/-- Frames that a task holds. -/
def State.framesOf (s : State) (cl : BitVec 8) (t : BitVec 32) : Nat := (((s.getCluster cl).tiles.filter fun y => y.owner == t).map Tile.frames).sum

/-- TALLOC. -/
def tallocAct (d a : GReg) : Act Unit := do
  let s ← get
  let va := s.g a
  if va.toNat % 16 ≠ 0 then trap 0x060 va
  let v ← readV va 16
  let e := tileArgOf (v % 2 ^ 64) (v / 2 ^ 64)
  let tsr : Option Tsr ← if e.sri = 0 || e.mode = 4 then pure none
    else (do return some (← readShape (va - BitVec.ofNat 64 (va.toNat % 64) + BitVec.ofNat 64 (64 * e.sri))))
  match e.check tsr true with
  | .error c => trapFree c
  | .ok (segs, n) =>
    let s ← get
    let cl := clusterOf s.core.id
    if 64 < s.framesOf cl s.me.tid + e.frames then upd (·.setG d 0)
    else
      match (s.getCluster cl).freeRun e.frames with
      | none => upd (·.setG d 0)
      | some f =>
        if e.mode ≠ 4 && s.pinsFull cl s.me.pid s.me.asid (tileModeOf e.mode) segs then throw (.park 0x058 0)
        let s := s.allocTile cl s.me f e segs n false
        set (s.setG d (BitVec.ofNat 64 (f + if e.mode = 2 || e.mode = 3 then 0x8000 else 0)))

def execTalloc (d a : GReg) (s : State) : Out := finish (tallocAct d a) s

/-- The drain of a tile begins (R73, R243). -/
def State.startDrain (s : State) (cl : BitVec 8) (frame : Nat) (op : Option (BitVec 32)) : State :=
  (s.onTile cl frame fun t => { t with st := .draining, todo := t.runs true, freeOp := op }).push (.tileDrainComplete cl (BitVec.ofNat 11 frame))

/-- The completion of R249 for an operation whose bytes are written: the counter, then the record. Where a fault holds the add
back, the operation waits for replay-all (R430). -/
def State.endOp (s : State) (cl : BitVec 8) (o : EngOp) : State :=
  let push (s : State) : State :=
    match o.push with
    | none => s
    | some rec8 => let r := s.newTask o.pid o.asid rec8; r.1.placeRecord r.2 cl
  let fin (s : State) : State :=
    let s := s.onCluster cl fun c => { c with ops := c.ops.filter fun x => x.id != o.id }
    let s := s.wakeWhere fun t => t.parkCause == 0x066 && t.parkArg == allOps && t.tid == o.tid && (s.opsOf t.tid).isEmpty
    match o.stream with
    | none => s
    | some n => (s.onPart o.pid fun p => { p with streams := wr p.streams n { rd p.streams n with copies := (rd p.streams n).copies.filter fun x => x != o.id } }).fenceCheck o.pid n
  match o.ctr with
  | none => fin (push s)
  | some va =>
    let r := s.devAdd o.pid o.asid cl va o.amt.toNat (s.about o.tid o.asid) 0
    if r.2 then fin (push r.1)
    else
      let c : Cause := match s.clPhys cl o.pid o.asid va .atomic with | .error c => c | .ok _ => 0x044
      r.1.onOp cl o.id fun x => { x with ended := true, paused := some (va, c) }

/-- TFREE (R243): its drain is an operation of the engine, which ends after it has issued. -/
def tfreeAct (id : Word) (x : TX) : Act Unit := do
  let t ← tileOf id
  if t.st == .filling then throw (.park 0x066 (BitVec.ofNat 64 t.frame))
  let s ← get
  let cl := clusterOf s.core.id
  let lo := t.frame * 4096
  let hits (p : Place) (n : Nat) : Bool := match p with | .cm o => o < lo + t.frames * 4096 && lo < o + n | .va _ => false
  if (s.opsOf s.me.tid).any fun o => o.runs.any fun r => hits r.1 r.2.2 || hits r.2.1 r.2.2 then throw .stall
  if t.mode == .inp || t.mode == .scratch then
    let o ← enqueueOp x [] none false false
    upd fun s => (s.freeTile cl t.frame).endOp cl o
  else
    let o ← enqueueOp x (t.runs true) (some t.frame) true
    upd (·.startDrain cl t.frame (some o.id))

def execTfree (a : GReg) (x : TX) (s : State) : Out := finish (tfreeAct (s.g a) x) s

/-! ### Events of the engine (R73, R249, R250, R430) -/

/-- An engine operation runs to its end, or to the page that stops it. It has not ended while a write of it to another device is
unanswered (R249). -/
def State.runOp (s : State) (cl : BitVec 8) (o : EngOp) : State :=
  let t : Task := { (s.getTask o.tid) with pid := o.pid, asid := o.asid, tid := o.tid }
  let r := if o.ended then (s, [], none) else s.runCopy o.pid o.asid cl [] o.code t (opJob o.id) (copyFuel o.runs) o.runs
  match r.2.2 with
  | none =>
    let s := r.1.onOp cl o.id fun x => { x with runs := [] }
    let e : Ev := .copyEngineComplete cl o.id
    if s.jobOut (opJob o.id) then s.wait e else (s.unwait e).endOp cl { o with runs := [] }
  | some (.fault va c) => (r.1.onOp cl o.id fun x => { x with runs := r.2.1, paused := some (va, c) }).push (.copyEngineFault cl o.id va)
  | some (.attr va c) => (r.1.reportRecord o.pid (s.about o.tid o.asid) cl c va 0 0).endOp cl { o with ctr := none, push := none }

/-- COPY_ENGINE_COMPLETE (R249). (DESIGN CHOICE, assumption 47) -/
def execCopyEngineComplete (s : State) : Out :=
  match s.ev with
  | some (.copyEngineComplete cl op) =>
    match (s.getCluster cl).ops.find? fun o => o.id == op with
    | some o => .next (s.runOp cl o)
    | none => .next s
  | _ => .next s

/-- COPY_ENGINE_FAULT (R250, R369). -/
def execCopyEngineFault (s : State) : Out :=
  match s.ev with
  | some (.copyEngineFault cl op va) =>
    match (s.getCluster cl).ops.find? fun o => o.id == op with
    | some o =>
      let read : Bool := match o.runs with
        | (.va a, _, _) :: _ => a == va
        | _ => false
      let c : Cause := match o.paused with | some p => p.2 | none => 0x044
      .next (s.pageFault o.pid cl (coreIn cl 0) o.asid 0 va c 4 false (if read then .read else .write))
    | none => .next s
  | _ => .next s

/-- A task fails before dispatch, with a trap record of KIND 5 (R27, R73, R361). -/
def State.failBefore (s : State) (t : BitVec 32) (c : Cause) : State :=
  match s.findTask t with
  | none => s
  | some x =>
    let w := s.freshWord
    (w.1.taskRecord x 5 false c x.tw[0] w.2).failTask t c

/-- Tasks that wait for a tile go on (R228, R244). (DEDUCED, assumption 70) -/
def State.wakeTile (s : State) (owner : BitVec 32) (frame : Nat) : State :=
  s.wakeWhere fun t => t.parkCause == 0x066 && t.tid == owner && t.parkArg == BitVec.ofNat 64 frame

/-- A fill that cannot be made (R73, R242): before dispatch the task fails; a tile of TALLOC is freed and keeps a mark. -/
def State.fillFailed (s : State) (cl : BitVec 8) (t : Tile) (c : Cause) : State :=
  if t.arg then s.failBefore t.owner c
  else
    let s := s.freeTile cl t.frame
    (s.onCluster cl fun k => { k with tiles := k.tiles.concat { t with frames := 0, failed := true, st := .ready, leases := [], todo := [] } }).wakeTile t.owner t.frame

/-- The tile whose first frame this is. -/
def State.tileAt (s : State) (cl : BitVec 8) (frame : Nat) : Option Tile :=
  (s.getCluster cl).tiles.find? fun t => t.frame == frame && t.frames != 0

/-- Fault records for the pages that stop a fill or a drain: of leased pages, and so marked declared (R73, R369). -/
def State.tileFaults (s : State) (cl : BitVec 8) (t : Tile) (e : RunEnd) (source : Nat) (acc : Access) : State :=
  let pid := (s.getTask t.owner).pid
  e.faults.foldl (fun s f => s.pageFault pid cl (coreIn cl 0) t.asid t.owner f.1 f.2 source true acc) s

/-- A claimed task whose IN and INOUT tiles are all READY may be dispatched (R73); its core wakes if it has been gated meanwhile (R66). -/
def State.dispatchCheck (s : State) (t : BitVec 32) : State :=
  match s.findTask t with
  | none => s
  | some x =>
    let mine := (s.getCluster x.cl).tiles.filter fun y => y.owner == t && y.arg
    let want := if x.tw[4] = 0 then 0 else twTcount x.tw[7]
    if x.st == .preparing && mine.length == want && mine.all (fun y => y.st == .ready) then (s.wakeCore x.core).push (.taskDispatch t) else s

/-- A fill moves its bytes (R73). -/
def State.fill (s : State) (cl : BitVec 8) (t : Tile) : State :=
  let (s, t) := s.renewLeases cl (s.getTask t.owner).pid t
  let r := s.runAll cl t.leases (s.getTask t.owner) true (tileJob cl t.frame) (copyFuel t.todo) t.todo {}
  let e := r.2
  let s := r.1.onTile cl t.frame fun y => { y with todo := e.left, paused := e.faults.map Prod.fst }
  if e.bad then s.push (.tileFillError cl (BitVec.ofNat 11 t.frame))
  else
    match e.attrs with
    | (va, c) :: _ => (if t.arg then s else s.reportRecord (s.getTask t.owner).pid (s.about t.owner t.asid) cl c va 0 0).fillFailed cl t c
    | [] =>
      if e.left.isEmpty then ((s.onTile cl t.frame fun y => { y with st := .ready }).wakeTile t.owner t.frame).dispatchCheck t.owner
      else s.tileFaults cl t e 2 .read

/-- TILE_FILL_COMPLETE (R73). -/
def execTileFillComplete (s : State) : Out :=
  match s.ev with
  | some (.tileFillComplete cl f) =>
    match s.tileAt cl f.toNat with
    | some t => .next (if t.st == .filling then s.fill cl t else s)
    | none => .next s
  | _ => .next s

/-- TILE_FILL_ERROR (R73, R242). -/
def execTileFillError (s : State) : Out :=
  match s.ev with
  | some (.tileFillError cl f) =>
    match s.tileAt cl f.toNat with
    | some t => .next (s.fillFailed cl t 0x079)
    | none => .next s
  | _ => .next s

/-- A drain moves its bytes (R73, R243, R430). -/
def State.drain (s : State) (cl : BitVec 8) (t : Tile) : State :=
  let x := s.getTask t.owner
  let (s, t) := s.renewLeases cl x.pid t
  let r := s.runAll cl t.leases x false (tileJob cl t.frame) (copyFuel t.todo) t.todo {}
  let e := r.2
  let s := r.1.onTile cl t.frame fun y => { y with todo := e.left, paused := e.faults.map Prod.fst }
  let s := e.attrs.foldl (fun s a => s.reportRecord x.pid (s.about t.owner t.asid) cl a.2 a.1 0 0) s
  let ev : Ev := .tileDrainComplete cl (BitVec.ofNat 11 t.frame)
  if !e.left.isEmpty then s.tileFaults cl t e 3 .write
  else if s.jobOut (tileJob cl t.frame) then s.wait ev
  else
    let s := (s.unwait ev).freeTile cl t.frame
    match t.freeOp with
    | some op => s.push (.copyEngineComplete cl op)
    | none => s.retireEnd t.owner

/-- TILE_DRAIN_COMPLETE (R73). -/
def execTileDrainComplete (s : State) : Out :=
  match s.ev with
  | some (.tileDrainComplete cl f) =>
    match s.tileAt cl f.toNat with
    | some t => .next (if t.st == .draining then s.drain cl t else s)
    | none => .next s
  | _ => .next s

end Sys2Proof.Machine
end

