-- ==== Sys2Proof/Machine/VFloat.lean ====
section
/-!
DEFINITION. Vector float, major 0x18 (R162 to R164), and what the vector groups share: results by element with the shadow unit's
check (R174), and the exact block sum of R154.
-/

namespace Sys2Proof

/-- FMT and FMT2 as numbers, and the rounding mode (R98). -/
def FX.f (x : FX) : Nat := x.fmt.toNat
def FX.f2 (x : FX) : Nat := x.fmt2.toNat
def FX.mode (x : FX) : Machine.Rnd := Machine.Rnd.of x.rnd
/-- OPM as a number. -/
def FX.op (x : FX) : Nat := x.opm.toNat

/-- A scalar source as a vector source (R158). -/
def GK.src : GK → VGK
  | .g r => .g r
  | .k c => .k c

end Sys2Proof

namespace Sys2Proof.Machine

/-- A register with element i replaced. -/
def setElem (w : Nat) (v : Vec) (i x : Nat) : Vec :=
  (v &&& ~~~(BitVec.ofNat 512 ((2 ^ w - 1) * 2 ^ (w * i)))) ||| BitVec.ofNat 512 (x % 2 ^ w * 2 ^ (w * i))

/-- Elements that a mask leaves active among the first n (R159). -/
def State.activeOf (s : State) (m : Option QReg) (n : Nat) : List Nat := (List.range n).filter (s.active m)

/-- The results of active elements: number, code and flags. -/
def State.results (s : State) (m : Option QReg) (n : Nat) (f : Nat → Nat × Fl) : List (Nat × Nat × Fl) :=
  (s.activeOf m n).map fun i => (i, f i)

/-- Every flag that results raise. -/
def flagsOf (rs : List (Nat × Nat × Fl)) : Fl := rs.foldl (fun a r => a ||| r.2.2) 0

/-- The lowest checked element for which the shadow unit's result disagrees, and whether in sign (R174). -/
def State.shadowHit (s : State) (fm : Nat) (rs : List (Nat × Nat × Fl)) : Option (Nat × Bool) :=
  (rs.filter fun r => shadowChecked fm r.2).findSome? fun r =>
    (s.core.shadowErr.find? fun e => e.1 == r.1).bind fun e => (shadowDiffers fm r.2.1 e.2).map fun sign => (r.1, sign)

/-- The SHADOW-V record (R174, R395). -/
def State.shadowRecord (s : State) (w i : Nat) : State :=
  s.report { coreRecord 0x0E 2 s.core.id with detail := BitVec.ofNat 64 (8 * i + i * w / 64), asid := s.me.asid, tid := s.me.tid }

/-- The shadow unit (R174): an error that it meets ends with this instruction. `w` is the width that places element i in a lane. -/
def shadowUnit (fm w : Nat) (rs : List (Nat × Nat × Fl)) : Act Unit := do
  let s ← get
  let hit := s.shadowHit fm rs
  if !s.core.shadowErr.isEmpty then set (s.onCore fun k => { k with shadowErr := [] })
  match hit with
  | some e =>
    upd (·.shadowRecord w e.1)
    trap (if e.2 then 0x138 else 0x139) (BitVec.ofNat 64 e.1)
  | none => pure ()

/-- Writes results and flags. -/
def State.putResults (s : State) (d : VReg) (w : Nat) (pos : Nat → Nat) (rs : List (Nat × Nat × Fl)) : State :=
  (s.setV d (rs.foldl (fun v r => setElem w v (pos r.1) r.2.1) (s.v d))).orFlags (flagsOf rs)

/-- An element-wise instruction on a float format, which the shadow unit checks. -/
def floatAct (d : VReg) (x : FX) (f : State → Nat → Nat × Fl) : Act Unit := do
  let s ← get
  let w := widthOf x.f
  let rs := s.results x.mask (lanes w) (f s)
  shadowUnit x.f w rs
  upd fun t => t.putResults d w id rs

/-- An element-wise instruction without flags. -/
def State.mapLanes (s : State) (d : VReg) (x : FX) (f : Nat → Nat) : State :=
  s.setV d (s.masked x.mask (widthOf x.f) (s.v d) f)

/-! ### The block sum (R154) -/

/-- Σ a × b, exactly: canonical NaN and infinities as the block rule says. -/
def blockSum (mode : Rnd) (ps : List (Val × Val)) : Val × Fl :=
  let sig := flIf (ps.any fun p => p.1.isSig || p.2.isSig) flNV
  let ms := ps.map fun p => mulV p.1 p.2
  let fl := ms.foldl (fun a m => a ||| m.2) sig
  if ps.any fun p => p.1.isNan || p.2.isNan then (.canon, fl)
  else if ms.any fun m => m.1.isNan then (.canon, fl)
  else if ms.any fun m => m.1.isInf then
    if ms.any (fun m => m.1 == .inf true) && ms.any (fun m => m.1 == .inf false) then (.canon, fl ||| flNV)
    else (.inf (ms.any fun m => m.1 == .inf true), fl)
  else
    match ms with
    | [] => (.num false 0 0 false, fl)
    | m :: rest => (rest.foldl (fun acc x => (addV mode acc x.1).1) m.1, fl)

/-- z + t with one rounding and a canonical NaN (R154, R172). -/
def accumulate (f : Nat) (mode : Rnd) (z : Nat) (t : Val × Fl) : Nat × Fl :=
  let v := val f z
  let r : Val × Fl := if v.isNan || t.1.isNan then (.canon, flIf v.isSig flNV) else addV mode v t.1
  roundRes f mode false (r.1, r.2 ||| t.2)

/-! ### The instructions -/

/-- An instruction with two sources. -/
def float2 (op : Nat → Rnd → Bool → Nat → Nat → Nat × Fl) (d a : VReg) (b : VGK) (x : FX) (s : State) : Host.Outcome State Fault Refusal :=
  finish (floatAct d x fun s i => op x.f x.mode x.nanp (s.vgk x.f (.v a) i) (s.vgk x.f b i)) s

/-- An instruction with one source. -/
def float1 (op : Val → Val × Fl) (d a : VReg) (x : FX) (s : State) : Host.Outcome State Fault Refusal :=
  finish (floatAct d x fun s i => fUn op x.f x.mode x.nanp (s.vgk x.f (.v a) i)) s

/-- A fused instruction. -/
def float3 (sub : Bool) (d a : VReg) (b : VGK) (c : VG) (x : FX) (s : State) : Host.Outcome State Fault Refusal :=
  finish (floatAct d x fun s i => fFma x.f x.mode x.nanp sub (s.vgk x.f (.v a) i) (s.vgk x.f b i) (s.vg x.f c i)) s

/-- VADD (R162). -/
def execVadd (d a : VReg) (b : VGK) (x : FX) (s : State) : Out := float2 fAdd d a b x s
/-- VSUB (R162). -/
def execVsub (d a : VReg) (b : VGK) (x : FX) (s : State) : Out := float2 fSub d a b x s
/-- VMUL (R162). -/
def execVmul (d a : VReg) (b : VGK) (x : FX) (s : State) : Out := float2 fMul d a b x s
/-- VFMA (R162). -/
def execVfma (d a : VReg) (b : VGK) (c : VG) (x : FX) (s : State) : Out := float3 false d a b c x s
/-- VFMS (R162). -/
def execVfms (d a : VReg) (b : VGK) (c : VG) (x : FX) (s : State) : Out := float3 true d a b c x s
/-- VMIN (R163). -/
def execVmin (d a : VReg) (b : VGK) (x : FX) (s : State) : Out := float2 (fun f _ n => fMinMax false f n) d a b x s
/-- VMAX (R163). -/
def execVmax (d a : VReg) (b : VGK) (x : FX) (s : State) : Out := float2 (fun f _ n => fMinMax true f n) d a b x s
/-- VABS (R162): the sign bit is cleared. -/
def execVabs (d a : VReg) (x : FX) (s : State) : Out :=
  finish (floatAct d x fun s i => (s.vgk x.f (.v a) i % 2 ^ (widthOf x.f - 1), 0)) s
/-- VNEG (R162): the sign bit is inverted. -/
def execVneg (d a : VReg) (x : FX) (s : State) : Out :=
  finish (floatAct d x fun s i => (s.vgk x.f (.v a) i ^^^ 2 ^ (widthOf x.f - 1), 0)) s
/-- VDIV (R162). -/
def execVdiv (d a : VReg) (b : VGK) (x : FX) (s : State) : Out := float2 fDiv d a b x s
/-- VSQRT (R164). -/
def execVsqrt (d a : VReg) (x : FX) (s : State) : Out := float1 sqrtV d a x s
/-- VRCP (R164). -/
def execVrcp (d a : VReg) (x : FX) (s : State) : Out := float1 rcpV d a x s
/-- VRSQ (R164). -/
def execVrsq (d a : VReg) (x : FX) (s : State) : Out := float1 rsqrtV d a x s
/-- VEXP2 (R164). -/
def execVexp2 (d a : VReg) (x : FX) (s : State) : Out := float1 exp2V d a x s
/-- VLOG2 (R164). -/
def execVlog2 (d a : VReg) (x : FX) (s : State) : Out := float1 log2V d a x s

end Sys2Proof.Machine
end

