-- ==== Sys2Proof/Machine/VInt.lean ====
section
/-!
DEFINITION. Vector integer, major 0x19 (R165). No instruction sets a flag or traps on a value.
-/

namespace Sys2Proof.Machine

/-- U, OPM[0]. -/
def FX.uns (x : FX) : Bool := x.opm.getLsbD 0

/-- VIADD to VIMUL: an exact result, wrapped or clamped. -/
def int2 (op : Int → Int → Int) (d a : VReg) (b : VGK) (x : FX) (s : State) : Host.Outcome State Fault Refusal :=
  let w := widthOf x.f
  let e := elemInt w (FX.uns x)
  .next (s.mapLanes d x fun i => wrapSat w x.sat (FX.uns x) (op (e (s.vgk x.f (.v a) i)) (e (s.vgk x.f b i)))).advance

/-- Bitwise operations and shifts on element codes. -/
def bits2 (op : Nat → Nat → Nat → Nat) (d a : VReg) (b : VGK) (x : FX) (s : State) : Host.Outcome State Fault Refusal :=
  .next (s.mapLanes d x fun i => op (widthOf x.f) (s.vgk x.f (.v a) i) (s.vgk x.f b i)).advance

/-- VIADD. -/
def execViadd (d a : VReg) (b : VGK) (x : FX) (s : State) : Out := int2 (· + ·) d a b x s
/-- VISUB. -/
def execVisub (d a : VReg) (b : VGK) (x : FX) (s : State) : Out := int2 (· - ·) d a b x s
/-- VIMUL. -/
def execVimul (d a : VReg) (b : VGK) (x : FX) (s : State) : Out := int2 (· * ·) d a b x s
/-- VIMAD: one exact result a × b + c. -/
def execVimad (d a : VReg) (b : VGK) (c : VG) (x : FX) (s : State) : Out :=
  let w := widthOf x.f
  let e := elemInt w (FX.uns x)
  .next (s.mapLanes d x fun i =>
    wrapSat w x.sat (FX.uns x) (e (s.vgk x.f (.v a) i) * e (s.vgk x.f b i) + e (s.vg x.f c i))).advance
/-- VIMIN. -/
def execVimin (d a : VReg) (b : VGK) (x : FX) (s : State) : Out :=
  bits2 (fun w p q => if elemInt w (FX.uns x) q < elemInt w (FX.uns x) p then q else p) d a b x s
/-- VIMAX. -/
def execVimax (d a : VReg) (b : VGK) (x : FX) (s : State) : Out :=
  bits2 (fun w p q => if elemInt w (FX.uns x) p < elemInt w (FX.uns x) q then q else p) d a b x s
/-- VAND. -/
def execVand (d a : VReg) (b : VGK) (x : FX) (s : State) : Out := bits2 (fun _ p q => p &&& q) d a b x s
/-- VOR. -/
def execVor (d a : VReg) (b : VGK) (x : FX) (s : State) : Out := bits2 (fun _ p q => p ||| q) d a b x s
/-- VXOR. -/
def execVxor (d a : VReg) (b : VGK) (x : FX) (s : State) : Out := bits2 (fun _ p q => p ^^^ q) d a b x s
/-- VSHL: the amount is taken modulo the width. -/
def execVshl (d a : VReg) (b : VGK) (x : FX) (s : State) : Out := bits2 (fun w p q => p * 2 ^ (q % w) % 2 ^ w) d a b x s
/-- VSHR. -/
def execVshr (d a : VReg) (b : VGK) (x : FX) (s : State) : Out := bits2 (fun w p q => p / 2 ^ (q % w)) d a b x s
/-- VSHA. -/
def execVsha (d a : VReg) (b : VGK) (x : FX) (s : State) : Out :=
  bits2 (fun w p q => intBits w (sgn w p / (2 ^ (q % w) : Int))) d a b x s

end Sys2Proof.Machine
end

