-- ==== Sys2Proof/Machine/VPerm.lean ====
section
/-!
DEFINITION. Vector compare and permute, major 0x1A (R166 to R168).
-/

namespace Sys2Proof.Machine

/-- Codes of the I formats. -/
def isSignedInt (f : Nat) : Bool := 9 ≤ f && f ≤ 12

/-- An element as a scalar: sign-extended for I formats, zero-extended otherwise (R167, R171). -/
def scalarOf (f x : Nat) : Word := if isSignedInt f then BitVec.ofInt 64 (sgn (widthOf f) x) else BitVec.ofNat 64 x

/-- A predicate from the truth of each of its bits. -/
def maskWord (f : Nat → Bool) : Word := (List.range 64).foldl (fun m i => if f i then m ||| (1 : Word) <<< i else m) 0

/-- The condition on element i, with its flags (R137, R166). -/
def State.vcond (s : State) (a : VReg) (b : VGK) (x : FX) (i : Nat) : Bool × Fl :=
  let p := s.vgk x.f (.v a) i
  let q := s.vgk x.f b i
  if isFloat x.f then condFloat x.op x.f p q else (condInt x.op (widthOf x.f) p q, 0)

/-- VCMP (R166): every bit of the predicate is written. -/
def execVcmp (d : QReg) (a : VReg) (b : VGK) (x : FX) (s : State) : Out :=
  let act := s.activeOf x.mask (lanes (widthOf x.f))
  .next ((s.setQ d (maskWord fun i => act.contains i && (s.vcond a b x i).1)).orFlags
    (act.foldl (fun fl i => fl ||| (s.vcond a b x i).2) 0)).advance

/-- VSEL (R167). -/
def execVsel (d a : VReg) (b : VGK) (c : QReg) (x : FX) (s : State) : Out :=
  .next (s.mapLanes d x fun i => if (s.q c).getLsbD i then s.vgk x.f (.v a) i else s.vgk x.f b i).advance

/-- VSHUF (R167). -/
def execVshuf (d a b c : VReg) (x : FX) (s : State) : Out :=
  let n := lanes (widthOf x.f)
  .next (s.mapLanes d x fun i =>
    let t := s.vgk x.f (.v b) i % (2 * n)
    if t < n then s.vgk x.f (.v a) t else s.vgk x.f (.v c) (t - n)).advance

/-- VBCAST (R167): element OPM of a vector source. -/
def execVbcast (d : VReg) (a : VGK) (x : FX) (s : State) : Out :=
  let i := match a with | .v _ => x.op | _ => 0
  .next (s.mapLanes d x fun _ => s.vgk x.f a i).advance

/-- VMOV (R167). -/
def execVmov (d a : VReg) (x : FX) (s : State) : Out := .next (s.mapLanes d x fun i => s.vgk x.f (.v a) i).advance

/-- VIOTA (R167). -/
def execViota (d : VReg) (a b : GK) (x : FX) (s : State) : Out :=
  .next (s.mapLanes d x fun i => ((s.gk a).toNat + i * (s.gk b).toNat) % 2 ^ widthOf x.f).advance

/-- An index at or past the number of elements traps (R167). -/
def needIndex (b : Word) (x : FX) : Act Unit := do if lanes (widthOf x.f) ≤ b.toNat then trap 0x120 b

/-- VEXT (R167). -/
def execVext (d : GReg) (a : VReg) (b : GK) (x : FX) (s : State) : Out :=
  finishWith (needIndex (s.gk b) x) (fun _ t => (t.setG d (scalarOf x.f (s.vgk x.f (.v a) (s.gk b).toNat))).advance) s

/-- VINS (R167). -/
def execVins (d : VReg) (a b : GK) (x : FX) (s : State) : Out :=
  finishWith (needIndex (s.gk b) x)
    (fun _ t => (t.setV d (setElem (widthOf x.f) (s.v d) (s.gk b).toNat (s.vgk x.f a.src 0))).advance) s

/-! ### VCOMP (R168) -/

/-- An element that VCOMP skips. -/
def isZeroElem (f x : Nat) : Bool := if isFloat f then (val f x).isZero else x == 0

/-- An empty pair. -/
def emptyPair : Word := 0xFFFF_FFFF_0000_0000

/-- The pairs taken, the predicate left, and whether the loop broke off. -/
structure Packed where
  pairs : List Word
  left : Word
  broke : Bool := false

/-- One active element. -/
def Packed.take (k : Packed) (f : Nat) (base : Word) (i x : Nat) : Packed :=
  if k.broke then k
  else if k.pairs.length = 8 then { k with broke := true }
  else
    { k with
      pairs := if isZeroElem f x then k.pairs else k.pairs.concat ((base.setWidth 32 + BitVec.ofNat 32 i) ++ BitVec.ofNat 32 x)
      left := k.left &&& ~~~((1 : Word) <<< i) }

/-- The register that eight pairs fill. -/
def pairsVec (ps : List Word) : Vec := vecOf 64 fun j => (ps.getD j emptyPair).toNat

/-- VCOMP (R168). Its mask names q1 to q7, so it is the register that the pass leaves. -/
def execVcomp (d a : VReg) (b : GK) (x : FX) (s : State) : Out :=
  let n := lanes (widthOf x.f)
  let m := x.mask.getD 0
  let k := (s.activeOf x.mask n).foldl (fun (k : Packed) i => k.take x.f (s.gk b) i (s.vgk x.f (.v a) i)) { pairs := [], left := s.q m }
  let left := if k.broke then k.left else k.left &&& BitVec.ofNat 64 (2 ^ n - 1)
  .next ((s.setV d (pairsVec k.pairs)).setQ m left).advance

end Sys2Proof.Machine
end

