-- ==== Sys2Proof/Machine/VCvt.lean ====
section
/-!
DEFINITION. Vector conversion and reduction, major 0x1B (R169 to R173).
-/

namespace Sys2Proof.Machine

/-! ### VCVT (R169) -/

/-- Scale byte b of a scalar register. -/
def scaleByte (g : Word) (b : Nat) : Nat := g.toNat / 2 ^ (8 * b) % 256

/-- A value over a block scale of the target (R169). A NaN value stays the first NaN source (R146). -/
def overScale (v sc : Val) : Val × Fl :=
  let nan : Val := if v.isNan then v else .canon
  if sc.isNan then (nan, flNS)
  else if sc.isZero then (nan, flNV)
  else if v.isNan then (v, 0)
  else ((divV v sc).1, 0)

/-- One converted element: `i` counts the elements of the instruction, `j` its place in the source. -/
def cvtElem (x : FX) (g : Word) (run i j : Nat) : Nat × Fl :=
  let e := decAt x.f2 run j
  let a := if isBlock x.f2 then applyScale e.1 (decScale (isS8 x.f2) (scaleByte g (i / 16))) else (e.1, 0)
  let b := if isBlock x.f then overScale a.1 (decScale (isS8 x.f) (scaleByte g (i / 16))) else (a.1, 0)
  let r := cvtTo x.f x.mode x.sat x.nanp b.1
  (r.1, r.2 ||| e.2 ||| a.2 ||| b.2 ||| flIf e.1.isSig flNV)

/-- VCVT. -/
def vcvtAct (d a : VReg) (c : GReg) (x : FX) : Act Unit := do
  let s ← get
  let wt := widthOf x.f
  let ws := widthOf x.f2
  let n := 512 / Nat.max wt ws
  let p := x.op % 64
  let src (i : Nat) : Nat := if ws < wt then p * n + i else i
  let dst (i : Nat) : Nat := if wt < ws then p * n + i else i
  let rs := s.results x.mask n fun i => cvtElem x (s.g c) (s.v a).toNat i (src i)
  if isFloat (elemFmt x.f) then shadowUnit (elemFmt x.f) (Nat.max wt ws) rs
  upd fun t => t.putResults d wt dst rs

def execVcvt (d a : VReg) (c : GReg) (x : FX) (s : State) : Out := finish (vcvtAct d a c x) s

/-! ### VSCALE (R170) -/

/-- The largest finite value of an element format. -/
def maxOf (f : Nat) : Val := if isFloat f then decFloat f (flay f).top else ofInt (intLimits f).2

/-- A magnitude. -/
def Val.abs : Val → Val
  | .num _ n e k => .num false n e k
  | .inf _ => .inf false
  | v => v

/-- ⌈log2 (a / b)⌉ for two finite values above 0. -/
def ceilLog2 (a b : Val) : Int :=
  match a, b with
  | .num _ n e _, .num _ m g _ =>
    let k : Int := (Nat.log2 n : Int) + e - (Nat.log2 m : Int) - g
    if cmpV (.num false n e false) (.num false m (g + k) false) ≤ 0 then k else k + 1
  | _, _ => 0

/-- The scale byte of a block (R170). -/
def blockScale (f : Nat) (vs : List Val) : Nat :=
  let amax := vs.foldl (fun (m : Val) v => if cmpV m v.abs < 0 then v.abs else m) (.num false 0 0 false)
  if vs.any fun v => v.isNan || v.isInf then 0xFF
  else if amax.isZero then (if isS8 f then 0x7F else 0x38)
  else if isS8 f then
    let k := 127 + ceilLog2 amax (maxOf (elemFmt f))
    if k < 0 then 0 else if 254 < k then 254 else k.toNat
  else (roundTo 0x04 .rup false (divV amax (maxOf (elemFmt f))).1).1

/-- VSCALE: a byte for each block of 16 elements. -/
def execVscale (d : GReg) (a : VReg) (x : FX) (s : State) : Out :=
  let n := lanes (widthOf x.f2)
  let act := s.activeOf x.mask n
  let byte (b : Nat) : Nat := blockScale x.f ((act.filter fun i => i / 16 == b).map fun i => val x.f2 (s.vgk x.f2 (.v a) i))
  .next (s.setG d (BitVec.ofNat 64 ((List.range (n / 16)).foldl (fun acc b => acc + byte b * 2 ^ (8 * b)) 0))).advance

/-! ### VRED and VSCAN (R171) -/

/-- One step of a reduction. -/
def redStep (x : FX) (acc e : Nat) : Nat × Fl :=
  let w := widthOf x.f
  if isFloat x.f then
    match x.op with
    | 0 => fAdd x.f x.mode x.nanp acc e
    | 1 => fMinMax false x.f x.nanp acc e
    | _ => fMinMax true x.f x.nanp acc e
  else
    (match x.op with
    | 0 => (acc + e) % 2 ^ w
    | 1 => if sgn w e < sgn w acc then e else acc
    | 2 => if sgn w acc < sgn w e then e else acc
    | 3 => Nat.min acc e
    | 4 => Nat.max acc e
    | 5 => acc &&& e
    | 6 => acc ||| e
    | _ => acc ^^^ e, 0)

/-- The accumulator after each active element. -/
def redSteps (x : FX) (el : Nat → Nat) : Nat → List Nat → List (Nat × Nat × Fl)
  | _, [] => []
  | acc, i :: is =>
    let r := redStep x acc (el i)
    (i, r) :: redSteps x el r.1 is

/-- The steps of a reduction of the running task. -/
def State.reduce (s : State) (a : VReg) (b : GK) (x : FX) : List (Nat × Nat × Fl) :=
  redSteps x (s.vgk x.f (.v a)) (s.vgk x.f b.src 0) (s.activeOf x.mask (lanes (widthOf x.f)))

/-- The shadow unit checks a float add. -/
def redCheck (x : FX) (rs : List (Nat × Nat × Fl)) : Act Unit := do
  if isFloat x.f && x.op == 0 then shadowUnit x.f (widthOf x.f) rs

/-- The last accumulator. -/
def lastAcc (b : Nat) (rs : List (Nat × Nat × Fl)) : Nat := match rs.getLast? with | some r => r.2.1 | none => b

/-- VRED. -/
def execVred (d : GReg) (a : VReg) (b : GK) (x : FX) (s : State) : Out :=
  let rs := s.reduce a b x
  finishWith (redCheck x rs) (fun _ t => ((t.setG d (scalarOf x.f (lastAcc (s.vgk x.f b.src 0) rs))).orFlags (flagsOf rs)).advance) s

/-- VSCAN. -/
def execVscan (d a : VReg) (b : GK) (x : FX) (s : State) : Out :=
  let rs := s.reduce a b x
  finishWith (redCheck x rs) (fun _ t => (t.putResults d (widthOf x.f) id rs).advance) s

/-! ### VDOT4 (R172) -/

/-- Accumulator element i with the four products of its group. -/
def dot4 (x : FX) (z a b : Vec) (i : Nat) : Nat × Fl :=
  let acc := elem 32 z i
  let ps := (List.range 4).map fun j => ((decAt x.f a.toNat (4 * i + j)).1, (decAt x.f b.toNat (4 * i + j)).1)
  if x.f2 = 0x0A then
    let el (v : Vec) (j : Nat) : Int := elemInt 8 (x.f == 0x0D) (elem 8 v (4 * i + j))
    let t := sgn 32 acc + ((List.range 4).map fun j => el a j * el b j).sum
    let c := wrapSat 32 true false t
    (c, flIf (sgn 32 c != t) flOF)
  else accumulate 0x01 x.mode acc (blockSum x.mode ps)

/-- VDOT4: with FP32 the shadow unit checks it (R174). -/
def vdot4Act (d a b : VReg) (x : FX) : Act Unit := do
  let s ← get
  let rs := s.results x.mask 16 (dot4 x (s.v d) (s.v a) (s.v b))
  if x.f2 = 0x01 then shadowUnit 0x01 32 rs
  upd fun t => t.putResults d 32 id rs

def execVdot4 (d a b : VReg) (x : FX) (s : State) : Out := finish (vdot4Act d a b x) s

/-! ### VRNG (R173) -/

/-- F of R173. -/
def rngF (x : Word) : Word :=
  let x := x + 0x9E37_79B9_7F4A_7C15
  let x := (x ^^^ (x >>> 30)) * 0xBF58_476D_1CE4_E5B9
  let x := (x ^^^ (x >>> 27)) * 0x94D0_49BB_1331_11EB
  x ^^^ (x >>> 31)

/-- Mix of R173. -/
def rngMix (k c : Word) : Word := rngF (rngF (c ^^^ k) ^^^ ((k <<< 32) ||| (k >>> 32)))

/-- The element that a drawn word gives. -/
def rngElem (f : Nat) (m : Word) : Nat :=
  match f with
  | 0x00 => (roundTo 0x00 .rne false (.num false (m >>> 11).toNat (-53) false)).1
  | 0x01 => (roundTo 0x01 .rne false (.num false (m >>> 40).toNat (-24) false)).1
  | 0x0A => m.toNat % 2 ^ 32
  | _ => m.toNat

/-- VRNG. -/
def execVrng (d : VReg) (a b : GReg) (x : FX) (s : State) : Out :=
  .next (s.mapLanes d x fun i => rngElem x.f (rngMix (s.g a) (s.g b + BitVec.ofNat 64 i))).advance

end Sys2Proof.Machine
end

