-- ==== Sys2Proof/Machine/Matrix.lean ====
section
/-!
DEFINITION. The matrix unit, major 0x1C (R175 to R200): claims and spills, the checks at issue, the command queue and the
sequencer. An instruction's checks run at issue; `runCmd` is what its command does when the sequencer reaches it.
-/

namespace Sys2Proof.Machine

/-- A change of the active core's unit. -/
def State.onMx (s : State) (f : Matrix → Matrix) : State := s.onCore fun k => { k with mx := f k.mx }

/-! ### Formats (R186, R188, R189) -/

/-- Formats that MLDS loads. -/
def mldsFmt (f : Nat) : Bool := f ≤ 8 || (0x0C ≤ f && f ≤ 0x11) || isBlock f
/-- Formats of 16 bits or fewer, which pair in any mix. -/
def narrowFmt (f : Nat) : Bool := (2 ≤ f && f ≤ 8) || (0x0C ≤ f && f ≤ 0x11) || isBlock f
/-- Formats that an I32 accumulator takes (R155). -/
def intFmt (f : Nat) : Bool := (0x0C ≤ f && f ≤ 0x0F) || f == 0x11
/-- The latch limit of an element width. -/
def latchLimit (w : Nat) : Nat := if w ≤ 4 then 64 else if w ≤ 8 then 32 else if w ≤ 16 then 16 else if w ≤ 32 then 4 else 1
/-- Row length of a slot in elements (R178). -/
def SlotTag.klen (t : SlotTag) : Nat := t.rbytes * 8 / widthOf t.fmt.toNat
/-- RBYTES obeys R178. -/
def rbytesOk (f rb : Nat) : Bool :=
  let w := widthOf f
  rb * 8 % w == 0 && (!isBlock f || (rb * 8 % (16 * w) == 0 && rb ≤ (if w ≤ 4 then 64 else if w ≤ 6 then 96 else 112)))
/-- KOFS starts at a byte, and at a block where the format is block-scaled. -/
def kofsOk (f kofs : Nat) : Bool := kofs * widthOf f % 8 == 0 && (!isBlock f || kofs % 16 == 0)
/-- The other member of an accumulator's pair (R175). -/
def partner (z : ZReg) : ZReg := z ^^^ 1

def tagOf (f : Nat) : ZTag := if f = 0 then .fp64 else if f = 0x0A then .i32 else .fp32
def fmtOfTag : ZTag → Nat | .fp32 => 0x01 | .i32 => 0x0A | .fp64 => 0x00

/-! ### Bytes of slots and accumulators (R175, R178) -/

def slotByte (n : SReg) : Nat := 4096 * n.toNat
def accByte (z : ZReg) : Nat := 65536 + 2048 * z.toNat
/-- Row record r of a slot. -/
def Matrix.record (m : Matrix) (n : SReg) (r : Nat) : Nat := m.img.read (slotByte n + 128 * r) 128
/-- Byte of element (i, j) of an accumulator or a pair. -/
def accAt (tag : ZTag) (z : ZReg) (i j : Nat) : Nat := accByte z + (if tag = .fp64 then 128 * i + 8 * j else 64 * i + 4 * j)
def accWidth (tag : ZTag) : Nat := if tag = .fp64 then 8 else 4
def Matrix.acc (m : Matrix) (tag : ZTag) (z : ZReg) (i j : Nat) : Nat := m.img.read (accAt tag z i j) (accWidth tag)
/-- A slot's bytes become zero. -/
def Matrix.zeroSlot (m : Matrix) (n : SReg) : Matrix := { m with img := m.img.clear (slotByte n) (slotByte n + 4096) }
def Matrix.zeroAcc (m : Matrix) (z : ZReg) : Matrix := { m with img := m.img.clear (accByte z) (accByte z + 2048) }
/-- A latch taken from a slot is dropped. -/
def dropLatch (l : Option Latch) (n : SReg) : Option Latch := l.filter fun x => x.slot != n

/-! ### Spill rows and the unit's state (R76, R199, R238) -/

/-- Rows of named accumulators that spill maps hold go to their entries' reserve lines (R238). -/
def State.evictRows (s : State) (zmask : BitVec 16) : State :=
  let mine := s.allTasks.filter fun t => t.slot.isSome && (t.core == s.core.id || t.tid == s.me.tid)
  mine.foldl (fun s t => t.spill.foldl (fun s e =>
    match e.2 with
    | .row r =>
      if zmask.getLsbD (r / 32) then
        let key := spKey s.core.id (0x1C000 + 4096 * (t.slot.getD 0).toNat + 64 * e.1)
        ({ s with sp := s.sp.write key 64 (s.core.mx.img.read (rowByte r) 64) }).onTask t.tid fun x =>
          { x with spill := putBy Prod.fst (e.1, .reserve) x.spill }
      else s
    | _ => s) s) s

/-- The bytes of claimed slots and accumulators. -/
def Matrix.claimed (m : Matrix) : Memory :=
  { cells := m.img.cells.filter fun c => if c.1 < 65536 then m.sHas.getLsbD (c.1 / 4096) else m.zHas.getLsbD ((c.1 - 65536) / 2048) }

/-- What the context keeps of a unit besides the image: the state as its commands have left it, for those of a held queue are saved as
words and issue again (R199). c starts at 0 once the unit is bound again (R197). -/
def Matrix.kept (m : Matrix) : Matrix := { m.asRun with img := {}, shadowCol := 0 }

/-- Places of the image of R199 that claims cover: offset and length. -/
def Matrix.places (m : Matrix) : List (Nat × Nat) :=
  (((List.range 16).filter m.sHas.getLsbD).map fun n => (4096 * n, 4096)) ++ ((List.range 16).filter m.zHas.getLsbD).map fun n => (65536 + 2048 * n, 2048)

/-- The 96 KiB image is written (R199); the manual does not say what stands there of unclaimed slots and accumulators. -/
def State.writeImage (s : State) (cl : BitVec 8) (pid : BitVec 2) (r : Room) (m : Matrix) : State :=
  m.places.foldl (fun s p => s.writeRoom cl pid r p.1 p.2 (m.img.read p.1 p.2)) (s.fillRoom cl pid r matrixBytes)

/-- The image of a kept state is read back. -/
def State.readImage (s : State) (cl : BitVec 8) (pid : BitVec 2) (r : Room) (m : Matrix) : State × Memory :=
  if r = .image then (s, m.img)
  else m.places.foldl (fun a p =>
    let x := a.1.readRoom cl pid r p.1 p.2
    (x.1, a.2.write p.1 p.2 x.2)) (s, {})

/-- The unit's state moves into its task's context; a held queue is saved as words (R76, R199). `none` where no room is left. -/
def State.spillMatrix (s : State) : Option State :=
  let m := s.core.mx
  match s.findTask m.bound with
  | none => some (s.onMx Matrix.unbind)
  | some t =>
    match s.takeSpill (clusterOf s.core.id) t.pid 24 matrixBytes with
    | none => none
    | some (s, r) =>
      some (((s.writeImage (clusterOf s.core.id) t.pid r m).onTask t.tid fun x =>
        { x with mxAway := r, mctx := some m.kept, reissue := m.queue }).onMx Matrix.unbind)

/-- A spilled state comes back before the task's first instruction (R76, R199): the unit's other task is spilled first, and rows
that vectors hold in claimed accumulators go to their reserve lines. -/
def State.refillMatrix (s : State) : State :=
  match s.me.mctx with
  | none => s
  | some m =>
    match (if s.core.mx.bound = 0 then some s else s.spillMatrix) with
    | none => s
    | some s =>
      let s := s.evictRows m.zclaim
      let (s, img) := s.readImage (clusterOf s.core.id) s.me.pid s.me.mxAway m
      let clean := (List.range 16).foldl (fun (k : Matrix) i =>
        let k := if m.sclaim.getLsbD i then k.zeroSlot (BitVec.ofNat 4 i) else k
        if m.zclaim.getLsbD i then k.zeroAcc (BitVec.ofNat 4 i) else k) s.core.mx
      let s := s.onMx fun _ => { m with img := img.cells.foldl (fun (k : Memory) c => k.set c.1 c.2) clean.img }
      (s.onMe fun t => { t with mctx := none, mxAway := .core }).giveRoom (clusterOf s.core.id) s.me.pid s.me.mxAway

/-! ### Checks at issue (R182) -/

/-- The unit is bound to the running task, whose claims or whose commands it holds. -/
def State.mxMine (s : State) : Bool := s.core.mx.bound == s.me.tid && s.me.tid != 0

/-- The unit's queue takes commands of the running task: no other task is bound to the unit. -/
def State.mxOpen (s : State) : Bool := s.mxMine || s.core.mx.bound == 0

/-- A failed check traps with the word's address. -/
def mxCheck (ok : Bool) (c : Cause) (addr : Word) : Act Unit := if ok then pure () else trap c addr

/-- The queue is not held (R196). -/
def needFree (addr : Word) : Act Unit := do
  let s ← get
  mxCheck (!(s.mxMine && s.core.mx.held.isSome)) 0x118 addr

def State.hasSlot (s : State) (n : SReg) : Bool := s.mxMine && s.core.mx.sclaim.getLsbD n.toNat
def State.hasAcc (s : State) (z : ZReg) : Bool := s.mxMine && s.core.mx.zclaim.getLsbD z.toNat
def State.zTag (s : State) (z : ZReg) : ZTag := rd s.core.mx.zIssue z
def State.sTag (s : State) (n : SReg) : SlotTag := rd s.core.mx.sIssue n

/-- Room for one more command (R182): a full queue stalls issue. -/
def needRoom : Act Unit := do
  let s ← get
  if s.mxMine && 16 ≤ s.core.mx.queue.length then
    set s.kickMatrix
    throw .stall

/-- A command enters the queue, which is the running task's until it is empty. -/
def enqueue (c : MCmd) : Act Unit := upd fun s => s.onMx fun m => { m with bound := s.me.tid, queue := m.queue.concat c }

/-- Pages of a range of a matrix load or store, translated and checked at issue (R186, R192). -/
def seePages (va : Word) (n : Nat) (acc : Access) (have_ : List PageAt) : Act (List PageAt) :=
  (pageParts va n).foldlM (fun (ps : List PageAt) q => do
    let pg := q.1.toNat / 65536
    let p ← translate q.1 acc 5
    let pa ← if p.kind = 3 then do
        upd (·.loseReplay 3)
        hostAddr q.1 p (acc == .write)
      else do
        if p.kind = 4 then
          upd (·.loseReplay 3)
          if (← get).pod.fenced.getLsbD (remoteDev p).toNat then trapFree 0x160
        else
          if (← get).windowBad p then trapFree 0x172
          detTouch q.1 p.key q.2 (acc == .write)
        pure p.pa
    let s ← get
    let log := ((tlbHit s.core.tlb s.me.pid s.me.asid q.1.toNat).map (·.log)).getD 16
    return putBy PageAt.page { page := pg, kind := p.kind, pa := pa - q.1.toNat % 65536, ord := p.ord, log := log } ps) have_

/-- Rows of a transfer: r × stride past a base. -/
def rowVa (a stride : Word) (r : Nat) : Word := a + BitVec.ofNat 64 r * stride

/-- Checks every row of n bytes of a transfer, in order. -/
def seeRows (space : BitVec 2) (a stride : Word) (rows n : Nat) (acc : Access) (have_ : List PageAt) : Act (List PageAt) :=
  (List.range rows).foldlM (fun (ps : List PageAt) r => do
    if space = 0 then seePages (rowVa a stride r) n acc ps
    else
      checkSpace space (rowVa a stride r) n 1
      return ps) have_

/-- Scale bytes of a row, and the pitch of the scale stream (R187). -/
def scaleRow (f rb : Nat) : Nat := if isBlock f then rb * 8 / widthOf f / 16 else 0
def scalePitch (f : Nat) (stride : Word) : Word := BitVec.ofInt 64 (stride.toInt * 8 / (16 * widthOf f : Int))

/-! ### The instructions at issue -/

/-- The register after a scalar register, for a scale address (R186). -/
def State.gNext (s : State) (a : GReg) : Word := s.g (a + 1)

/-- Tags of newly claimed slots or accumulators. -/
def claimTags {α : Type} (new : BitVec 16) (x : α) (tags : Vector α 16) : Vector α 16 :=
  (List.range 16).foldl (fun v i => if new.getLsbD i then wr v (BitVec.ofNat 4 i) x else v) tags

/-- Claims begin in the run state: zero bytes, EMPTY slots, FP32 accumulators (R177). -/
def Matrix.claim (m : Matrix) (sm zm : BitVec 16) : Matrix :=
  let m := (List.range 16).foldl (fun (m : Matrix) i =>
    let m := if sm.getLsbD i then m.zeroSlot (BitVec.ofNat 4 i) else m
    if zm.getLsbD i then m.zeroAcc (BitVec.ofNat 4 i) else m) m
  { m with sRun := claimTags sm {} m.sRun, zRun := claimTags zm .fp32 m.zRun }

/-- MCLAIM (R185). -/
def mclaimAct (sm zm : BitVec 16) (addr : Word) : Act Unit := do
  needFree addr
  let s ← get
  if sm ≠ 0 || zm ≠ 0 then
    if !s.mxOpen then
      if !s.core.mx.queue.isEmpty && s.core.mx.held.isNone then
        set s.kickMatrix
        throw .stall
      match s.spillMatrix with
      | some t => set t
      | none => throw .stall
    needRoom
    let s ← get
    let newS := sm &&& ~~~s.core.mx.sclaim
    let newZ := zm &&& ~~~s.core.mx.zclaim
    let s := s.evictRows newZ
    set (s.onMx fun m => { (m.claim (newS &&& ~~~m.sHas) (newZ &&& ~~~m.zHas)) with
      sIssue := claimTags newS {} m.sIssue, zIssue := claimTags newZ .fp32 m.zIssue, sclaim := m.sclaim ||| sm, zclaim := m.zclaim ||| zm })
    enqueue { instr := .mclaim sm zm, addr := addr }
  else if s.mxOpen then
    needRoom
    enqueue { instr := .mclaim sm zm, addr := addr }

/-- MREL (R183, R185): the claims end in the issue view at once; commands queued before it still run on what it releases, and the unit
of a task with no claim left is its own until they have. -/
def mrelAct (sm zm : BitVec 16) (addr : Word) : Act Unit := do
  needFree addr
  let s ← get
  if s.mxOpen then
    needRoom
    upd fun s => s.onMx fun m => { m with
      sclaim := m.sclaim &&& ~~~sm, zclaim := m.zclaim &&& ~~~zm, latchIssue := m.latchIssue.filter fun l => !sm.getLsbD l.slot.toNat }
    enqueue { instr := .mrel sm zm, addr := addr }

/-- A slot becomes EMPTY with zero bytes, and a latch taken from it is dropped (R179). The issue view keeps what a command still queued has
made of the slot since. -/
def State.emptySlot (s : State) (d : SReg) (issue : Bool) : State :=
  s.onMx fun m =>
    let m := { m.zeroSlot d with sRun := wr m.sRun d {}, latchRun := dropLatch m.latchRun d }
    if issue then { m with sIssue := wr m.sIssue d {}, latchIssue := dropLatch m.latchIssue d } else m

/-- An MLDS into a slot is queued behind the head. -/
def Matrix.loadsAgain (m : Matrix) (d : SReg) : Bool :=
  (m.queue.drop 1).any fun q => match q.instr with | .mlds e _ _ _ _ _ _ _ => e == d | _ => false

/-- The last check of MLDS: every byte translates, or lies in reach. -/
def mldsPages (a stride scale : Word) (f : Nat) (space : BitVec 2) (rows rb : Nat) : Act (List PageAt) := do
  let ps ← seeRows space a stride rows rb .read []
  if isBlock f then seeRows space scale (scalePitch f stride) rows (scaleRow f rb) .read ps else return ps

/-- MLDS at issue (R186). -/
def mldsAct (i : Instr) (d : SReg) (a : GReg) (b : GK) (fmt : BitVec 6) (space : BitVec 2) (rows rb : Nat) (addr : Word) : Act Unit := do
  needFree addr
  let s ← get
  let f := fmt.toNat
  let w := widthOf f
  let va := s.g a
  let st := s.gk b
  mxCheck (s.hasSlot d) 0x108 addr
  mxCheck (mldsFmt f) 0x110 addr
  mxCheck (rbytesOk f rb) 0x10B addr
  mxCheck ((w < 16 || (va.toNat % (w / 8) == 0 && st.toNat % (w / 8) == 0)) &&
    (!isBlock f || (st.toInt * 8 % (16 * w : Int) == 0 && a != 63))) 0x10D addr
  needRoom
  let pages ← tryCatch (mldsPages va st (s.gNext a) f space rows rb) fun e => do
    if e != .stall then upd (·.emptySlot d true)
    throw e
  upd fun s => s.onMx fun m => { m with
    sIssue := wr m.sIssue d { st := .loading, fmt := fmt, rows := rows, rbytes := rb }, latchIssue := dropLatch m.latchIssue d }
  enqueue { instr := i, addr := addr, a := va, b := st, scale := s.gNext a, pages := pages }

/-- MLATCH at issue (R188). -/
def mlatchAct (i : Instr) (a : SReg) (fmt : BitVec 6) (nmaj : Bool) (kofs klen : Nat) (addr : Word) : Act Unit := do
  needFree addr
  let s ← get
  let f := fmt.toNat
  let t := s.sTag a
  mxCheck (s.hasSlot a) 0x108 addr
  mxCheck (t.st != .empty) 0x109 addr
  mxCheck (t.fmt == fmt) 0x111 addr
  mxCheck (klen ≤ latchLimit (widthOf f)) 0x113 addr
  mxCheck (if nmaj then !isBlock f && kofs + klen ≤ t.rows && 16 ≤ t.klen else 16 ≤ t.rows && kofs + klen ≤ t.klen && kofsOk f kofs) 0x10B addr
  needRoom
  upd fun s => s.onMx fun m => { m with latchIssue := some { slot := a, fmt := fmt, nmaj := nmaj, kofs := kofs, klen := klen } }
  enqueue { instr := i, addr := addr }

/-- The formats of an MMA may pair (R189). -/
def pairOk (f l : Nat) : Bool := (narrowFmt f && narrowFmt l) || (f == 1 && l == 1) || (f == 0 && l == 0)

/-- MMA at issue (R189). -/
def mmaAct (i : Instr) (d : ZReg) (a : SReg) (fmt : BitVec 6) (rows kofs : Nat) (addr : Word) : Act Unit := do
  needFree addr
  let s ← get
  let f := fmt.toNat
  let t := s.sTag a
  mxCheck (s.hasAcc d && s.hasSlot a && (f != 0 || s.hasAcc (partner d))) 0x108 addr
  mxCheck (t.st != .empty) 0x109 addr
  match s.core.mx.latchIssue with
  | none => trap 0x10A addr
  | some l =>
    let lf := l.fmt.toNat
    mxCheck (t.fmt == fmt) 0x111 addr
    mxCheck (pairOk f lf) 0x112 addr
    mxCheck (l.klen ≤ latchLimit (Nat.max (widthOf f) (widthOf lf))) 0x113 addr
    mxCheck (rows ≤ t.rows && kofs + l.klen ≤ t.klen && kofsOk f kofs) 0x10B addr
    mxCheck (f != 0 || !d.getLsbD 0) 0x10C addr
    mxCheck (if f = 0 then s.zTag d == .fp64 else if intFmt f && intFmt lf then s.zTag d != .fp64 else s.zTag d == .fp32) 0x114 addr
    needRoom
    enqueue { instr := i, addr := addr }

/-- An accumulator or a pair takes a tag; a pair that loses a member is dissolved (R191). -/
def setTag (tags : Vector ZTag 16) (d : ZReg) (t : ZTag) : Vector ZTag 16 :=
  if t = .fp64 then wr (wr tags d .fp64) (partner d) .fp64
  else if rd tags d = .fp64 then wr (wr tags (partner d) .fp32) d t
  else wr tags d t

/-- MZERO at issue (R191). -/
def mzeroAct (i : Instr) (d : ZReg) (fmt : BitVec 6) (addr : Word) : Act Unit := do
  needFree addr
  let s ← get
  let f := fmt.toNat
  mxCheck (f == 0 || f == 1 || f == 0x0A) 0x110 addr
  mxCheck (s.hasAcc d && (f != 0 || s.hasAcc (partner d))) 0x108 addr
  mxCheck (f != 0 || !d.getLsbD 0) 0x10C addr
  needRoom
  upd fun s => s.onMx fun m => { m with zIssue := setTag m.zIssue d (tagOf f) }
  enqueue { instr := i, addr := addr }

/-- An accumulator is claimed, with its partner in a pair, and is not a pair's odd member (R191 to R193). -/
def needAcc (z : ZReg) (addr : Word) (other : Bool := true) : Act Unit := do
  let s ← get
  mxCheck (s.hasAcc z && (s.zTag z != .fp64 || s.hasAcc (partner z))) 0x108 addr
  mxCheck (other && (s.zTag z != .fp64 || !z.getLsbD 0)) 0x10C addr

/-- Formats that MSTZ writes (R192). -/
def mstzFmt (f : Nat) (t : ZTag) : Bool := (1 ≤ f && f ≤ 5) || (0x0A ≤ f && f ≤ 0x0D) || (f == 0 && t == .fp64)

/-- MSTZ at issue (R192). -/
def mstzAct (i : Instr) (z : ZReg) (a : GReg) (b : GK) (fmt : BitVec 6) (space : BitVec 2) (rows : Nat) (addr : Word) : Act Unit := do
  needFree addr
  needAcc z addr
  let s ← get
  let f := fmt.toNat
  let w := widthOf f
  let va := s.g a
  let st := s.gk b
  mxCheck (mstzFmt f (s.zTag z)) 0x110 addr
  mxCheck (va.toNat % (w / 8) == 0 && st.toNat % (w / 8) == 0) 0x10D addr
  needRoom
  let pages ← seeRows space va st rows (2 * w) .write []
  enqueue { instr := i, addr := addr, a := va, b := st, pages := pages }

/-- MRDZ and MWRZ at issue (R193). -/
def mrowAct (i : Instr) (z : ZReg) (row : Word) (half : Bool) (vec : Vec) (addr : Word) : Act Unit := do
  needFree addr
  let s ← get
  needAcc z addr (!half || s.zTag z == .fp64)
  mxCheck (row.toNat < 32) 0x10B addr
  needRoom
  enqueue { instr := i, addr := addr, b := row, vec := vec }

/-- MSCALE at issue (R194). (DEDUCED, assumption 67) -/
def mscaleAct (i : Instr) (z : ZReg) (a : GReg) (fmt : BitVec 6) (addr : Word) : Act Unit := do
  needFree addr
  needAcc z addr
  let s ← get
  mxCheck (s.zTag z != .i32 && fmtOfTag (s.zTag z) == fmt.toNat) 0x114 addr
  needRoom
  enqueue { instr := i, addr := addr, a := s.g a }

/-- MSTAT with SEL = 0 (R195). While another task is bound to the unit the task has no command queued, and it acts at once. (DEDUCED,
assumption 67) -/
def mstatAct (i : Instr) (d : GReg) (clr : BitVec 7) (addr : Word) : Act Unit := do
  needFree addr
  let s ← get
  if s.mxOpen then
    needRoom
    enqueue { instr := i, addr := addr }
  else set ((s.setG d (s.me.fflags.setWidth 64)).onMe fun t => { t with fflags := t.fflags &&& ~~~clr })

/-- MWAIT (R195): it does not issue before the queue is empty and every command has completed (R196), so its own command leaves the queue
as it enters. -/
def mwaitAct (addr : Word) : Act Unit := do
  needFree addr
  waitMatrix

/-- A matrix instruction at issue, with the address that its traps record. -/
def issueMatrix (i : Instr) (addr : Word) : Act Unit := do
  let s ← get
  match i with
  | .mclaim sm zm => mclaimAct sm zm addr
  | .mrel sm zm => mrelAct sm zm addr
  | .mlds d a b f sp rows rb _ => mldsAct i d a b f sp (rows.toNat + 1) (rb.toNat + 1) addr
  | .mlatch a f nmaj kofs klen => mlatchAct i a f nmaj kofs.toNat (klen.toNat + 1) addr
  | .mma d a f rows kofs => mmaAct i d a f (rows.toNat + 1) kofs.toNat addr
  | .mzero d f => mzeroAct i d f addr
  | .mstz z a b f _ sp _ rows => mstzAct i z a b f sp (rows.toNat + 1) addr
  | .mrdz _ z b half => mrowAct i z (s.gk b) half 0 addr
  | .mwrz z v b half => mrowAct i z (s.gk b) half (s.v v) addr
  | .mscale z a f _ => mscaleAct i z a f addr
  | .mstat d clr => mstatAct i d clr addr
  | .mwait => mwaitAct addr
  | _ => pure ()

/-- A matrix instruction: what it queues runs later. -/
def matrixOp (i : Instr) (s : State) : Host.Outcome State Fault Refusal := finish (issueMatrix i s.pc) s
/-- The same for MLDS and MSTZ, which advance MCLK (R187, R192). -/
def matrixMem (i : Instr) (s : State) : Host.Outcome State Fault Refusal := finishMem (issueMatrix i s.pc) s

/-- MCLAIM (R185). -/
def execMclaim (sm zm : BitVec 16) (s : State) : Out := matrixOp (.mclaim sm zm) s
/-- MREL (R185). -/
def execMrel (sm zm : BitVec 16) (s : State) : Out := matrixOp (.mrel sm zm) s
/-- MLDS (R186, R187). -/
def execMlds (d : SReg) (a : GReg) (b : GK) (fmt : BitVec 6) (space : BitVec 2) (rows : BitVec 5) (rb : BitVec 7) (h : Hint) (s : State) : Out :=
  matrixMem (.mlds d a b fmt space rows rb h) s
/-- MLATCH (R188). -/
def execMlatch (a : SReg) (fmt : BitVec 6) (nmaj : Bool) (kofs : BitVec 9) (klen : BitVec 6) (s : State) : Out := matrixOp (.mlatch a fmt nmaj kofs klen) s
/-- MMA (R189, R190). -/
def execMma (d : ZReg) (a : SReg) (fmt : BitVec 6) (rows : BitVec 5) (kofs : BitVec 9) (s : State) : Out := matrixOp (.mma d a fmt rows kofs) s
/-- MZERO (R191). -/
def execMzero (d : ZReg) (fmt : BitVec 6) (s : State) : Out := matrixOp (.mzero d fmt) s
/-- MSTZ (R192). -/
def execMstz (d : ZReg) (a : GReg) (b : GK) (fmt : BitVec 6) (rnd space : BitVec 2) (sat : Bool) (rows : BitVec 5) (s : State) : Out :=
  matrixMem (.mstz d a b fmt rnd space sat rows) s
/-- MRDZ (R193). -/
def execMrdz (d : VReg) (a : ZReg) (b : GK) (half : Bool) (s : State) : Out := matrixOp (.mrdz d a b half) s
/-- MWRZ (R193). -/
def execMwrz (d : ZReg) (a : VReg) (b : GK) (half : Bool) (s : State) : Out := matrixOp (.mwrz d a b half) s
/-- MWAIT (R195). -/
def execMwait (s : State) : Out := matrixOp .mwait s
/-- MSTAT with SEL = 0 (R195). -/
def execMstat (d : GReg) (clr : BitVec 7) (s : State) : Out := matrixOp (.mstat d clr) s
/-- MSCALE (R194). -/
def execMscale (d : ZReg) (a : GReg) (fmt : BitVec 6) (rnd : BitVec 2) (s : State) : Out := matrixOp (.mscale d a fmt rnd) s

/-- The snapshot of R195. -/
def State.mxStat (s : State) : Word :=
  if s.mxMine then
    let m := s.core.mx
    (0 : BitVec 22) ++ BitVec.ofBool m.held.isSome ++ BitVec.ofBool m.latchIssue.isSome ++ (0 : BitVec 3) ++ BitVec.ofNat 5 m.queue.length ++
      m.zclaim ++ m.sclaim
  else 0

/-- MSTAT with SEL = 1 (R195). -/
def execMstatSnapshot (d : GReg) (s : State) : Out := .next (s.setG d s.mxStat).advance

/-! ### The sequencer (R183) -/

/-- The physical place of one byte of a command's range. -/
def MCmd.place (c : MCmd) (va : Word) : Option Phys :=
  (c.pages.find? fun p => p.page == va.toNat / 65536).map fun p => { kind := p.kind, pa := p.pa + va.toNat % 65536, ord := p.ord }

/-- The parts of n bytes of a command's range. -/
def MCmd.parts (c : MCmd) (va : Word) (n : Nat) : List Part :=
  (pageParts va n).filterMap fun q => (c.place q.1).map fun p => { va := q.1, len := q.2, at_ := p }

/-- The bytes of a part, as a load of the task meets them (R206, R252, R276), and the first line among them that is lost, with whether
that is new. -/
def State.mxPart (s : State) (h : Hint) (q : Part) : State × List Byte × Option (Nat × Bool) :=
  let side : Side := { cm := false, key := q.at_.key, kind := q.at_.kind, va := q.va }
  if q.away then
    let r := s.takeBytes side q.len
    (r.1, r.2, none)
  else
    let bad := if s.lostHome q.at_ q.len then some (q.at_.line, false) else s.badLine q.at_.key q.len
    let s := s.touchLines q.at_ q.len (Opt.ofHint h) false
    let k := s.freeCount
    let named (i : Nat) : Bool := s.collNames (q.va + BitVec.ofNat 64 i)
    let bs := (List.range q.len).map fun i => if named i then Config.freeByte k i else BitVec.ofNat 8 (s.seeByte (q.at_.key + i))
    (if (List.range q.len).any named then { s with freeCount := k + 1 } else s, bs, bad)

/-- n bytes of a command's range, and the first line among them that an error destroyed, with whether the error is new. -/
def State.mxBytes (s : State) (c : MCmd) (space : BitVec 2) (h : Hint) (va : Word) (n : Nat) : State × List Byte × Option (Nat × Bool) :=
  if space = 0 then
    (c.parts va n).foldl (fun a q =>
      let r := a.1.mxPart h q
      (r.1, a.2.1 ++ r.2.1, a.2.2.or r.2.2)) (s, [], none)
  else
    let k := s.localKey space va
    let bad := (localLines (localStore space) k n).find? fun l => s.localPoison.contains l || s.localLatent.contains l
    (s, (List.range n).map fun i => (s.localMem space).get (k + i), bad.map fun l => (l, s.localLatent.contains l))

/-- Rows of a command's range, from row r down to 0 left. -/
def State.mxRows (s : State) (c : MCmd) (space : BitVec 2) (h : Hint) (a stride : Word) (n : Nat) (rows : Nat) :
    State × List (List Byte) × Option (Nat × Bool) :=
  (List.range rows).foldl (fun acc r =>
    let x := acc.1.mxBytes c space h (rowVa a stride r) n
    (x.1, acc.2.1.concat x.2.1, acc.2.2.or x.2.2)) (s, [], none)

/-- An uncorrectable error that an MLDS met at a line of a space: the line is poisoned, and one record names the core and the failing address
(R196). -/
def State.mxErrRecord (s : State) (space : BitVec 2) (line : Nat) : State :=
  if space ≠ 0 then if s.localLatent.contains line then s.findLocal line else s.localRecord line
  else
  let n := s.freeCount
  { s with
    freeCount := n + 1, latent := s.latent.filter fun x => x != line
    poison := if s.latent.contains line then line :: s.poison.filter fun x => x != line else s.poison }.report
    { coreRecord (if lineKind line = 0 then 0x04 else 0x02) 3 s.core.id with
      address := BitVec.ofNat 64 (linePa line * 64), syndrome := Config.syndrome n, asid := s.me.asid, tid := s.me.tid
      detail := if lineKind line = 0 then 0 else BitVec.ofNat 64 ((lineKind line).toNat + 4096) }

/-- The queue is held with the offending command at its head, and the cause waits for the next instruction (R196). -/
def State.holdQueue (s : State) (cause : Cause) (addr : Word) : State :=
  s.onMx fun m => { m with held := some cause, pendingTrap := some (cause, addr) }

/-- An MLDS at the head met an error: its slot is EMPTY (R179, R196). -/
def State.failLoad (s : State) (d : SReg) (addr : Word) : State := (s.emptySlot d (!s.core.mx.loadsAgain d)).holdQueue 0x07A addr

/-- An MMA at the head disagreed with the shadow unit: nothing is committed (R196, R395). -/
def State.failMma (s : State) (row col : Nat) (addr : Word) : State :=
  (s.report { coreRecord 0x0F 2 s.core.id with detail := BitVec.ofNat 64 (row + 32 * col), asid := s.me.asid, tid := s.me.tid }).holdQueue 0x13A addr

/-- The head command is done. -/
def State.popCmd (s : State) : State := s.onMx fun m => { m with queue := m.queue.drop 1 }

/-- MLDS in the sequencer (R187). -/
def State.runMlds (s : State) (c : MCmd) (d : SReg) (fmt : BitVec 6) (space : BitVec 2) (rows rb : Nat) (h : Hint) : State :=
  let f := fmt.toNat
  let a := s.mxRows c space h c.a c.b rb rows
  let b := if isBlock f then a.1.mxRows c space h c.scale (scalePitch f c.b) (scaleRow f rb) rows else (a.1, [], none)
  match a.2.2.or b.2.2 with
  | some (l, _) => (b.1.mxErrRecord space l).failLoad d c.addr
  | none =>
    let t : SlotTag := { st := .full, fmt := fmt, rows := rows, rbytes := rb }
    (b.1.onMx fun m =>
      let m := m.zeroSlot d
      let img := (a.2.1.zipIdx).foldl (fun (k : Memory) r => k.putBytes (slotByte d + 128 * r.2) r.1) m.img
      let img := (b.2.1.zipIdx).foldl (fun (k : Memory) r => k.putBytes (slotByte d + 128 * r.2 + 120) r.1) img
      { m with img := img, sRun := wr m.sRun d t, latchRun := dropLatch m.latchRun d
               sIssue := if m.loadsAgain d then m.sIssue else wr m.sIssue d t }).popCmd

/-! ### MMA in the sequencer (R154, R155, R190, R197) -/

/-- One operand of an MMA: element k of its row or column, and the scale of k's block. -/
structure MOperand where
  fmt : Nat
  get : Nat → Nat → Val × Fl
  scale : Nat → Nat → Val

/-- Row i of a slot from KOFS on. -/
def Matrix.operandA (m : Matrix) (n : SReg) (f kofs : Nat) : MOperand where
  fmt := f
  get i k := decAt f (m.record n i) (kofs + k)
  scale i k := decScale (isS8 f) (m.record n i / 2 ^ (8 * (120 + (kofs + k) / 16)) % 256)

/-- Column j of the latch. -/
def Matrix.operandB (m : Matrix) (l : Latch) : MOperand :=
  let f := l.fmt.toNat
  { fmt := f
    get := fun j k => if l.nmaj then decAt f (m.record l.slot (l.kofs + k)) j else decAt f (m.record l.slot j) (l.kofs + k)
    scale := fun j k => decScale (isS8 f) (m.record l.slot j / 2 ^ (8 * (120 + (l.kofs + k) / 16)) % 256) }

/-- The scale of a block with its flag: 1 where the operand is not block-scaled. -/
def MOperand.sc (o : MOperand) (i k : Nat) : Val × Fl :=
  if isBlock o.fmt then
    let v := o.scale i k
    (v, flIf v.isNan flNS)
  else (.num false 1 0 false, 0)

/-- The products of one block: their exact sum times both scales. -/
def blockOf (a b : MOperand) (i j ks ke : Nat) : Val × Fl :=
  let els := (List.range (ke - ks)).map fun k => (a.get i (ks + k), b.get j (ks + k))
  let fl := els.foldl (fun acc e => acc ||| e.1.2 ||| e.2.2) 0
  let t := blockSum .rne (els.map fun e => (e.1.1, e.2.1))
  let sa := a.sc i ks
  let sb := b.sc j ks
  if sa.1.isNan || sb.1.isNan then (.canon, fl ||| t.2 ||| sa.2 ||| sb.2)
  else if t.1.isNan then (.canon, fl ||| t.2)
  else
    let p := mulV (mulV sa.1 sb.1).1 t.1
    (p.1, fl ||| t.2 ||| p.2)

/-- The accumulator after one block (R154, R155), with its flags and whether the sampler checks it (R197). -/
def stepBlock (tag : ZTag) (z : Nat) (t : Val × Fl) : Nat × Fl :=
  match tag with
  | .i32 =>
    match t.1 with
    | .num neg n _ _ =>
      let x := sgn 32 z + toInt neg n
      let c := wrapSat 32 true false x
      (c, t.2 ||| flIf (sgn 32 c != x) flOF)
    | _ => (z, t.2)
  | .fp32 => accumulate 0x01 .rne z t
  | .fp64 => accumulate 0x00 .rne z t

/-- Block length (R154). -/
def blockLen (f : Nat) : Nat := if f = 0 then 1 else if f = 1 then 4 else 16

/-- An element over all blocks: after each block its value and flags. -/
def blocksFrom (tag : ZTag) (a b : MOperand) (i j k len : Nat) : Nat → Nat → Nat → List (Nat × Fl)
  | 0, _, _ => []
  | fuel + 1, blk, z =>
    let ks := len * blk
    if k ≤ ks then []
    else
      let r := stepBlock tag z (blockOf a b i j ks (Nat.min (ks + len) k))
      r :: blocksFrom tag a b i j k len fuel (blk + 1) r.1

/-- The sampler checks a result of a block (R174, R197). -/
def sampled (tag : ZTag) (r : Nat × Fl) : Bool :=
  match tag with
  | .i32 => true
  | .fp32 => shadowChecked 0x01 r
  | .fp64 => shadowChecked 0x00 r

/-- The elements of an MMA: row, column and what each block made of it. -/
def Matrix.mma (m : Matrix) (tag : ZTag) (d : ZReg) (a : SReg) (f kofs rows : Nat) (l : Latch) : List (Nat × Nat × List (Nat × Fl)) :=
  let oa := m.operandA a f kofs
  let ob := m.operandB l
  (List.range rows).flatMap fun i => (List.range 16).map fun j =>
    (i, j, blocksFrom tag oa ob i j l.klen (blockLen f) 64 0 (m.acc tag d i j))

/-- K-blocks of an MMA. -/
def blockCount (f k : Nat) : Nat := (k + blockLen f - 1) / blockLen f

/-- The shadow unit's result contradicts a result of a block (R174, R197). -/
def contradicts (tag : ZTag) (x : Nat) (v : ShadowVal) : Bool :=
  match tag with
  | .i32 => shadowInt (sgn 32 x) != v
  | .fp32 => (shadowDiffers 0x01 x v).isSome
  | .fp64 => (shadowDiffers 0x00 x v).isSome

/-- The results of an element that the sampler checks: those of the blocks at which its column is c (R197). -/
def Matrix.sampledOf (m : Matrix) (tag : ZTag) (e : Nat × Nat × List (Nat × Fl)) : List Nat :=
  ((e.2.2.zipIdx).filter fun b => (m.shadowCol.toNat + b.2) % 16 == e.2.1 && sampled tag b.1).map fun b => b.1.1

/-- The first element whose sampled result the shadow unit contradicts (R197). -/
def State.sampleHit (s : State) (tag : ZTag) (els : List (Nat × Nat × List (Nat × Fl))) : Option (Nat × Nat) :=
  (els.find? fun e => (s.core.mxShadowErr.any fun x => x.1 == e.1 && x.2.1 == e.2.1 &&
    (s.core.mx.sampledOf tag e).any fun z => contradicts tag z x.2.2)).map fun e => (e.1, e.2.1)

/-- MMA in the sequencer (R190): nothing, where an error has emptied its slot or its latch (R196). -/
def State.runMma (s : State) (c : MCmd) (d : ZReg) (a : SReg) (f rows kofs : Nat) : State :=
  match s.core.mx.latchRun with
  | none => s.popCmd
  | some l =>
    if (rd s.core.mx.sRun a).st = .empty then s.popCmd
    else
      let tag := rd s.core.mx.zRun d
      let els := s.core.mx.mma tag d a f kofs rows l
      let hit := s.sampleHit tag els
      let s := if s.core.mxShadowErr.isEmpty then s else s.onCore fun k => { k with mxShadowErr := [] }
      match hit with
      | some (i, j) => s.failMma i j c.addr
      | none =>
        let fl := els.foldl (fun acc e => e.2.2.foldl (fun acc b => acc ||| b.2) acc) 0
        ((s.onMx fun m => { m with
          img := els.foldl (fun (k : Memory) e => match e.2.2.getLast? with
            | some z => k.write (accAt tag d e.1 e.2.1) (accWidth tag) z.1
            | none => k) m.img
          shadowCol := m.shadowCol + BitVec.ofNat 4 (blockCount f l.klen) }).orFlags fl).popCmd

/-- The bytes of one row of an MSTZ with its flags (R192). -/
def Matrix.storeRow (m : Matrix) (tag : ZTag) (z : ZReg) (f : Nat) (mode : Rnd) (sat : Bool) (i : Nat) : Nat × Fl :=
  let w := widthOf f
  (List.range 16).foldl (fun acc j =>
    let e := decElem (fmtOfTag tag) (m.acc tag z i j)
    let r := cvtTo f mode sat false e.1
    (acc.1 + r.1 % 2 ^ w * 2 ^ (w * j), acc.2 ||| r.2)) (0, 0)

/-- Bytes that an MSTZ replaces by those of `v`, which loads of its task may see until MWAIT (R198). -/
def State.shadeOld (s : State) (space : BitVec 2) (key n v : Nat) : State :=
  let old := (List.range n).map fun i =>
    { space := space, key := key + i, new := BitVec.ofNat 8 (v / 2 ^ (8 * i))
      old := if space = 0 then BitVec.ofNat 8 (s.seeByte (key + i)) else (s.localMem space).get (key + i) : ShadeByte }
  s.onMx fun m => { m with shade := old ++ m.shade }

/-- A part of a row leaves for the host or another device, or reaches its home (R252, R271, R276). -/
def State.rowPart (s : State) (q : Part) (v : Nat) : State :=
  if q.at_.kind = 3 then s.postHost (BitVec.ofNat 64 q.at_.pa) (bytesOf v q.len)
  else if q.at_.kind = 4 then s.postRemote s.me.tid q.at_ q.va (bytesOf v q.len) s.me.retired 0
  else
    let old := s.mem.read q.at_.key q.len
    (((s.storeHome q.at_ q.len v {}).spoil q.va q.at_ q.len)).noteStore q.at_.key q.len old

/-- One row of an MSTZ reaches memory: staged where the task is replayable (R192, R252). -/
def State.storeRowAt (s : State) (c : MCmd) (space : BitVec 2) (va : Word) (n v : Nat) : State :=
  if space = 0 then
    let qs := cutValue v (c.parts va n)
    let s := (qs.filter fun q => !q.1.away).foldl (fun s q => s.shadeOld 0 q.1.at_.key q.1.len q.2) s
    if s.me.replayable && s.roomStaged (qs.flatMap fun q => linesOf q.1.at_.key q.1.len) then
      qs.foldl (fun s q =>
        (s.noteStore q.1.at_.key q.1.len (s.seeBytes q.1.at_.key q.1.len)).stageAt q.1.va q.1.at_.key q.1.len q.2) s
    else qs.foldl (fun s q => s.rowPart q.1 q.2) (s.loseReplay 1)
  else (s.shadeOld space (s.localKey space va) n v).writeLocal space va n v

/-- MSTZ in the sequencer (R192). -/
def State.runMstz (s : State) (c : MCmd) (z : ZReg) (f : Nat) (mode : Rnd) (space : BitVec 2) (sat : Bool) (rows : Nat) : State :=
  let tag := rd s.core.mx.zRun z
  let rs := (List.range rows).map fun i => (i, s.core.mx.storeRow tag z f mode sat i)
  ((rs.foldl (fun s r => s.storeRowAt c space (rowVa c.a c.b r.1) (2 * widthOf f) r.2.1) s).orFlags (flagsOf rs)).popCmd

/-- Byte of an accumulator row that MRDZ and MWRZ name (R193). -/
def rowAt (tag : ZTag) (z : ZReg) (row : Nat) (half : Bool) : Nat :=
  accByte z + if tag = .fp64 then 128 * row + (if half then 64 else 0) else 64 * row

/-- MSCALE in the sequencer (R194): one rounding, with a canonical NaN. -/
def State.runMscale (s : State) (c : MCmd) (z : ZReg) (mode : Rnd) : State :=
  let tag := rd s.core.mx.zRun z
  let f := fmtOfTag tag
  let x := c.a.toNat % 2 ^ widthOf f
  let els := (List.range 32).flatMap fun i => (List.range 16).map fun j => (accAt tag z i j, fMul f mode false (s.core.mx.acc tag z i j) x)
  ((s.onMx fun m => { m with img := els.foldl (fun (k : Memory) e => k.write e.1 (accWidth tag) e.2.1) m.img }).orFlags (flagsOf els)).popCmd

/-- What the command at the head of the queue does. -/
def State.runCmd (s : State) (c : MCmd) : State :=
  match c.instr with
  | .mclaim sm zm =>
    (s.onMx fun m => { (m.claim (sm &&& ~~~m.sHas) (zm &&& ~~~m.zHas)) with sHas := m.sHas ||| sm, zHas := m.zHas ||| zm }).popCmd
  | .mrel sm zm =>
    (s.onMx fun m => { m with
      sHas := m.sHas &&& ~~~sm, zHas := m.zHas &&& ~~~zm, latchRun := m.latchRun.filter fun l => !sm.getLsbD l.slot.toNat }).popCmd
  | .mlds d _ _ f sp rows rb h => s.runMlds c d f sp (rows.toNat + 1) (rb.toNat + 1) h
  | .mlatch a f nmaj kofs klen =>
    let l : Latch := { slot := a, fmt := f, nmaj := nmaj, kofs := kofs.toNat, klen := klen.toNat + 1 }
    (s.onMx fun m => { m with latchRun := if (rd m.sRun a).st = .empty then none else some l }).popCmd
  | .mma d a f rows kofs => s.runMma c d a f.toNat (rows.toNat + 1) kofs.toNat
  | .mzero d f =>
    (s.onMx fun m =>
      let t := tagOf f.toNat
      let both : Bool := t == .fp64 || rd m.zRun d == .fp64
      let k := if both then (m.zeroAcc d).zeroAcc (partner d) else m.zeroAcc d
      { k with zRun := setTag m.zRun d t }).popCmd
  | .mstz z _ _ f rnd sp sat rows => s.runMstz c z f.toNat (Rnd.of rnd) sp sat (rows.toNat + 1)
  | .mrdz d z _ half =>
    (s.setV d (BitVec.ofNat 512 (s.core.mx.img.read (rowAt (rd s.core.mx.zRun z) z c.b.toNat half) 64))).popCmd
  | .mwrz z _ _ half =>
    (s.onMx fun m => { m with img := m.img.write (rowAt (rd m.zRun z) z c.b.toNat half) 64 c.vec.toNat }).popCmd
  | .mscale z _ _ rnd => s.runMscale c z (Rnd.of rnd)
  | .mstat d clr => ((s.setG d (s.me.fflags.setWidth 64)).onMe fun t => { t with fflags := t.fflags &&& ~~~clr }).popCmd
  | _ => s.popCmd

/-- An idle unit's issue view is its run state: a latch that an error left out is gone (R196). One whose task has no claim left is unbound
(R185). -/
def State.syncView (s : State) : State :=
  s.onMx fun m =>
    if !m.queue.isEmpty then m
    else if m.sclaim = 0 && m.zclaim = 0 then m.unbind
    else { m with latchIssue := m.latchRun, sIssue := m.sRun, zIssue := m.zRun }

/-- The sequencer of the active core runs the command at its head, for the task that is bound there, which need not run (R183, R185). -/
def State.runHead (s : State) : State :=
  match s.core.mx.queue with
  | q :: _ => if s.core.mx.held.isNone then s.forTask s.core.mx.bound fun t => (t.runCmd q).syncView else s
  | [] => s

/-- The sequencer of a core runs its next command (R183). -/
def execSequencerRunCommand (c : BitVec 16) (s : State) : Out := .next (s.activate c).runHead

/-- The line that a byte of a space lies in. -/
def MCmd.lineAt (s : State) (c : MCmd) (space : BitVec 2) (va : Word) : Nat :=
  if space = 0 then (match c.place va with | some p => p.line | none => 0)
  else (localLines (localStore space) (s.localKey space va) 1).headD 0

/-- An MMA samples the element (row, col) in one of its blocks (R197). -/
def State.samples (s : State) (d : ZReg) (a : SReg) (f rows kofs row col : Nat) : Bool :=
  match s.core.mx.latchRun with
  | none => false
  | some l =>
    let tag := rd s.core.mx.zRun d
    (rd s.core.mx.sRun a).st != .empty &&
      (s.core.mx.mma tag d a f kofs rows l).any fun e => e.1 == row && e.2.1 == col && !(s.core.mx.sampledOf tag e).isEmpty

/-- The command at the head is found at fault (R196): a load of data that an error destroyed, or an MMA that the shadow unit
contradicts at a row and a column, where it samples them (R197). -/
def execMatrixDeferredTrap (c : BitVec 16) (shadow : Bool) (row : BitVec 5) (col : BitVec 4) (s : State) : Out :=
  let t := s.activate c
  .next (match t.core.mx.queue with
    | q :: _ =>
      if t.core.mx.held.isNone then
        t.forTask t.core.mx.bound fun t =>
          match q.instr, shadow with
          | .mlds d _ _ _ sp _ _ _, false => (t.mxErrRecord sp (q.lineAt t sp q.a)).failLoad d q.addr
          | .mma d a f rows kofs, true =>
            if t.samples d a f.toNat (rows.toNat + 1) kofs.toNat row.toNat col.toNat then t.failMma row.toNat col.toNat q.addr else t
          | _, _ => t
      else t
    | [] => t)

end Sys2Proof.Machine
end

