-- ==== Sys2Proof/Machine/Collect.lean ====
section
/-!
DEFINITION. Collectives, major 0x0E (R276, R320 to R323). What another device contributes is not part of this machine: its bytes
are free values, and whether its descriptor agrees is a free choice (DESIGN CHOICE, assumption 16).
-/

namespace Sys2Proof.Machine

/-! ### Buffers (R276, R321) -/

/-- The rows of a whole buffer, dimension 1 innermost. -/
def Tsr.rowsOf (t : Tsr) : List (Nat × Nat × Nat) :=
  (List.range t.e3).flatMap fun i3 => (List.range t.e2).flatMap fun i2 => (List.range t.e1).map fun i1 => (i1, i2, i3)

def Tsr.rowLen (t : Tsr) : Nat := (t.e0 * t.w + 7) / 8
def Tsr.scaleLen (t : Tsr) : Nat := if isBlock t.fmt then t.e0 / 16 else 0
def Tsr.rowVa (t : Tsr) (i : Nat × Nat × Nat) : Word := t.base + BitVec.ofInt 64 (i.1 * t.s1 + i.2.1 * t.s2 + i.2.2 * t.s3)
def Tsr.scaleVa (t : Tsr) (i : Nat × Nat × Nat) : Word := t.scale + BitVec.ofNat 64 (((i.2.2 * t.e2 + i.2.1) * t.e1 + i.1) * (t.e0 / 16))

/-- The bytes that a record describes, by row: data and scales. -/
def Tsr.spans (t : Tsr) (i : Nat × Nat × Nat) : List (Word × Nat) :=
  (t.rowVa i, t.rowLen) :: if isBlock t.fmt then [(t.scaleVa i, t.scaleLen)] else []

/-- Every byte that a record describes. -/
def Tsr.named (t : Tsr) : List (Word × Nat) := t.rowsOf.flatMap t.spans

/-! ### COLL (R320, R321) -/

/-- A descriptor's 64 bytes, read by the running task. -/
def readDescriptor (va : Word) : Act Nat := do
  if va.toNat % 64 ≠ 0 then trapFree 0x100
  readV va 64

/-- A shape record, read and checked. -/
def readShapeAt (va : Word) (red : Bool) : Act (List Word) := do
  if va.toNat % 64 ≠ 0 then trapFree 0x070
  let x ← readV va 64
  let ws := (List.range 8).map fun i => BitVec.ofNat 64 (x / 2 ^ (64 * i))
  let t := tsrOf ws
  if red && !([0, 1, 2, 3, 9, 10].contains t.fmt) then trapFree 0x103
  match t.formCause with
  | some c => trapFree c
  | none => return ws

/-- The group's device ids in rank order. -/
def readGroup (va : Word) (n : Nat) : Act (List (BitVec 16)) :=
  (List.range n).mapM fun i => do return BitVec.ofNat 16 (← readV (va + BitVec.ofNat 64 (8 + 2 * i)) 2)

/-- This device's id as a group descriptor gives it. -/
def State.memberId (s : State) : BitVec 16 := s.deviceId.setWidth 16

/-- The id of a collective: the number of those that this device has seen. -/
def State.collId (s : State) : BitVec 32 := s.nextOp

/-- COLL. -/
def collAct (a : Word) : Act Unit := do
  upd (·.loseReplay 3)
  let x ← readDescriptor a
  let gva := BitVec.ofNat 64 (fld x 128 64)
  let op := fld x 192 8
  let rop := fld x 200 8
  let root := fld x 208 16
  if fld x 224 32 ≠ 0 || fld x 384 128 ≠ 0 || 4 < op || 2 < rop then trapFree 0x100
  if gva.toNat % 64 ≠ 0 then trapFree 0x100
  let g ← readV gva 8
  let n := fld g 0 32
  if fld g 32 32 ≠ 0 || n = 0 || 1024 < n then trapFree 0x100
  if op = 3 && n ≤ root then trapFree 0x100
  let ids ← readGroup gva n
  let s ← get
  if !ids.contains s.memberId || ids.eraseDups.length ≠ n then trapFree 0x101
  let sva := BitVec.ofNat 64 (fld x 0 64)
  let dva := BitVec.ofNat 64 (fld x 64 64)
  let src ← if op = 4 then pure [] else readShapeAt sva (op ≤ 1)
  let dst ← if op = 4 || dva = 0 then pure [] else readShapeAt dva (op ≤ 1)
  let s ← get
  if 8 ≤ (s.colls.filter fun c => c.tid == s.me.tid).length then trapFree 0x104
  releaseAt 5
  let s ← get
  let t := tsrOf src
  let id := s.collId
  let p : CollPart := {
    tid := s.me.tid, pid := s.me.pid, asid := s.me.asid, id := id, desc := a, op := op, rop := rop, root := root, group := ids
    rank := ids.idxOf s.memberId, ctag := BitVec.ofNat 64 (fld x 256 64), fmt := t.fmt, ext := [t.e0, t.e1, t.e2, t.e3], src := src, dst := dst
    ctr := BitVec.ofNat 64 (fld x 320 64)
    named := if op = 4 then [] else t.named ++ (if dst.isEmpty then [] else (tsrOf dst).named) }
  let s := { s with colls := s.colls.concat p, nextOp := s.nextOp + 1 }
  set (if n = 1 then s.push (.collectiveComplete id) else s)

/-- COLL (R321). -/
def execColl (a : GReg) (s : State) : Out := finish (collAct (s.g a)) s

/-- COLLWAIT. The park's reason is not among those of R363: a free value (DESIGN CHOICE, assumption 17). -/
def collwaitAct (a : Word) : Act Unit := do
  let s ← get
  match s.colls.find? fun c => c.tid == s.me.tid && c.desc == a with
  | none => trap 0x105 a
  | some c =>
    if c.finished then
      set { s with colls := s.colls.filter fun (x : CollPart) => x.id != c.id }
      match c.outcome with
      | some e => trapFree e
      | none => pure ()
    else
      set { s with colls := s.colls.map fun (x : CollPart) => if x.id == c.id then { x with waiting := true } else x }
      let n ← fresh
      throw (.park ((Config.freeWord n).setWidth 9) a)

/-- COLLWAIT (R321). -/
def execCollwait (a : GReg) (s : State) : Out := finish (collwaitAct (s.g a)) s

/-! ### The engine (R321, R322) -/

/-- One step of a reduction's tree (R322). -/
def collStep (fmt rop a b : Nat) : Nat :=
  if isFloat fmt then
    (match rop with
    | 0 => fAdd fmt .rne false a b
    | 1 => fMinMax false fmt false a b
    | _ => fMinMax true fmt false a b).1
  else
    let w := widthOf fmt
    match rop with
    | 0 => (a + b) % 2 ^ w
    | 1 => if sgn w b < sgn w a then b else a
    | _ => if sgn w a < sgn w b then b else a

/-- One level: neighbours combine, and an unpaired last value is carried up. -/
def treeLevel (f : Nat → Nat → Nat) : List Nat → List Nat
  | a :: b :: rest => f a b :: treeLevel f rest
  | l => l

/-- The tree over ranks in order; `fuel` bounds its levels. -/
def treeReduce (f : Nat → Nat → Nat) : Nat → List Nat → Nat
  | 0, l => l.headD 0
  | n + 1, l => treeReduce f n (treeLevel f l)

/-- n bytes that the engine reads: through the task's address space, page by page. -/
def State.collRead (s : State) (p : CollPart) : List (Word × Nat) → Except EngStop (State × List Byte × Bool)
  | [] => .ok (s, [], false)
  | q :: qs =>
    match s.sideOf p.pid p.asid (s.getTask p.tid).cl [] (.va q.1) .read with
    | .error e => .error e
    | .ok (s, x) =>
      let bad := (linesOf x.key q.2).any fun l => s.sideBad x l || s.latent.contains l
      let s := if x.away then s else (linesOf x.key q.2).foldl (fun (t : State) l => t.combine l) s
      let r := s.takeBytes x q.2
      match r.1.collRead p qs with
      | .error e => .error e
      | .ok (s, bs, b) => .ok (s, r.2 ++ bs, bad || b)

/-- Page parts of spans. -/
def partsOf (l : List (Word × Nat)) : List (Word × Nat) :=
  l.flatMap fun q =>
    (List.range (q.2 / 65536 + 2)).filterMap fun i =>
      let lo := if i = 0 then 0 else 65536 - q.1.toNat % 65536 + 65536 * (i - 1)
      let hi := Nat.min q.2 (65536 - q.1.toNat % 65536 + 65536 * i)
      if lo < hi then some (q.1 + BitVec.ofNat 64 lo, hi - lo) else none

/-- Writes bytes over parts; an error that destroyed a source goes with them (R390). A page that refuses for good is left out. -/
def State.collWrite (s : State) (p : CollPart) (bad : Bool) : List (Word × Nat) → List Byte → State
  | [], _ => s
  | q :: qs, bs =>
    let b := bs.take q.2
    let s := match s.sideOf p.pid p.asid (s.getTask p.tid).cl [] (.va q.1) .write with
      | .error (.attr va c) => s.reportRecord p.pid (s.about p.tid p.asid) 0 c va 0 0
      | .error (.fault _ _) => s
      | .ok (s, x) =>
        if x.away then s.sendBytes x b (opJob p.id)
        else
          let s := (linesOf x.key q.2).foldl (fun (t : State) l => (t.combine l).dropOthers none l) s
          let s := { s with mem := s.mem.putBytes x.key b }
          let s := if bad then { s with poison := s.poison ++ (linesOf x.key q.2).filter fun l => !s.poison.contains l } else s
          s.wrote x.key q.2
    s.collWrite p bad qs (bs.drop q.2)

/-- The bytes that another rank would contribute. -/
def freeBytes (tag n : Nat) : List Byte := (List.range n).map (Config.freeByte tag)

/-- The record that the engine writes through: DST, or SRC in place. -/
def CollPart.target (p : CollPart) : Tsr := tsrOf (if p.dst.isEmpty then p.src else p.dst)

/-- The extent of dimension 1 that a rank's own source covers. -/
def CollPart.part1 (p : CollPart) : Nat :=
  let t := tsrOf p.src
  if p.op = 2 && p.dst.isEmpty then t.e1 / p.group.length else t.e1

/-- The extents and formats of a participant's own records agree (R321). -/
def CollPart.fits (p : CollPart) : Bool :=
  let t := tsrOf p.src
  let d := p.target
  let n := p.group.length
  p.op == 4 || (t.fmt == d.fmt && t.e0 == d.e0 && t.e2 == d.e2 && t.e3 == d.e3 &&
    (match p.op with
    | 1 => t.e1 % n == 0 && (p.dst.isEmpty || d.e1 == t.e1 / n)
    | 2 => if p.dst.isEmpty then t.e1 % n == 0 else d.e1 == t.e1 * n
    | _ => d.e1 == t.e1))

/-- The rows that a participant writes, each with the row of the source that it comes from and the rank that gives it (none: all
ranks, reduced). -/
def CollPart.plan (p : CollPart) : List ((Nat × Nat × Nat) × (Nat × Nat × Nat) × Option Nat) :=
  let d := p.target
  let n := p.group.length
  match p.op with
  | 0 => d.rowsOf.map fun i => (i, i, none)
  | 1 =>
    let k := (tsrOf p.src).e1 / n
    let mine := if p.dst.isEmpty then d.rowsOf.filter fun i => i.1 / k == p.rank else d.rowsOf
    mine.map fun i => (i, if p.dst.isEmpty then i else (i.1 + p.rank * k, i.2.1, i.2.2), none)
  | 2 =>
    let k := p.part1
    d.rowsOf.map fun i => (i, if p.dst.isEmpty then i else (i.1 % k, i.2.1, i.2.2), some (i.1 / k))
  | 3 => d.rowsOf.map fun i => (i, i, some p.root)
  | _ => []

/-- Elements of w bits from bytes, and back. -/
def bytesNat (bs : List Byte) : Nat := bs.foldr (fun b acc => b.toNat + 256 * acc) 0
def natBytes (n x : Nat) : List Byte := (List.range n).map fun i => BitVec.ofNat 8 (x / 2 ^ (8 * i))

/-- A reduced row: each element over the tree of all ranks. -/
def CollPart.reduceRow (p : CollPart) (rows : List (List Byte)) : List Byte :=
  let w := widthOf p.fmt
  let vals := rows.map bytesNat
  let e0 := p.ext.headD 0
  (List.range e0).flatMap fun i => natBytes (w / 8) (treeReduce (collStep p.fmt p.rop) rows.length (vals.map fun v => elemBits v w i))

/-- One row of the result: its bytes, and whether an error destroyed what it comes from. -/
def State.collRow (s : State) (p : CollPart) (src : Nat × Nat × Nat) (from_ : Option Nat) : Except EngStop (State × List Byte × Bool) :=
  let t := tsrOf p.src
  let len := t.rowLen + t.scaleLen
  match from_ with
  | some q =>
    if q = p.rank then s.collRead p (partsOf (t.spans src))
    else .ok ({ s with freeCount := s.freeCount + 1 }, freeBytes s.freeCount len, false)
  | none =>
    match s.collRead p (partsOf (t.spans src)) with
    | .error e => .error e
    | .ok (s, own, bad) =>
      let rows := (List.range p.group.length).map fun q => if q = p.rank then own else freeBytes (s.freeCount + q) len
      .ok ({ s with freeCount := s.freeCount + p.group.length }, p.reduceRow rows, bad)

/-- Every row of the result, before any is written. -/
def State.collRows (s : State) (p : CollPart) :
    List ((Nat × Nat × Nat) × (Nat × Nat × Nat) × Option Nat) → Except EngStop (State × List ((Nat × Nat × Nat) × List Byte × Bool))
  | [] => .ok (s, [])
  | r :: rs =>
    match s.collRow p r.2.1 r.2.2 with
    | .error e => .error e
    | .ok (s, bs, bad) =>
      match s.collRows p rs with
      | .error e => .error e
      | .ok (s, l) => .ok (s, (r.1, bs, bad) :: l)

/-- The first page of a participant's destination that a fault holds back. -/
def State.collBlocked (s : State) (p : CollPart) : Option (Word × Cause) :=
  ((p.plan.flatMap fun r => partsOf (p.target.spans r.1)).findSome? fun q =>
    match s.sideOf p.pid p.asid (s.getTask p.tid).cl [] (.va q.1) .write with
    | .error (.fault va c) => some (va, c)
    | _ => none)

/-- The collective has ended for a participant: its counter, its waiter (R321, R323). -/
def State.endColl (s : State) (p : CollPart) (out : Option Cause) : State :=
  let x := s.getTask p.tid
  let s := if out.isNone && p.ctr != 0 then s.devAddOrWait p.pid p.asid x.cl p.ctr 1 (s.about p.tid p.asid) 0 else s
  let s := if (s.findTask p.tid).isSome then
      { s with colls := s.colls.map fun y => if y.id == p.id then { y with finished := true, outcome := out, waiting := false, paused := false } else y }
    else { s with colls := s.colls.filter fun y => y.id != p.id }
  if p.waiting then s.wakeTail p.tid else s

/-- Bytes of ranges become undefined where they translate (R276, R323). -/
def State.forgetVa (s : State) (p : CollPart) (l : List (Word × Nat)) : State :=
  (partsOf l).foldl (fun s q =>
    match s.sideOf p.pid p.asid (s.getTask p.tid).cl [] (.va q.1) .write with
    | .ok (s, x) => if x.away then s else { s with mem := s.mem.forget x.key (x.key + q.2) s.freeCount, freeCount := s.freeCount + 1 }
    | .error _ => s) s

/-- A page stops the engine: one fault record, and the collective goes on at replay-all (R430, DESIGN CHOICE, assumption 16). -/
def State.pauseColl (s : State) (p : CollPart) (va : Word) (c : Cause) (acc : Access) : State :=
  let x := s.getTask p.tid
  let s := s.pageFault p.pid x.cl (coreIn x.cl 0) p.asid p.tid va c 7 false acc
  { s with colls := s.colls.map fun y => if y.id == p.id then { y with paused := true } else y }

/-- The collective's bytes are in place: CTR receives 1 once every write to another device has its answer (R321). -/
def State.settleColl (s : State) (p : CollPart) : State :=
  let e : Ev := .collectiveComplete p.id
  if s.jobOut (opJob p.id) then { s with colls := s.colls.map fun (y : CollPart) => if y.id == p.id then { y with moved := true } else y }.wait e
  else ((s.unwait e).forgetVa p p.spoiled).endColl p none

/-- What the collective does for a participant. -/
def State.runColl (s : State) (p : CollPart) : State :=
  if p.moved then s.settleColl p
  else if !p.fits then s.endColl p (some 0x102)
  else
    match s.collBlocked p with
    | some (va, c) => s.pauseColl p va c .write
    | none =>
      match s.collRows p p.plan with
      | .error (.fault va c) => s.pauseColl p va c .read
      | .error (.attr va c) => (s.reportRecord p.pid (s.about p.tid p.asid) 0 c va 0 0).endColl p none
      | .ok (s, rows) =>
        (rows.foldl (fun s r => s.collWrite p r.2.2 (partsOf (p.target.spans r.1)) r.2.1) s).settleColl p

/-- A collective completes (R321, R323): with other devices taking part, their descriptors agree or they do not, and containment has killed a
participant of one of them or has not. -/
def execCollectiveComplete (s : State) : Out :=
  match s.ev with
  | some (.collectiveComplete id) =>
    match s.colls.find? fun c => c.id == id && !c.finished with
    | none => .next s
    | some p =>
      if p.group.any fun d => s.pod.fenced.getLsbD d.toNat then .next ((s.forgetVa p p.target.named).endColl p (some 0x106))
      else if p.group.length = 1 || p.moved then .next (s.runColl p)
      else
        let t := { s with freeCount := s.freeCount + 1 }
        .next (match Config.freeNat s.freeCount % 3 with
          | 0 => t.runColl p
          | 1 => t.endColl p (some 0x102)
          | _ => (t.forgetVa p p.target.named).endColl p (some 0x106))
  | _ => .next s

/-- A reduction server combines a partial sum and forwards it as the core's REDTREE says (R322): to a core of this device or of
another, or to the engine, whose collective then completes. -/
def execReductionPartialSum (s : State) : Out :=
  match s.ev with
  | some (.reductionPartialSum c id) =>
    let r := (s.getCore c).redtree
    let dev : BitVec 10 := r.extractLsb' 16 10
    let core : BitVec 16 := r.extractLsb' 0 16
    if !r.getLsbD 63 then .next (if s.agenda.contains (.collectiveComplete id) then s else s.push (.collectiveComplete id))
    else if dev = s.deviceId then .next (s.push (.reductionPartialSum core id))
    else .next { s with fabricOut := s.fabricOut.concat (dev, .partialSum core id) }
  | _ => .next s

/-! ### The partial sums of a cell (R79) -/

/-- One addition in an accumulator's format: under RNE, and clamped in an I32 accumulator (R154, R155). -/
def cellAdd (tag : ZTag) (a b : Nat) : Nat :=
  match tag with
  | .i32 => wrapSat 32 true false (sgn 32 a + sgn 32 b)
  | .fp32 => (fAdd 0x01 .rne false a b).1
  | .fp64 => (fAdd 0x00 .rne false a b).1

/-- The fixed tree over the partial sums of the cell's four cores: (p0 + p1) + (p2 + p3). -/
def cellTree (tag : ZTag) (p : Fin 4 → Nat) : Nat := cellAdd tag (cellAdd tag (p 0) (p 1)) (cellAdd tag (p 2) (p 3))

/-- The partial sum that core n of a cell holds for element (i, j) of accumulator z. -/
def State.cellPart (s : State) (leader : BitVec 16) (tag : ZTag) (z : ZReg) (i j : Nat) (n : Fin 4) : Nat :=
  (s.getCore (leader + BitVec.ofNat 16 n)).mx.acc tag z i j

/-- A cell reduces a result tile built from the partial sums in accumulator z of its four cores, and the leader writes the result (R79). No
instruction and no event of the tables asks for it. -/
def State.cellReduce (s : State) (leader : BitVec 16) (tag : ZTag) (z : ZReg) : State :=
  let sums := (List.range 32).flatMap fun i => (List.range 16).map fun j =>
    (accAt tag z i j, cellTree tag (s.cellPart leader tag z i j))
  s.onCoreId leader fun k => { k with mx := { k.mx with img := sums.foldl (fun (m : Memory) e => m.write e.1 (accWidth tag) e.2) k.mx.img } }

/-- A device's loss ends every collective that it takes part in (R323). -/
def State.collPeerLost (s : State) (d : BitVec 10) : State :=
  (s.colls.filter fun c => !c.finished && c.group.contains (d.setWidth 16)).foldl (fun s p => (s.forgetVa p p.target.named).endColl p (some 0x106)) s

end Sys2Proof.Machine
end

