-- ==== Sys2Proof/Decode.lean ====
section
/-!
DEFINITION. Decoding of the 96-bit instruction word (R84, R88, R92 to R102) with the checks of R100 in their order, the
encoder written from the same tables, the decoding of a command slot (R45), and `decodeTableWord`.
-/

namespace Sys2Proof

/-- Why a word is refused: checks 5 to 7 of R100, by name. -/
inductive DecodeFault where
  | word
  | guard
  | hint
  | encoding
  | cls
  | unused
  | format
  | xField
  deriving DecidableEq, Repr

/-- The cause code of a refusal (R100, R363). -/
def DecodeFault.cause : DecodeFault → Cause
  | .word => 0x020
  | .guard => 0x021
  | .hint => 0x022
  | .encoding => 0x018
  | .cls => 0x019
  | .unused => 0x01A
  | .format => 0x024
  | .xField => 0x023

/-- An operand field by its class (R92). -/
inductive Opnd where
  | g (r : GReg)
  | v (r : VReg)
  | z (r : ZReg)
  | s (r : SReg)
  | q (r : QReg)
  | k (c : BitVec 6)
  deriving DecidableEq, Repr

/-- Bits [i + n − 1 : i] of X. -/
def lo (x : BitVec 40) (i n : Nat) : BitVec n := x.extractLsb' i n
/-- Bits [39 : i] of X. -/
def hi (x : BitVec 40) (i : Nat) : BitVec 40 := x >>> i
/-- Bit i of X. -/
def bit (x : BitVec 40) (i : Nat) : Bool := x.getLsbD i

/-- A field that must be zero (RESERVED.x-field). -/
def zero {n : Nat} (x : BitVec n) : Except DecodeFault Unit := if x = 0 then .ok () else .error .xField

/-- The classes of R92. -/
def opnd (b : Byte) : Except DecodeFault Opnd :=
  if b.toNat < 0x40 then .ok (.g (b.extractLsb' 0 6))
  else if b.toNat < 0x60 then .ok (.v (b.extractLsb' 0 5))
  else if b.toNat < 0x70 then .ok (.z (b.extractLsb' 0 4))
  else if b.toNat < 0x80 then .ok (.s (b.extractLsb' 0 4))
  else if b.toNat < 0x88 then .ok (.q (b.extractLsb' 0 3))
  else if b.toNat < 0xC0 then .error .encoding
  else .ok (.k (b.extractLsb' 0 6))

/-- A position that the instruction does not use (R93). -/
def unused (b : Byte) : Except DecodeFault Unit := do
  let _ ← opnd b
  if b = 0 then .ok () else .error .unused

def asG (b : Byte) : Except DecodeFault GReg := do match ← opnd b with | .g r => pure r | _ => .error .cls
def asV (b : Byte) : Except DecodeFault VReg := do match ← opnd b with | .v r => pure r | _ => .error .cls
def asZ (b : Byte) : Except DecodeFault ZReg := do match ← opnd b with | .z r => pure r | _ => .error .cls
def asS (b : Byte) : Except DecodeFault SReg := do match ← opnd b with | .s r => pure r | _ => .error .cls
def asQ (b : Byte) : Except DecodeFault QReg := do match ← opnd b with | .q r => pure r | _ => .error .cls
def asK (b : Byte) : Except DecodeFault (BitVec 6) := do match ← opnd b with | .k c => pure c | _ => .error .cls
def asGK (b : Byte) : Except DecodeFault GK := do
  match ← opnd b with | .g r => pure (.g r) | .k c => pure (.k c) | _ => .error .cls
def asVGK (b : Byte) : Except DecodeFault VGK := do
  match ← opnd b with | .v r => pure (.v r) | .g r => pure (.g r) | .k c => pure (.k c) | _ => .error .cls
def asVG (b : Byte) : Except DecodeFault VG := do
  match ← opnd b with | .v r => pure (.v r) | .g r => pure (.g r) | _ => .error .cls

/-- A source that takes a constant, but not beside a format of 8-bit floating elements (R158). -/
def asGKF (f : BitVec 6) (b : Byte) : Except DecodeFault GK := do
  let r ← asGK b
  if r.fp8Ok f then pure r else .error .cls
def asVGKF (f : BitVec 6) (b : Byte) : Except DecodeFault VGK := do
  let r ← asVGK b
  if r.fp8Ok f then pure r else .error .cls

/-- The lane mask of VCOMP: q1 to q7 (R168). -/
def asMaskW (b : Byte) : Except DecodeFault (Option QReg) := do
  let r ← asQ b
  if r = 0 then .error .cls else pure (some r)

/-- The lane mask of form F: 0x00 or a predicate register (R98). -/
def asMask (b : Byte) : Except DecodeFault (Option QReg) := do
  match ← opnd b with
  | .q r => pure (some r)
  | .g r => if r = 0 then pure none else .error .cls
  | _ => .error .cls

/-- E of JOIN and TOUCH: a predicate with .p, otherwise 0x00 (R283). -/
def asE (p : Bool) (b : Byte) : Except DecodeFault (Option QReg) :=
  if p then (asQ b).map some else (unused b).map fun _ => none

/-- C of VCVT: a g register when one side is block-scaled, otherwise 0x00 (R169). -/
def asCvtC (f f2 : BitVec 6) (b : Byte) : Except DecodeFault GReg :=
  if fmtBlock f || fmtBlock f2 then asG b else (unused b).map fun _ => 0

/-- X of form M (R97). -/
def mx (x : BitVec 40) (h : Hint) : MX :=
  { disp := lo x 16 24, size := lo x 13 3, scope := lo x 10 3, space := lo x 8 2, scale := lo x 6 2, mod := lo x 0 6, hint := h }

/-- X of form F (R98). -/
def fx (x : BitVec 40) (mask : Option QReg) : FX :=
  { fmt := lo x 34 6, rnd := lo x 32 2, fmt2 := lo x 26 6, nanp := bit x 25, sat := bit x 24, opm := lo x 16 8, mask := mask }

/-- X of TCP, TSHAPE and TFREE: CTR, AMT and REC accept g or 0x00; any other class traps OPERAND.class (R241). -/
def tx (x : BitVec 40) : Except DecodeFault TX := do
  let ctr ← asG (lo x 16 8)
  let amt ← asG (lo x 8 8)
  let recp ← asG (lo x 0 8)
  zero (lo x 24 8)
  pure { dk := bit x 39, sk := bit x 38, cnud := lo x 32 6, ctr := ctr, amt := amt, recp := recp }

/-- How many minors each major lists (R101); the minors are numbered from 0. -/
def minors (maj : Nat) : Nat := ([(0x00, 13), (0x01, 16), (0x02, 11), (0x03, 14), (0x04, 3), (0x05, 9), (0x06, 7), (0x07, 12), (0x08, 6), (0x09, 13), (0x0A, 6), (0x0B, 1), (0x0C, 8), (0x0D, 4), (0x0E, 2), (0x0F, 4), (0x10, 6), (0x11, 9), (0x12, 11), (0x18, 15), (0x19, 12), (0x1A, 9), (0x1B, 6), (0x1C, 12)].lookup maj).getD 0

/-- The system-privileged instructions of R101. -/
def starred (maj min : Nat) : Bool := (maj == 0x00 && min == 8) || (maj == 0x0F && min ≤ 3)

/-- Words whose form carries a hint (R91, R180): MLDS, and form M in space 00 but for LEA and LEA2. -/
def hintDefined (maj min : Nat) (x : BitVec 40) : Bool :=
  (maj == 0x1C && min == 2) ||
  ((lo x 8 2 == 0) && (maj == 0x08 || maj == 0x09 || maj == 0x0A || maj == 0x0D || maj == 0x10 || maj == 0x11 ||
    (maj == 0x0C && min ≤ 1) || (maj == 0x12 && (min ≤ 1 || min == 9 || min == 10))))

/-- Major 0x00 (R101). -/
def decodeMisc (min : Nat) (fd fa fb : Byte) (x : BitVec 40) (h : Hint) : Except DecodeFault Instr :=
  match min with
  | 0 => pure .ill
  | 1 => do unused fd; unused fa; unused fb; zero x; pure (.nop)
  | 2 => do let d ← asQ fd; unused fa; unused fb; zero x; pure (.follow d)
  | 3 => do unused fd; unused fa; unused fb; zero x; pure (.leave)
  | 4 => do unused fd; unused fa; unused fb; zero x; pure (.yield)
  | 5 => do unused fd; unused fa; unused fb; pure (.brk x)
  | 6 => do unused fd; let a ← asGK fa; unused fb; zero (hi x 3); pure (.trap (lo x 0 3) a)
  | 7 => do let d ← asG fd; let a ← (if bit x 12 then (asGK fa).map some else (unused fa).map fun _ => none); unused fb; zero (hi x 13); match a with | some a => pure (.sysrX d a (lo x 0 12)) | none => pure (.sysr d (lo x 0 12))
  | 8 => do unused fd; let a ← asGK fa; unused fb; zero (hi x 12); match (lo x 0 12).toNat with | 0x107 => pure (.syswClasstab a) | 0x10C => pure (.syswLotseed a) | 0x109 => pure (.syswTenscale a) | _ => pure (.sysw (lo x 0 12) a)
  | 9 => do unused fd; unused fa; unused fb; zero x; pure (.ifence)
  | 10 => do let d ← asG fd; unused fa; unused fb; zero x; pure (.getmc d)
  | 11 => do unused fd; unused fa; unused fb; zero x; pure (.eret)
  | 12 => do unused fd; unused fa; unused fb; zero (hi x 6); pure (.setnud (lo x 0 6))
  | _ => let _ := (fd, fa, fb, x, h); pure .unassignedEncoding

/-- Major 0x01 (R101). -/
def decodeIntReg (min : Nat) (fd fa fb : Byte) (x : BitVec 40) (h : Hint) : Except DecodeFault Instr :=
  match min with
  | 0 => do let d ← asG fd; let a ← asGK fa; let b ← asGK fb; zero x; pure (.add d a b)
  | 1 => do let d ← asG fd; let a ← asGK fa; let b ← asGK fb; zero x; pure (.sub d a b)
  | 2 => do let d ← asG fd; let a ← asGK fa; let b ← asGK fb; zero x; pure (.mul d a b)
  | 3 => do let d ← asG fd; let a ← asGK fa; let b ← asGK fb; zero x; pure (.mulh d a b)
  | 4 => do let d ← asG fd; let a ← asGK fa; let b ← asGK fb; zero x; pure (.mulhn d a b)
  | 5 => do let d ← asG fd; let a ← asGK fa; let b ← asGK fb; zero x; pure (.div d a b)
  | 6 => do let d ← asG fd; let a ← asGK fa; let b ← asGK fb; zero x; pure (.divn d a b)
  | 7 => do let d ← asG fd; let a ← asGK fa; let b ← asGK fb; zero x; pure (.rem d a b)
  | 8 => do let d ← asG fd; let a ← asGK fa; let b ← asGK fb; zero x; pure (.remn d a b)
  | 9 => do let d ← asG fd; let a ← asGK fa; let b ← asGK fb; zero x; pure (.and d a b)
  | 10 => do let d ← asG fd; let a ← asGK fa; let b ← asGK fb; zero x; pure (.or d a b)
  | 11 => do let d ← asG fd; let a ← asGK fa; let b ← asGK fb; zero x; pure (.xor d a b)
  | 12 => do let d ← asG fd; let a ← asGK fa; let b ← asGK fb; zero x; pure (.andn d a b)
  | 13 => do let d ← asG fd; let a ← asGK fa; let b ← asGK fb; zero x; pure (.shl d a b)
  | 14 => do let d ← asG fd; let a ← asGK fa; let b ← asGK fb; zero x; pure (.shr d a b)
  | 15 => do let d ← asG fd; let a ← asGK fa; let b ← asGK fb; zero x; pure (.sha d a b)
  | _ => let _ := (fd, fa, fb, x, h); pure .unassignedEncoding

/-- Major 0x02 (R101). -/
def decodeIntImm (min : Nat) (fd fa fb : Byte) (x : BitVec 40) (h : Hint) : Except DecodeFault Instr :=
  match min with
  | 0 => do let d ← asG fd; let a ← asGK fa; unused fb; pure (.addi d a x)
  | 1 => do let d ← asG fd; let a ← asGK fa; unused fb; pure (.muli d a x)
  | 2 => do let d ← asG fd; let a ← asGK fa; unused fb; pure (.andi d a x)
  | 3 => do let d ← asG fd; let a ← asGK fa; unused fb; pure (.ori d a x)
  | 4 => do let d ← asG fd; let a ← asGK fa; unused fb; pure (.xori d a x)
  | 5 => do let d ← asG fd; let a ← asGK fa; unused fb; zero (hi x 6); pure (.shli d a (lo x 0 6))
  | 6 => do let d ← asG fd; let a ← asGK fa; unused fb; zero (hi x 6); pure (.shri d a (lo x 0 6))
  | 7 => do let d ← asG fd; let a ← asGK fa; unused fb; zero (hi x 6); pure (.shai d a (lo x 0 6))
  | 8 => do let d ← asG fd; unused fa; unused fb; pure (.ldi d x)
  | 9 => do let d ← asG fd; let a ← asGK fa; unused fb; pure (.ldhi d a x)
  | 10 => do let d ← asQ fd; let a ← asGK fa; unused fb; pure (.cmpi d a (lo x 4 36) (lo x 0 4))
  | _ => let _ := (fd, fa, fb, x, h); pure .unassignedEncoding

/-- Major 0x03 (R101). -/
def decodeCmpBit (min : Nat) (fd fa fb : Byte) (x : BitVec 40) (h : Hint) : Except DecodeFault Instr :=
  match min with
  | 0 => do let d ← asQ fd; let a ← asGK fa; let b ← asGK fb; zero (hi x 4); pure (.cmp d a b (lo x 0 4))
  | 1 => do let d ← asG fd; let a ← asGK fa; let b ← asGK fb; zero x; pure (.sel d a b)
  | 2 => do let d ← asG fd; let a ← asGK fa; let b ← asGK fb; zero x; pure (.min d a b)
  | 3 => do let d ← asG fd; let a ← asGK fa; let b ← asGK fb; zero x; pure (.max d a b)
  | 4 => do let d ← asG fd; let a ← asGK fa; let b ← asGK fb; zero x; pure (.minn d a b)
  | 5 => do let d ← asG fd; let a ← asGK fa; let b ← asGK fb; zero x; pure (.maxn d a b)
  | 6 => do let d ← asG fd; let a ← asG fa; unused fb; zero x; pure (.clz d a)
  | 7 => do let d ← asG fd; let a ← asG fa; unused fb; zero x; pure (.ctz d a)
  | 8 => do let d ← asG fd; let a ← asG fa; unused fb; zero x; pure (.popc d a)
  | 9 => do let d ← asG fd; let a ← asG fa; unused fb; zero (hi x 13); pure (.bext d a (lo x 0 6) (lo x 6 6) (bit x 12))
  | 10 => do let d ← asG fd; let a ← asGK fa; unused fb; zero (hi x 12); pure (.bins d a (lo x 0 6) (lo x 6 6))
  | 11 => do let d ← asG fd; let a ← asG fa; unused fb; zero x; pure (.abs d a)
  | 12 => do let d ← asG fd; let a ← asG fa; unused fb; zero (hi x 6); pure (.sext d a (lo x 0 6))
  | 13 => do let d ← asG fd; let a ← asG fa; unused fb; zero (hi x 6); pure (.zext d a (lo x 0 6))
  | _ => let _ := (fd, fa, fb, x, h); pure .unassignedEncoding

/-- Major 0x04 (R101). -/
def decodeAddr (min : Nat) (fd fa fb : Byte) (x : BitVec 40) (h : Hint) : Except DecodeFault Instr :=
  match min with
  | 0 => do let d ← asG fd; let a ← asGK fa; let b ← asGK fb; pure (.lea d a b (mx x h))
  | 1 => do let d ← asG fd; let a ← asGK fa; let b ← asGK fb; pure (.lea2 d a b (mx x h))
  | 2 => do let d ← asG fd; unused fa; unused fb; zero (hi x 3); pure (.getid d (lo x 0 3))
  | _ => let _ := (fd, fa, fb, x, h); pure .unassignedEncoding

/-- Major 0x05 (R101). -/
def decodePred (min : Nat) (fd fa fb : Byte) (x : BitVec 40) (h : Hint) : Except DecodeFault Instr :=
  match min with
  | 0 => do let d ← asQ fd; let a ← asQ fa; let b ← asQ fb; zero x; pure (.pand d a b)
  | 1 => do let d ← asQ fd; let a ← asQ fa; let b ← asQ fb; zero x; pure (.por d a b)
  | 2 => do let d ← asQ fd; let a ← asQ fa; let b ← asQ fb; zero x; pure (.pxor d a b)
  | 3 => do let d ← asQ fd; let a ← asQ fa; unused fb; zero x; pure (.pnot d a)
  | 4 => do let d ← asQ fd; let a ← asQ fa; unused fb; zero x; pure (.pmov d a)
  | 5 => do match ← opnd fd with | .g d => (do let a ← asQ fa; unused fb; zero x; pure (.qmov (.toG d a))) | .q d => (do let a ← asG fa; unused fb; zero x; pure (.qmov (.toQ d a))) | _ => .error .cls
  | 6 => do let d ← asQ fd; let a ← asQ fa; let b ← asQ fb; zero x; pure (.pany d a b)
  | 7 => do let d ← asQ fd; let a ← asQ fa; let b ← asQ fb; zero x; pure (.pall d a b)
  | 8 => do let d ← asQ fd; let a ← asGK fa; unused fb; pure (.pset d a x)
  | _ => let _ := (fd, fa, fb, x, h); pure .unassignedEncoding

/-- Major 0x06 (R101). -/
def decodeCtl (min : Nat) (fd fa fb : Byte) (x : BitVec 40) (h : Hint) : Except DecodeFault Instr :=
  match min with
  | 0 => do unused fd; unused fa; unused fb; pure (.bra x)
  | 1 => do unused fd; let a ← asG fa; unused fb; zero x; pure (.jmp a)
  | 2 => do let d ← asG fd; unused fa; unused fb; pure (.call d x)
  | 3 => do let d ← asG fd; let a ← asG fa; unused fb; zero x; pure (.callr d a)
  | 4 => do unused fd; let a ← asG fa; unused fb; zero x; pure (.ret a)
  | 5 => do let d ← asG fd; unused fa; unused fb; pure (.loop d x)
  | 6 => do unused fd; let a ← asGK fa; unused fb; zero x; pure (.exit a)
  | _ => let _ := (fd, fa, fb, x, h); pure .unassignedEncoding

/-- Major 0x07 (R101). -/
def decodeFut (min : Nat) (fd fa fb : Byte) (x : BitVec 40) (h : Hint) : Except DecodeFault Instr :=
  match min with
  | 0 => do let d ← asG fd; let a ← asG fa; let b ← asG fb; unused (lo x 8 8); zero x; pure (.spawn d a b)
  | 1 => do let d ← asG fd; let a ← asG fa; let b ← asG fb; unused (lo x 8 8); zero x; pure (.spawnr d a b)
  | 2 => do let d ← asG fd; let a ← asG fa; unused fb; let e ← asE (bit x 0) (lo x 8 8); zero (hi x 16); zero (lo x 1 7); pure (.join d a e)
  | 3 => do let d ← asG fd; let a ← asG fa; unused fb; let e ← asE (bit x 0) (lo x 8 8); zero (hi x 16); zero (lo x 1 7); pure (.touch d a e)
  | 4 => do let d ← asG fd; let a ← asG fa; unused fb; let e ← asQ (lo x 8 8); zero (hi x 16); zero (lo x 0 8); pure (.touchq d a e)
  | 5 => do unused fd; let a ← asG fa; let b ← asGK fb; unused (lo x 8 8); zero x; pure (.resolve a b)
  | 6 => do unused fd; let a ← asG fa; let b ← asGK fb; unused (lo x 8 8); zero x; pure (.poison a b)
  | 7 => do unused fd; let a ← asG fa; unused fb; unused (lo x 8 8); zero x; pure (.cancel a)
  | 8 => do let d ← asG fd; let a ← asG fa; unused fb; unused (lo x 8 8); zero x; pure (.fstat d a)
  | 9 => do unused fd; let a ← asG fa; unused fb; unused (lo x 8 8); zero x; pure (.fdup a)
  | 10 => do unused fd; let a ← asG fa; unused fb; unused (lo x 8 8); zero x; pure (.fdrop a)
  | 11 => do let d ← asG fd; unused fa; unused fb; unused (lo x 8 8); zero (hi x 16); zero (lo x 1 7); if bit x 0 then pure (.selfDup d) else pure (.self d)
  | _ => let _ := (fd, fa, fb, x, h); pure .unassignedEncoding

/-- Major 0x08 (R101). -/
def decodeCtr (min : Nat) (fd fa fb : Byte) (x : BitVec 40) (h : Hint) : Except DecodeFault Instr :=
  match min with
  | 0 => do unused fd; let a ← asG fa; let b ← asGK fb; pure (.ctradd a b (mx x h))
  | 1 => do let d ← asG fd; let a ← asG fa; let b ← asGK fb; pure (.ctrwait d a b (mx x h))
  | 2 => do let d ← asG fd; let a ← asG fa; unused fb; pure (.ctrread d a (mx x h))
  | 3 => do let d ← asG fd; let a ← asG fa; let b ← asGK fb; pure (.ctrarm d a b (mx x h))
  | 4 => do let d ← asG fd; let a ← asG fa; unused fb; pure (.ctrdisarm d a (mx x h))
  | 5 => do let d ← asQ fd; let a ← asG fa; let b ← asGK fb; pure (.ctrwaitq d a b (mx x h))
  | _ => let _ := (fd, fa, fb, x, h); pure .unassignedEncoding

/-- Major 0x09 (R101). -/
def decodeAtom (min : Nat) (fd fa fb : Byte) (x : BitVec 40) (h : Hint) : Except DecodeFault Instr :=
  match min with
  | 0 => do let d ← asG fd; let a ← asG fa; let b ← asGK fb; pure (.aadd d a b (mx x h))
  | 1 => do let d ← asG fd; let a ← asG fa; let b ← asGK fb; pure (.amin d a b (mx x h))
  | 2 => do let d ← asG fd; let a ← asG fa; let b ← asGK fb; pure (.amax d a b (mx x h))
  | 3 => do let d ← asG fd; let a ← asG fa; let b ← asGK fb; pure (.aminn d a b (mx x h))
  | 4 => do let d ← asG fd; let a ← asG fa; let b ← asGK fb; pure (.amaxn d a b (mx x h))
  | 5 => do let d ← asG fd; let a ← asG fa; let b ← asGK fb; pure (.aand d a b (mx x h))
  | 6 => do let d ← asG fd; let a ← asG fa; let b ← asGK fb; pure (.aor d a b (mx x h))
  | 7 => do let d ← asG fd; let a ← asG fa; let b ← asGK fb; pure (.axor d a b (mx x h))
  | 8 => do let d ← asG fd; let a ← asG fa; let b ← asGK fb; pure (.aswp d a b (mx x h))
  | 9 => do let d ← asG fd; let a ← asG fa; let b ← asGK fb; pure (.acas d a b (mx x h))
  | 10 => do let d ← asG fd; let a ← asG fa; let b ← asGK fb; pure (.afadd d a b (mx x h))
  | 11 => do let d ← asG fd; let a ← asG fa; let b ← asGK fb; pure (.afmin d a b (mx x h))
  | 12 => do let d ← asG fd; let a ← asG fa; let b ← asGK fb; pure (.afmax d a b (mx x h))
  | _ => let _ := (fd, fa, fb, x, h); pure .unassignedEncoding

/-- Major 0x0A (R101). -/
def decodeRed (min : Nat) (fd fa fb : Byte) (x : BitVec 40) (h : Hint) : Except DecodeFault Instr :=
  match min with
  | 0 => do unused fd; let a ← asG fa; let b ← asGK fb; pure (.rdadd a b (mx x h))
  | 1 => do unused fd; let a ← asG fa; let b ← asGK fb; pure (.rdmin a b (mx x h))
  | 2 => do unused fd; let a ← asG fa; let b ← asGK fb; pure (.rdmax a b (mx x h))
  | 3 => do unused fd; let a ← asG fa; let b ← asGK fb; pure (.rdor a b (mx x h))
  | 4 => do unused fd; let a ← asG fa; let b ← asGK fb; pure (.rdfadd a b (mx x h))
  | 5 => do unused fd; let a ← asG fa; unused fb; pure (.rdflush a (mx x h))
  | _ => let _ := (fd, fa, fb, x, h); pure .unassignedEncoding

/-- Major 0x0B (R101). -/
def decodeFence (min : Nat) (fd fa fb : Byte) (x : BitVec 40) (h : Hint) : Except DecodeFault Instr :=
  match min with
  | 0 => do unused fd; let k ← asK fa; let s ← asK fb; zero x; pure (.fence k s)
  | _ => let _ := (fd, fa, fb, x, h); pure .unassignedEncoding

/-- Major 0x0C (R101). -/
def decodeMsg (min : Nat) (fd fa fb : Byte) (x : BitVec 40) (h : Hint) : Except DecodeFault Instr :=
  match min with
  | 0 => do let d ← asQ fd; let a ← asG fa; let b ← asVG fb; pure (.qput d a b (mx x h))
  | 1 => do let d ← asQ fd; let a ← asG fa; let b ← asVG fb; pure (.qget d a b (mx x h))
  | 2 => do let d ← asG fd; let a ← asG fa; let b ← asG fb; zero (lo x 0 32); pure (.msend d a b (lo x 36 4) (lo x 32 4))
  | 3 => do let d ← asG fd; let a ← asG fa; let b ← asV fb; zero (lo x 0 32); pure (.msendv d a b (lo x 36 4) (lo x 32 4))
  | 4 => do unused fd; unused fa; unused fb; zero (hi x 16); pure (.mmask (lo x 0 16))
  | 5 => do unused fd; unused fa; unused fb; zero (hi x 16); pure (.munmask (lo x 0 16))
  | 6 => do let d ← asVG fd; unused fa; let b ← asGK fb; zero x; pure (.marg d b)
  | 7 => do let d ← asG fd; unused fa; unused fb; zero x; pure (.mid d)
  | _ => let _ := (fd, fa, fb, x, h); pure .unassignedEncoding

/-- Major 0x0D (R101). -/
def decodeCap (min : Nat) (fd fa fb : Byte) (x : BitVec 40) (h : Hint) : Except DecodeFault Instr :=
  match min with
  | 0 => do unused fd; let a ← asG fa; unused fb; pure (.capenter a (mx x h))
  | 1 => do unused fd; unused fa; unused fb; zero x; pure (.capstep h)
  | 2 => do unused fd; unused fa; unused fb; zero x; pure (.capexit h)
  | 3 => do let d ← asG fd; unused fa; unused fb; zero (hi x 2); pure (.capres d (lo x 0 2) h)
  | _ => let _ := (fd, fa, fb, x, h); pure .unassignedEncoding

/-- Major 0x0E (R101). -/
def decodeColl (min : Nat) (fd fa fb : Byte) (x : BitVec 40) (h : Hint) : Except DecodeFault Instr :=
  match min with
  | 0 => do unused fd; let a ← asG fa; unused fb; zero x; pure (.coll a)
  | 1 => do unused fd; let a ← asG fa; unused fb; zero x; pure (.collwait a)
  | _ => let _ := (fd, fa, fb, x, h); pure .unassignedEncoding

/-- Major 0x0F (R101). -/
def decodeSys (min : Nat) (fd fa fb : Byte) (x : BitVec 40) (h : Hint) : Except DecodeFault Instr :=
  match min with
  | 0 => do unused fd; match (lo x 16 4).toNat with | 0 => do { let a ← asG fa; unused fb; zero (hi x 20); pure (.tlbinvPage a (lo x 0 16)) } | 1 => do { let a ← asG fa; let b ← asG fb; zero (hi x 20); pure (.tlbinvRange a b (lo x 0 16)) } | 2 => do { unused fa; unused fb; zero (hi x 20); pure (.tlbinvAsid (lo x 0 16)) } | 3 => do { unused fa; unused fb; zero (hi x 20); pure (.tlbinvAsidg (lo x 0 16)) } | 4 => do { unused fa; unused fb; zero (hi x 20); zero (lo x 0 16); pure .tlbinvAll } | _ => do { unused fa; unused fb; .error .xField }
  | 1 => do let d ← asG fd; unused fa; match (lo x 16 2).toNat with | 0 => do { unused fb; zero (hi x 18); zero (lo x 0 16); pure (.replayAll d) } | 1 => do { let b ← asG fb; zero (hi x 18); zero (lo x 0 16); pure (.replayResume d b) } | 2 => do { let b ← asG fb; zero (hi x 18); zero (lo x 0 16); pure (.replayFail d b) } | _ => do { unused fb; .error .xField }
  | 2 => do let d ← asG fd; let a ← asG fa; let b ← asG fb; zero (hi x 17); zero (lo x 0 16); if bit x 16 then pure (.ctxsaveT d a b) else pure (.ctxsave d a b)
  | 3 => do let d ← asG fd; let a ← asG fa; if bit x 16 then (do { let b ← asG fb; zero (hi x 17); zero (lo x 0 16); pure (.ctxloadT d a b) }) else (do { unused fb; zero x; pure (.ctxload d a) })
  | _ => let _ := (fd, fa, fb, x, h); pure .unassignedEncoding

/-- Major 0x10 (R101). -/
def decodeMem (min : Nat) (fd fa fb : Byte) (x : BitVec 40) (h : Hint) : Except DecodeFault Instr :=
  match min with
  | 0 => do let d ← asG fd; let a ← asGK fa; let b ← asGK fb; pure (.ld d a b (mx x h))
  | 1 => do let d ← asG fd; let a ← asGK fa; let b ← asGK fb; pure (.st d a b (mx x h))
  | 2 => do let d ← asG fd; let a ← asGK fa; let b ← asGK fb; pure (.lda d a b (mx x h))
  | 3 => do let d ← asG fd; let a ← asGK fa; let b ← asGK fb; pure (.stl d a b (mx x h))
  | 4 => do unused fd; let a ← asGK fa; let b ← asGK fb; pure (.pref a b (mx x h))
  | 5 => do unused fd; let a ← asGK fa; let b ← asGK fb; pure (.dcwb a b (mx x h))
  | _ => let _ := (fd, fa, fb, x, h); pure .unassignedEncoding

/-- Major 0x11 (R101). -/
def decodeVMem (min : Nat) (fd fa fb : Byte) (x : BitVec 40) (h : Hint) : Except DecodeFault Instr :=
  match min with
  | 0 => do let d ← asV fd; let a ← asGK fa; let b ← asGK fb; pure (.vld d a b (mx x h))
  | 1 => do let d ← asV fd; let a ← asGK fa; let b ← asGK fb; pure (.vst d a b (mx x h))
  | 2 => do let d ← asV fd; let a ← asG fa; let b ← asV fb; pure (.vgath d a b (mx x h))
  | 3 => do let d ← asV fd; let a ← asG fa; let b ← asV fb; pure (.vscat d a b (mx x h))
  | 4 => do let d ← asV fd; let a ← asGK fa; let b ← asGK fb; pure (.vbld d a b (mx x h))
  | 5 => do let d ← asV fd; let a ← asGK fa; let b ← asGK fb; pure (.vlsl d a b (mx x h))
  | 6 => do let d ← asV fd; let a ← asGK fa; let b ← asGK fb; pure (.vlss d a b (mx x h))
  | 7 => do let d ← asV fd; let a ← asGK fa; let b ← asGK fb; pure (.vspill d a b (mx x h))
  | 8 => do let d ← asV fd; let a ← asGK fa; let b ← asGK fb; pure (.vfill d a b (mx x h))
  | _ => let _ := (fd, fa, fb, x, h); pure .unassignedEncoding

/-- Major 0x12 (R101). -/
def decodeTile (min : Nat) (fd fa fb : Byte) (x : BitVec 40) (h : Hint) : Except DecodeFault Instr :=
  match min with
  | 0 => do let d ← asG fd; let a ← asG fa; let b ← asGK fb; pure (.tld d a b (mx x h))
  | 1 => do let d ← asG fd; let a ← asG fa; let b ← asGK fb; pure (.tsv d a b (mx x h))
  | 2 => do let d ← asG fd; let a ← asG fa; let b ← asG fb; let y ← tx x; pure (.tcp d a b y)
  | 3 => do let d ← asG fd; let a ← asG fa; let b ← asG fb; let y ← tx x; pure (.tshape d a b y.dk { y with dk := false })
  | 4 => do unused fd; unused fa; unused fb; zero x; pure (.rcfence)
  | 5 => do unused fd; let a ← asG fa; unused fb; zero x; pure (.twait a)
  | 6 => do let d ← asG fd; let a ← asG fa; unused fb; zero x; pure (.tstat d a)
  | 7 => do let d ← asG fd; let a ← asG fa; unused fb; zero x; pure (.talloc d a)
  | 8 => do unused fd; let a ← asG fa; unused fb; let y ← tx x; pure (.tfree a y)
  | 9 => do let d ← asV fd; let a ← asG fa; let b ← asGK fb; pure (.tldv d a b (mx x h))
  | 10 => do let d ← asV fd; let a ← asG fa; let b ← asGK fb; pure (.tsvv d a b (mx x h))
  | _ => let _ := (fd, fa, fb, x, h); pure .unassignedEncoding

/-- Major 0x18 (R101). -/
def decodeVFloat (min : Nat) (fd fa fb : Byte) (x : BitVec 40) (h : Hint) : Except DecodeFault Instr :=
  match min with
  | 0 => do let d ← asV fd; let a ← asV fa; let b ← asVGKF (lo x 34 6) fb; let mk ← asMask (lo x 8 8); unused (lo x 0 8); pure (.vadd d a b (fx x mk))
  | 1 => do let d ← asV fd; let a ← asV fa; let b ← asVGKF (lo x 34 6) fb; let mk ← asMask (lo x 8 8); unused (lo x 0 8); pure (.vsub d a b (fx x mk))
  | 2 => do let d ← asV fd; let a ← asV fa; let b ← asVGKF (lo x 34 6) fb; let mk ← asMask (lo x 8 8); unused (lo x 0 8); pure (.vmul d a b (fx x mk))
  | 3 => do let d ← asV fd; let a ← asV fa; let b ← asVGKF (lo x 34 6) fb; let mk ← asMask (lo x 8 8); let c ← asVG (lo x 0 8); pure (.vfma d a b c (fx x mk))
  | 4 => do let d ← asV fd; let a ← asV fa; let b ← asVGKF (lo x 34 6) fb; let mk ← asMask (lo x 8 8); let c ← asVG (lo x 0 8); pure (.vfms d a b c (fx x mk))
  | 5 => do let d ← asV fd; let a ← asV fa; let b ← asVGKF (lo x 34 6) fb; let mk ← asMask (lo x 8 8); unused (lo x 0 8); pure (.vmin d a b (fx x mk))
  | 6 => do let d ← asV fd; let a ← asV fa; let b ← asVGKF (lo x 34 6) fb; let mk ← asMask (lo x 8 8); unused (lo x 0 8); pure (.vmax d a b (fx x mk))
  | 7 => do let d ← asV fd; let a ← asV fa; unused fb; let mk ← asMask (lo x 8 8); unused (lo x 0 8); pure (.vabs d a (fx x mk))
  | 8 => do let d ← asV fd; let a ← asV fa; unused fb; let mk ← asMask (lo x 8 8); unused (lo x 0 8); pure (.vneg d a (fx x mk))
  | 9 => do let d ← asV fd; let a ← asV fa; let b ← asVGKF (lo x 34 6) fb; let mk ← asMask (lo x 8 8); unused (lo x 0 8); pure (.vdiv d a b (fx x mk))
  | 10 => do let d ← asV fd; let a ← asV fa; unused fb; let mk ← asMask (lo x 8 8); unused (lo x 0 8); pure (.vsqrt d a (fx x mk))
  | 11 => do let d ← asV fd; let a ← asV fa; unused fb; let mk ← asMask (lo x 8 8); unused (lo x 0 8); pure (.vrcp d a (fx x mk))
  | 12 => do let d ← asV fd; let a ← asV fa; unused fb; let mk ← asMask (lo x 8 8); unused (lo x 0 8); pure (.vrsq d a (fx x mk))
  | 13 => do let d ← asV fd; let a ← asV fa; unused fb; let mk ← asMask (lo x 8 8); unused (lo x 0 8); pure (.vexp2 d a (fx x mk))
  | 14 => do let d ← asV fd; let a ← asV fa; unused fb; let mk ← asMask (lo x 8 8); unused (lo x 0 8); pure (.vlog2 d a (fx x mk))
  | _ => let _ := (fd, fa, fb, x, h); pure .unassignedEncoding

/-- Major 0x19 (R101). -/
def decodeVInt (min : Nat) (fd fa fb : Byte) (x : BitVec 40) (h : Hint) : Except DecodeFault Instr :=
  match min with
  | 0 => do let d ← asV fd; let a ← asV fa; let b ← asVGKF (lo x 34 6) fb; let mk ← asMask (lo x 8 8); unused (lo x 0 8); pure (.viadd d a b (fx x mk))
  | 1 => do let d ← asV fd; let a ← asV fa; let b ← asVGKF (lo x 34 6) fb; let mk ← asMask (lo x 8 8); unused (lo x 0 8); pure (.visub d a b (fx x mk))
  | 2 => do let d ← asV fd; let a ← asV fa; let b ← asVGKF (lo x 34 6) fb; let mk ← asMask (lo x 8 8); unused (lo x 0 8); pure (.vimul d a b (fx x mk))
  | 3 => do let d ← asV fd; let a ← asV fa; let b ← asVGKF (lo x 34 6) fb; let mk ← asMask (lo x 8 8); let c ← asVG (lo x 0 8); pure (.vimad d a b c (fx x mk))
  | 4 => do let d ← asV fd; let a ← asV fa; let b ← asVGKF (lo x 34 6) fb; let mk ← asMask (lo x 8 8); unused (lo x 0 8); pure (.vimin d a b (fx x mk))
  | 5 => do let d ← asV fd; let a ← asV fa; let b ← asVGKF (lo x 34 6) fb; let mk ← asMask (lo x 8 8); unused (lo x 0 8); pure (.vimax d a b (fx x mk))
  | 6 => do let d ← asV fd; let a ← asV fa; let b ← asVGKF (lo x 34 6) fb; let mk ← asMask (lo x 8 8); unused (lo x 0 8); pure (.vand d a b (fx x mk))
  | 7 => do let d ← asV fd; let a ← asV fa; let b ← asVGKF (lo x 34 6) fb; let mk ← asMask (lo x 8 8); unused (lo x 0 8); pure (.vor d a b (fx x mk))
  | 8 => do let d ← asV fd; let a ← asV fa; let b ← asVGKF (lo x 34 6) fb; let mk ← asMask (lo x 8 8); unused (lo x 0 8); pure (.vxor d a b (fx x mk))
  | 9 => do let d ← asV fd; let a ← asV fa; let b ← asVGKF (lo x 34 6) fb; let mk ← asMask (lo x 8 8); unused (lo x 0 8); pure (.vshl d a b (fx x mk))
  | 10 => do let d ← asV fd; let a ← asV fa; let b ← asVGKF (lo x 34 6) fb; let mk ← asMask (lo x 8 8); unused (lo x 0 8); pure (.vshr d a b (fx x mk))
  | 11 => do let d ← asV fd; let a ← asV fa; let b ← asVGKF (lo x 34 6) fb; let mk ← asMask (lo x 8 8); unused (lo x 0 8); pure (.vsha d a b (fx x mk))
  | _ => let _ := (fd, fa, fb, x, h); pure .unassignedEncoding

/-- Major 0x1A (R101). -/
def decodeVPerm (min : Nat) (fd fa fb : Byte) (x : BitVec 40) (h : Hint) : Except DecodeFault Instr :=
  match min with
  | 0 => do let d ← asQ fd; let a ← asV fa; let b ← asVGKF (lo x 34 6) fb; let mk ← asMask (lo x 8 8); unused (lo x 0 8); pure (.vcmp d a b (fx x mk))
  | 1 => do let d ← asV fd; let a ← asV fa; let b ← asVGKF (lo x 34 6) fb; let mk ← asMask (lo x 8 8); let c ← asQ (lo x 0 8); pure (.vsel d a b c (fx x mk))
  | 2 => do let d ← asV fd; let a ← asV fa; let b ← asV fb; let mk ← asMask (lo x 8 8); let c ← asV (lo x 0 8); pure (.vshuf d a b c (fx x mk))
  | 3 => do let d ← asV fd; let a ← asVGKF (lo x 34 6) fa; unused fb; let mk ← asMask (lo x 8 8); unused (lo x 0 8); pure (.vbcast d a (fx x mk))
  | 4 => do let d ← asV fd; let a ← asV fa; unused fb; let mk ← asMask (lo x 8 8); unused (lo x 0 8); pure (.vmov d a (fx x mk))
  | 5 => do let d ← asV fd; let a ← asGKF (lo x 34 6) fa; let b ← asGKF (lo x 34 6) fb; let mk ← asMask (lo x 8 8); unused (lo x 0 8); pure (.viota d a b (fx x mk))
  | 6 => do let d ← asG fd; let a ← asV fa; let b ← asGKF (lo x 34 6) fb; unused (lo x 8 8); unused (lo x 0 8); pure (.vext d a b (fx x none))
  | 7 => do let d ← asV fd; let a ← asGKF (lo x 34 6) fa; let b ← asGKF (lo x 34 6) fb; unused (lo x 8 8); unused (lo x 0 8); pure (.vins d a b (fx x none))
  | 8 => do let d ← asV fd; let a ← asV fa; let b ← asGKF (lo x 34 6) fb; let mk ← asMaskW (lo x 8 8); unused (lo x 0 8); pure (.vcomp d a b (fx x mk))
  | _ => let _ := (fd, fa, fb, x, h); pure .unassignedEncoding

/-- Major 0x1B (R101). -/
def decodeVCvt (min : Nat) (fd fa fb : Byte) (x : BitVec 40) (h : Hint) : Except DecodeFault Instr :=
  match min with
  | 0 => do let d ← asV fd; let a ← asV fa; unused fb; let mk ← asMask (lo x 8 8); let c ← asCvtC (lo x 34 6) (lo x 26 6) (lo x 0 8); pure (.vcvt d a c (fx x mk))
  | 1 => do let d ← asG fd; let a ← asV fa; let b ← asGKF (lo x 34 6) fb; let mk ← asMask (lo x 8 8); unused (lo x 0 8); pure (.vred d a b (fx x mk))
  | 2 => do let d ← asV fd; let a ← asV fa; let b ← asGKF (lo x 34 6) fb; let mk ← asMask (lo x 8 8); unused (lo x 0 8); pure (.vscan d a b (fx x mk))
  | 3 => do let d ← asV fd; let a ← asV fa; let b ← asV fb; let mk ← asMask (lo x 8 8); unused (lo x 0 8); pure (.vdot4 d a b (fx x mk))
  | 4 => do let d ← asV fd; let a ← asG fa; let b ← asG fb; let mk ← asMask (lo x 8 8); unused (lo x 0 8); pure (.vrng d a b (fx x mk))
  | 5 => do let d ← asG fd; let a ← asV fa; unused fb; let mk ← asMask (lo x 8 8); unused (lo x 0 8); pure (.vscale d a (fx x mk))
  | _ => let _ := (fd, fa, fb, x, h); pure .unassignedEncoding

/-- Major 0x1C (R101). -/
def decodeMat (min : Nat) (fd fa fb : Byte) (x : BitVec 40) (h : Hint) : Except DecodeFault Instr :=
  match min with
  | 0 => do unused fd; unused fa; unused fb; zero (hi x 32); pure (.mclaim (lo x 0 16) (lo x 16 16))
  | 1 => do unused fd; unused fa; unused fb; zero (hi x 32); pure (.mrel (lo x 0 16) (lo x 16 16))
  | 2 => do let d ← asS fd; let a ← asG fa; let b ← asGK fb; zero (lo x 32 2); zero (lo x 29 1); zero (lo x 0 17); pure (.mlds d a b (lo x 34 6) (lo x 30 2) (lo x 24 5) (lo x 17 7) h)
  | 3 => do unused fd; let a ← asS fa; unused fb; zero (lo x 30 4); zero (lo x 24 5); zero (lo x 0 9); pure (.mlatch a (lo x 34 6) (bit x 29) (lo x 15 9) (lo x 9 6))
  | 4 => do let d ← asZ fd; let a ← asS fa; unused fb; zero (lo x 29 5); zero (lo x 0 15); pure (.mma d a (lo x 34 6) (lo x 24 5) (lo x 15 9))
  | 5 => do let d ← asZ fd; unused fa; unused fb; zero (lo x 0 34); pure (.mzero d (lo x 34 6))
  | 6 => do let d ← asZ fd; let a ← asG fa; let b ← asGK fb; zero (lo x 0 24); pure (.mstz d a b (lo x 34 6) (lo x 32 2) (lo x 30 2) (bit x 29) (lo x 24 5))
  | 7 => do let d ← asV fd; let a ← asZ fa; let b ← asGK fb; zero (hi x 1); pure (.mrdz d a b (bit x 0))
  | 8 => do let d ← asZ fd; let a ← asV fa; let b ← asGK fb; zero (hi x 1); pure (.mwrz d a b (bit x 0))
  | 9 => do unused fd; unused fa; unused fb; zero x; pure (.mwait)
  | 10 => do let d ← asG fd; unused fa; unused fb; zero (hi x 10); zero (lo x 7 1); match (lo x 8 2).toNat with | 0 => pure (.mstat d (lo x 0 7)) | 1 => do { zero (lo x 0 7); pure (.mstatSnapshot d) } | _ => .error .xField
  | 11 => do let d ← asZ fd; let a ← asG fa; unused fb; zero (lo x 0 32); pure (.mscale d a (lo x 34 6) (lo x 32 2))
  | _ => let _ := (fd, fa, fb, x, h); pure .unassignedEncoding

/-- The instruction of a MAJOR and MINOR pair (R101, R102). -/
def decodeBody (maj : Nat) (min : Nat) (fd fa fb : Byte) (x : BitVec 40) (h : Hint) : Except DecodeFault Instr :=
  match maj with
  | 0x00 => decodeMisc min fd fa fb x h
  | 0x01 => decodeIntReg min fd fa fb x h
  | 0x02 => decodeIntImm min fd fa fb x h
  | 0x03 => decodeCmpBit min fd fa fb x h
  | 0x04 => decodeAddr min fd fa fb x h
  | 0x05 => decodePred min fd fa fb x h
  | 0x06 => decodeCtl min fd fa fb x h
  | 0x07 => decodeFut min fd fa fb x h
  | 0x08 => decodeCtr min fd fa fb x h
  | 0x09 => decodeAtom min fd fa fb x h
  | 0x0A => decodeRed min fd fa fb x h
  | 0x0B => decodeFence min fd fa fb x h
  | 0x0C => decodeMsg min fd fa fb x h
  | 0x0D => decodeCap min fd fa fb x h
  | 0x0E => decodeColl min fd fa fb x h
  | 0x0F => decodeSys min fd fa fb x h
  | 0x10 => decodeMem min fd fa fb x h
  | 0x11 => decodeVMem min fd fa fb x h
  | 0x12 => decodeTile min fd fa fb x h
  | 0x18 => decodeVFloat min fd fa fb x h
  | 0x19 => decodeVInt min fd fa fb x h
  | 0x1A => decodeVPerm min fd fa fb x h
  | 0x1B => decodeVCvt min fd fa fb x h
  | 0x1C => decodeMat min fd fa fb x h
  | _ => .ok .unassignedEncoding

/-- The fields of a word (R88). -/
structure Fields where
  maj : Nat
  min : Nat
  hd : Header
  h : Hint
  rsv : BitVec 4
  d : Byte
  a : Byte
  b : Byte
  x : BitVec 40

def fields (w : BitVec 96) : Fields :=
  { maj := (w.extractLsb' 88 8).toNat, min := (w.extractLsb' 84 4).toNat
    hd := { gneg := w.getLsbD 83, guard := w.extractLsb' 80 3, la := w.extractLsb' 76 4 }
    h := { nud := w.extractLsb' 70 6, l1p := w.extractLsb' 68 2 }
    rsv := w.extractLsb' 64 4
    d := w.extractLsb' 56 8, a := w.extractLsb' 48 8, b := w.extractLsb' 40 8, x := w.extractLsb' 0 40 }

/-- The guard that always executes. -/
def Header.always : Header := { gneg := false, guard := 0, la := 0 }

/-- Checks 5 to 7 of R100 on the fields of a word that names an instruction. -/
def decodeFields (f : Fields) : Except DecodeFault (Header × Instr) := do
  if f.rsv ≠ 0 then .error .word
  if f.hd.gneg && f.hd.guard == 0 then .error .guard
  if !(f.h.ok (hintDefined f.maj f.min f.x) (f.maj == 0x0A)) then .error .hint
  let i ← decodeBody f.maj f.min f.d f.a f.b f.x f.h
  if !i.opOk then .error .cls
  else if !i.fmtOk then .error .format
  else if !i.xOk then .error .xField
  else if !i.hintOk then .error .hint
  else pure (f.hd, i)

/-- Decoding of a word (R100 checks 2, 3 and 5 to 7; check 4 is the step's, which knows the privilege). ILL traps whatever its
other fields hold, and so does a pair that names no instruction (R102). -/
def decode (w : BitVec 96) : Except DecodeFault (Header × Instr) :=
  let f := fields w
  if f.maj == 0 && f.min == 0 then .ok (.always, .ill)
  else if minors f.maj ≤ f.min then .ok (.always, .unassignedEncoding)
  else decodeFields f

/-! ### The encoder -/

def bG (r : GReg) : Byte := (0 : BitVec 2) ++ r
def bV (r : VReg) : Byte := (0b010 : BitVec 3) ++ r
def bZ (r : ZReg) : Byte := (0x6 : BitVec 4) ++ r
def bS (r : SReg) : Byte := (0x7 : BitVec 4) ++ r
def bQ (r : QReg) : Byte := (0b10000 : BitVec 5) ++ r
def bK (c : BitVec 6) : Byte := (0b11 : BitVec 2) ++ c
def bGK : GK → Byte | .g r => bG r | .k c => bK c
def bVGK : VGK → Byte | .v r => bV r | .g r => bG r | .k c => bK c
def bVG : VG → Byte | .v r => bV r | .g r => bG r
def bMask : Option QReg → Byte | some q => bQ q | none => 0

/-- X of form M (R97). -/
def MX.bits (x : MX) : BitVec 40 := x.disp ++ x.size ++ x.scope ++ x.space ++ x.scale ++ x.mod

/-- X of form F (R98), with the byte of C. -/
def FX.bits (x : FX) (c : Byte) : BitVec 40 :=
  x.fmt ++ x.rnd ++ x.fmt2 ++ BitVec.ofBool x.nanp ++ BitVec.ofBool x.sat ++ x.opm ++ bMask x.mask ++ c

/-- X of TCP, TSHAPE and TFREE (R241). -/
def TX.bits (y : TX) : BitVec 40 :=
  BitVec.ofBool y.dk ++ BitVec.ofBool y.sk ++ y.cnud ++ (0 : BitVec 8) ++ bG y.ctr ++ bG y.amt ++ bG y.recp

/-- E and MOD of JOIN and TOUCH (R282, R283). -/
def eBits (e : Option QReg) : BitVec 40 :=
  match e with
  | some q => (bQ q ++ (1 : BitVec 8)).zeroExtend 40
  | none => 0

def noHint : Hint := { nud := 0, l1p := 0 }

/-- The layout of R88. -/
def wordOf (maj min : Nat) (hd : Header) (h : Hint) (d a b : Byte) (x : BitVec 40) : BitVec 96 :=
  BitVec.ofNat 8 maj ++ BitVec.ofNat 4 min ++ BitVec.ofBool hd.gneg ++ hd.guard ++ hd.la ++ h.nud ++ h.l1p ++ (0 : BitVec 4) ++
    d ++ a ++ b ++ x

/-- The word of an instruction; events and commands have none. -/
def encode (hd : Header) : Instr → Option (BitVec 96)
  | .ill => some (wordOf 0x00 0 hd noHint 0 0 0 0)
  | .sysr d idx => some (wordOf 0x00 7 hd noHint (bG d) 0 0 (idx.zeroExtend 40))
  | .sysrX d a idx => some (wordOf 0x00 7 hd noHint (bG d) (bGK a) 0 (((1 : BitVec 1) ++ idx).zeroExtend 40))
  | .sysw idx a => some (wordOf 0x00 8 hd noHint 0 (bGK a) 0 (idx.zeroExtend 40))
  | .syswClasstab a => some (wordOf 0x00 8 hd noHint 0 (bGK a) 0 0x107)
  | .syswLotseed a => some (wordOf 0x00 8 hd noHint 0 (bGK a) 0 0x10C)
  | .syswTenscale a => some (wordOf 0x00 8 hd noHint 0 (bGK a) 0 0x109)
  | .qmov (.toG d a) => some (wordOf 0x05 5 hd noHint (bG d) (bQ a) 0 0)
  | .qmov (.toQ d a) => some (wordOf 0x05 5 hd noHint (bQ d) (bG a) 0 0)
  | .join d a e => some (wordOf 0x07 2 hd noHint (bG d) (bG a) 0 (eBits e))
  | .touch d a e => some (wordOf 0x07 3 hd noHint (bG d) (bG a) 0 (eBits e))
  | .touchq d a e => some (wordOf 0x07 4 hd noHint (bG d) (bG a) 0 ((bQ e ++ (0 : BitVec 8)).zeroExtend 40))
  | .self d => some (wordOf 0x07 11 hd noHint (bG d) 0 0 0)
  | .selfDup d => some (wordOf 0x07 11 hd noHint (bG d) 0 0 1)
  | .fence k s => some (wordOf 0x0B 0 hd noHint 0 (bK k) (bK s) 0)
  | .capstep h => some (wordOf 0x0D 1 hd h 0 0 0 0)
  | .capexit h => some (wordOf 0x0D 2 hd h 0 0 0 0)
  | .capres d n h => some (wordOf 0x0D 3 hd h (bG d) 0 0 (n.zeroExtend 40))
  | .tlbinvPage a asid => some (wordOf 0x0F 0 hd noHint 0 (bG a) 0 (asid.zeroExtend 40))
  | .tlbinvRange a b asid => some (wordOf 0x0F 0 hd noHint 0 (bG a) (bG b) (((1 : BitVec 4) ++ asid).zeroExtend 40))
  | .tlbinvAsid asid => some (wordOf 0x0F 0 hd noHint 0 0 0 (((2 : BitVec 4) ++ asid).zeroExtend 40))
  | .tlbinvAsidg asid => some (wordOf 0x0F 0 hd noHint 0 0 0 (((3 : BitVec 4) ++ asid).zeroExtend 40))
  | .tlbinvAll => some (wordOf 0x0F 0 hd noHint 0 0 0 0x40000)
  | .replayAll d => some (wordOf 0x0F 1 hd noHint (bG d) 0 0 0)
  | .replayResume d b => some (wordOf 0x0F 1 hd noHint (bG d) 0 (bG b) 0x10000)
  | .replayFail d b => some (wordOf 0x0F 1 hd noHint (bG d) 0 (bG b) 0x20000)
  | .ctxsave d a b => some (wordOf 0x0F 2 hd noHint (bG d) (bG a) (bG b) 0)
  | .ctxsaveT d a b => some (wordOf 0x0F 2 hd noHint (bG d) (bG a) (bG b) 0x10000)
  | .ctxload d a => some (wordOf 0x0F 3 hd noHint (bG d) (bG a) 0 0)
  | .ctxloadT d a b => some (wordOf 0x0F 3 hd noHint (bG d) (bG a) (bG b) 0x10000)
  | .tcp d a b y => some (wordOf 0x12 2 hd noHint (bG d) (bG a) (bG b) y.bits)
  | .tshape d a b st y => some (wordOf 0x12 3 hd noHint (bG d) (bG a) (bG b) ({ y with dk := st }).bits)
  | .tfree a y => some (wordOf 0x12 8 hd noHint 0 (bG a) 0 y.bits)
  | .vsel d a b c x => some (wordOf 0x1A 1 hd noHint (bV d) (bV a) (bVGK b) (x.bits (bQ c)))
  | .vcvt d a c x => some (wordOf 0x1B 0 hd noHint (bV d) (bV a) 0 (x.bits (bG c)))
  | .mstat d clr => some (wordOf 0x1C 10 hd noHint (bG d) 0 0 (clr.zeroExtend 40))
  | .mstatSnapshot d => some (wordOf 0x1C 10 hd noHint (bG d) 0 0 0x100)
  | .nop => some (wordOf 0x00 1 hd (noHint) 0 0 0 (0))
  | .follow d => some (wordOf 0x00 2 hd (noHint) (bQ d) 0 0 (0))
  | .leave => some (wordOf 0x00 3 hd (noHint) 0 0 0 (0))
  | .yield => some (wordOf 0x00 4 hd (noHint) 0 0 0 (0))
  | .brk imm => some (wordOf 0x00 5 hd (noHint) 0 0 0 (imm))
  | .trap n a => some (wordOf 0x00 6 hd (noHint) 0 (bGK a) 0 (n.zeroExtend 40))
  | .ifence => some (wordOf 0x00 9 hd (noHint) 0 0 0 (0))
  | .getmc d => some (wordOf 0x00 10 hd (noHint) (bG d) 0 0 (0))
  | .eret => some (wordOf 0x00 11 hd (noHint) 0 0 0 (0))
  | .setnud code => some (wordOf 0x00 12 hd (noHint) 0 0 0 (code.zeroExtend 40))
  | .add d a b => some (wordOf 0x01 0 hd (noHint) (bG d) (bGK a) (bGK b) (0))
  | .sub d a b => some (wordOf 0x01 1 hd (noHint) (bG d) (bGK a) (bGK b) (0))
  | .mul d a b => some (wordOf 0x01 2 hd (noHint) (bG d) (bGK a) (bGK b) (0))
  | .mulh d a b => some (wordOf 0x01 3 hd (noHint) (bG d) (bGK a) (bGK b) (0))
  | .mulhn d a b => some (wordOf 0x01 4 hd (noHint) (bG d) (bGK a) (bGK b) (0))
  | .div d a b => some (wordOf 0x01 5 hd (noHint) (bG d) (bGK a) (bGK b) (0))
  | .divn d a b => some (wordOf 0x01 6 hd (noHint) (bG d) (bGK a) (bGK b) (0))
  | .rem d a b => some (wordOf 0x01 7 hd (noHint) (bG d) (bGK a) (bGK b) (0))
  | .remn d a b => some (wordOf 0x01 8 hd (noHint) (bG d) (bGK a) (bGK b) (0))
  | .and d a b => some (wordOf 0x01 9 hd (noHint) (bG d) (bGK a) (bGK b) (0))
  | .or d a b => some (wordOf 0x01 10 hd (noHint) (bG d) (bGK a) (bGK b) (0))
  | .xor d a b => some (wordOf 0x01 11 hd (noHint) (bG d) (bGK a) (bGK b) (0))
  | .andn d a b => some (wordOf 0x01 12 hd (noHint) (bG d) (bGK a) (bGK b) (0))
  | .shl d a b => some (wordOf 0x01 13 hd (noHint) (bG d) (bGK a) (bGK b) (0))
  | .shr d a b => some (wordOf 0x01 14 hd (noHint) (bG d) (bGK a) (bGK b) (0))
  | .sha d a b => some (wordOf 0x01 15 hd (noHint) (bG d) (bGK a) (bGK b) (0))
  | .addi d a imm => some (wordOf 0x02 0 hd (noHint) (bG d) (bGK a) 0 (imm))
  | .muli d a imm => some (wordOf 0x02 1 hd (noHint) (bG d) (bGK a) 0 (imm))
  | .andi d a imm => some (wordOf 0x02 2 hd (noHint) (bG d) (bGK a) 0 (imm))
  | .ori d a imm => some (wordOf 0x02 3 hd (noHint) (bG d) (bGK a) 0 (imm))
  | .xori d a imm => some (wordOf 0x02 4 hd (noHint) (bG d) (bGK a) 0 (imm))
  | .shli d a sh => some (wordOf 0x02 5 hd (noHint) (bG d) (bGK a) 0 (sh.zeroExtend 40))
  | .shri d a sh => some (wordOf 0x02 6 hd (noHint) (bG d) (bGK a) 0 (sh.zeroExtend 40))
  | .shai d a sh => some (wordOf 0x02 7 hd (noHint) (bG d) (bGK a) 0 (sh.zeroExtend 40))
  | .ldi d imm => some (wordOf 0x02 8 hd (noHint) (bG d) 0 0 (imm))
  | .ldhi d a imm => some (wordOf 0x02 9 hd (noHint) (bG d) (bGK a) 0 (imm))
  | .cmpi d a imm cc => some (wordOf 0x02 10 hd (noHint) (bQ d) (bGK a) 0 (imm ++ cc))
  | .cmp d a b cc => some (wordOf 0x03 0 hd (noHint) (bQ d) (bGK a) (bGK b) (cc.zeroExtend 40))
  | .sel d a b => some (wordOf 0x03 1 hd (noHint) (bG d) (bGK a) (bGK b) (0))
  | .min d a b => some (wordOf 0x03 2 hd (noHint) (bG d) (bGK a) (bGK b) (0))
  | .max d a b => some (wordOf 0x03 3 hd (noHint) (bG d) (bGK a) (bGK b) (0))
  | .minn d a b => some (wordOf 0x03 4 hd (noHint) (bG d) (bGK a) (bGK b) (0))
  | .maxn d a b => some (wordOf 0x03 5 hd (noHint) (bG d) (bGK a) (bGK b) (0))
  | .clz d a => some (wordOf 0x03 6 hd (noHint) (bG d) (bG a) 0 (0))
  | .ctz d a => some (wordOf 0x03 7 hd (noHint) (bG d) (bG a) 0 (0))
  | .popc d a => some (wordOf 0x03 8 hd (noHint) (bG d) (bG a) 0 (0))
  | .bext d a pos len sgn => some (wordOf 0x03 9 hd (noHint) (bG d) (bG a) 0 ((BitVec.ofBool sgn ++ len ++ pos).zeroExtend 40))
  | .bins d a pos len => some (wordOf 0x03 10 hd (noHint) (bG d) (bGK a) 0 ((len ++ pos).zeroExtend 40))
  | .abs d a => some (wordOf 0x03 11 hd (noHint) (bG d) (bG a) 0 (0))
  | .sext d a n => some (wordOf 0x03 12 hd (noHint) (bG d) (bG a) 0 (n.zeroExtend 40))
  | .zext d a n => some (wordOf 0x03 13 hd (noHint) (bG d) (bG a) 0 (n.zeroExtend 40))
  | .lea d a b x => some (wordOf 0x04 0 hd (x.hint) (bG d) (bGK a) (bGK b) (x.bits))
  | .lea2 d a b x => some (wordOf 0x04 1 hd (x.hint) (bG d) (bGK a) (bGK b) (x.bits))
  | .getid d sel => some (wordOf 0x04 2 hd (noHint) (bG d) 0 0 (sel.zeroExtend 40))
  | .pand d a b => some (wordOf 0x05 0 hd (noHint) (bQ d) (bQ a) (bQ b) (0))
  | .por d a b => some (wordOf 0x05 1 hd (noHint) (bQ d) (bQ a) (bQ b) (0))
  | .pxor d a b => some (wordOf 0x05 2 hd (noHint) (bQ d) (bQ a) (bQ b) (0))
  | .pnot d a => some (wordOf 0x05 3 hd (noHint) (bQ d) (bQ a) 0 (0))
  | .pmov d a => some (wordOf 0x05 4 hd (noHint) (bQ d) (bQ a) 0 (0))
  | .pany d a b => some (wordOf 0x05 6 hd (noHint) (bQ d) (bQ a) (bQ b) (0))
  | .pall d a b => some (wordOf 0x05 7 hd (noHint) (bQ d) (bQ a) (bQ b) (0))
  | .pset d a imm => some (wordOf 0x05 8 hd (noHint) (bQ d) (bGK a) 0 (imm))
  | .bra disp => some (wordOf 0x06 0 hd (noHint) 0 0 0 (disp))
  | .jmp a => some (wordOf 0x06 1 hd (noHint) 0 (bG a) 0 (0))
  | .call d disp => some (wordOf 0x06 2 hd (noHint) (bG d) 0 0 (disp))
  | .callr d a => some (wordOf 0x06 3 hd (noHint) (bG d) (bG a) 0 (0))
  | .ret a => some (wordOf 0x06 4 hd (noHint) 0 (bG a) 0 (0))
  | .loop d disp => some (wordOf 0x06 5 hd (noHint) (bG d) 0 0 (disp))
  | .exit a => some (wordOf 0x06 6 hd (noHint) 0 (bGK a) 0 (0))
  | .spawn d a b => some (wordOf 0x07 0 hd (noHint) (bG d) (bG a) (bG b) (0))
  | .spawnr d a b => some (wordOf 0x07 1 hd (noHint) (bG d) (bG a) (bG b) (0))
  | .resolve a b => some (wordOf 0x07 5 hd (noHint) 0 (bG a) (bGK b) (0))
  | .poison a b => some (wordOf 0x07 6 hd (noHint) 0 (bG a) (bGK b) (0))
  | .cancel a => some (wordOf 0x07 7 hd (noHint) 0 (bG a) 0 (0))
  | .fstat d a => some (wordOf 0x07 8 hd (noHint) (bG d) (bG a) 0 (0))
  | .fdup a => some (wordOf 0x07 9 hd (noHint) 0 (bG a) 0 (0))
  | .fdrop a => some (wordOf 0x07 10 hd (noHint) 0 (bG a) 0 (0))
  | .ctradd a b x => some (wordOf 0x08 0 hd (x.hint) 0 (bG a) (bGK b) (x.bits))
  | .ctrwait d a b x => some (wordOf 0x08 1 hd (x.hint) (bG d) (bG a) (bGK b) (x.bits))
  | .ctrread d a x => some (wordOf 0x08 2 hd (x.hint) (bG d) (bG a) 0 (x.bits))
  | .ctrarm d a b x => some (wordOf 0x08 3 hd (x.hint) (bG d) (bG a) (bGK b) (x.bits))
  | .ctrdisarm d a x => some (wordOf 0x08 4 hd (x.hint) (bG d) (bG a) 0 (x.bits))
  | .ctrwaitq d a b x => some (wordOf 0x08 5 hd (x.hint) (bQ d) (bG a) (bGK b) (x.bits))
  | .aadd d a b x => some (wordOf 0x09 0 hd (x.hint) (bG d) (bG a) (bGK b) (x.bits))
  | .amin d a b x => some (wordOf 0x09 1 hd (x.hint) (bG d) (bG a) (bGK b) (x.bits))
  | .amax d a b x => some (wordOf 0x09 2 hd (x.hint) (bG d) (bG a) (bGK b) (x.bits))
  | .aminn d a b x => some (wordOf 0x09 3 hd (x.hint) (bG d) (bG a) (bGK b) (x.bits))
  | .amaxn d a b x => some (wordOf 0x09 4 hd (x.hint) (bG d) (bG a) (bGK b) (x.bits))
  | .aand d a b x => some (wordOf 0x09 5 hd (x.hint) (bG d) (bG a) (bGK b) (x.bits))
  | .aor d a b x => some (wordOf 0x09 6 hd (x.hint) (bG d) (bG a) (bGK b) (x.bits))
  | .axor d a b x => some (wordOf 0x09 7 hd (x.hint) (bG d) (bG a) (bGK b) (x.bits))
  | .aswp d a b x => some (wordOf 0x09 8 hd (x.hint) (bG d) (bG a) (bGK b) (x.bits))
  | .acas d a b x => some (wordOf 0x09 9 hd (x.hint) (bG d) (bG a) (bGK b) (x.bits))
  | .afadd d a b x => some (wordOf 0x09 10 hd (x.hint) (bG d) (bG a) (bGK b) (x.bits))
  | .afmin d a b x => some (wordOf 0x09 11 hd (x.hint) (bG d) (bG a) (bGK b) (x.bits))
  | .afmax d a b x => some (wordOf 0x09 12 hd (x.hint) (bG d) (bG a) (bGK b) (x.bits))
  | .rdadd a b x => some (wordOf 0x0A 0 hd (x.hint) 0 (bG a) (bGK b) (x.bits))
  | .rdmin a b x => some (wordOf 0x0A 1 hd (x.hint) 0 (bG a) (bGK b) (x.bits))
  | .rdmax a b x => some (wordOf 0x0A 2 hd (x.hint) 0 (bG a) (bGK b) (x.bits))
  | .rdor a b x => some (wordOf 0x0A 3 hd (x.hint) 0 (bG a) (bGK b) (x.bits))
  | .rdfadd a b x => some (wordOf 0x0A 4 hd (x.hint) 0 (bG a) (bGK b) (x.bits))
  | .rdflush a x => some (wordOf 0x0A 5 hd (x.hint) 0 (bG a) 0 (x.bits))
  | .qput d a b x => some (wordOf 0x0C 0 hd (x.hint) (bQ d) (bG a) (bVG b) (x.bits))
  | .qget d a b x => some (wordOf 0x0C 1 hd (x.hint) (bQ d) (bG a) (bVG b) (x.bits))
  | .msend d a b cls n => some (wordOf 0x0C 2 hd (noHint) (bG d) (bG a) (bG b) (cls ++ n ++ (0 : BitVec 32)))
  | .msendv d a b cls n => some (wordOf 0x0C 3 hd (noHint) (bG d) (bG a) (bV b) (cls ++ n ++ (0 : BitVec 32)))
  | .mmask m => some (wordOf 0x0C 4 hd (noHint) 0 0 0 (m.zeroExtend 40))
  | .munmask m => some (wordOf 0x0C 5 hd (noHint) 0 0 0 (m.zeroExtend 40))
  | .marg d b => some (wordOf 0x0C 6 hd (noHint) (bVG d) 0 (bGK b) (0))
  | .mid d => some (wordOf 0x0C 7 hd (noHint) (bG d) 0 0 (0))
  | .capenter a x => some (wordOf 0x0D 0 hd (x.hint) 0 (bG a) 0 (x.bits))
  | .coll a => some (wordOf 0x0E 0 hd (noHint) 0 (bG a) 0 (0))
  | .collwait a => some (wordOf 0x0E 1 hd (noHint) 0 (bG a) 0 (0))
  | .ld d a b x => some (wordOf 0x10 0 hd (x.hint) (bG d) (bGK a) (bGK b) (x.bits))
  | .st d a b x => some (wordOf 0x10 1 hd (x.hint) (bG d) (bGK a) (bGK b) (x.bits))
  | .lda d a b x => some (wordOf 0x10 2 hd (x.hint) (bG d) (bGK a) (bGK b) (x.bits))
  | .stl d a b x => some (wordOf 0x10 3 hd (x.hint) (bG d) (bGK a) (bGK b) (x.bits))
  | .pref a b x => some (wordOf 0x10 4 hd (x.hint) 0 (bGK a) (bGK b) (x.bits))
  | .dcwb a b x => some (wordOf 0x10 5 hd (x.hint) 0 (bGK a) (bGK b) (x.bits))
  | .vld d a b x => some (wordOf 0x11 0 hd (x.hint) (bV d) (bGK a) (bGK b) (x.bits))
  | .vst d a b x => some (wordOf 0x11 1 hd (x.hint) (bV d) (bGK a) (bGK b) (x.bits))
  | .vgath d a b x => some (wordOf 0x11 2 hd (x.hint) (bV d) (bG a) (bV b) (x.bits))
  | .vscat d a b x => some (wordOf 0x11 3 hd (x.hint) (bV d) (bG a) (bV b) (x.bits))
  | .vbld d a b x => some (wordOf 0x11 4 hd (x.hint) (bV d) (bGK a) (bGK b) (x.bits))
  | .vlsl d a b x => some (wordOf 0x11 5 hd (x.hint) (bV d) (bGK a) (bGK b) (x.bits))
  | .vlss d a b x => some (wordOf 0x11 6 hd (x.hint) (bV d) (bGK a) (bGK b) (x.bits))
  | .vspill d a b x => some (wordOf 0x11 7 hd (x.hint) (bV d) (bGK a) (bGK b) (x.bits))
  | .vfill d a b x => some (wordOf 0x11 8 hd (x.hint) (bV d) (bGK a) (bGK b) (x.bits))
  | .tld d a b x => some (wordOf 0x12 0 hd (x.hint) (bG d) (bG a) (bGK b) (x.bits))
  | .tsv d a b x => some (wordOf 0x12 1 hd (x.hint) (bG d) (bG a) (bGK b) (x.bits))
  | .rcfence => some (wordOf 0x12 4 hd (noHint) 0 0 0 (0))
  | .twait a => some (wordOf 0x12 5 hd (noHint) 0 (bG a) 0 (0))
  | .tstat d a => some (wordOf 0x12 6 hd (noHint) (bG d) (bG a) 0 (0))
  | .talloc d a => some (wordOf 0x12 7 hd (noHint) (bG d) (bG a) 0 (0))
  | .tldv d a b x => some (wordOf 0x12 9 hd (x.hint) (bV d) (bG a) (bGK b) (x.bits))
  | .tsvv d a b x => some (wordOf 0x12 10 hd (x.hint) (bV d) (bG a) (bGK b) (x.bits))
  | .vadd d a b x => some (wordOf 0x18 0 hd (noHint) (bV d) (bV a) (bVGK b) (x.bits 0))
  | .vsub d a b x => some (wordOf 0x18 1 hd (noHint) (bV d) (bV a) (bVGK b) (x.bits 0))
  | .vmul d a b x => some (wordOf 0x18 2 hd (noHint) (bV d) (bV a) (bVGK b) (x.bits 0))
  | .vfma d a b c x => some (wordOf 0x18 3 hd (noHint) (bV d) (bV a) (bVGK b) (x.bits (bVG c)))
  | .vfms d a b c x => some (wordOf 0x18 4 hd (noHint) (bV d) (bV a) (bVGK b) (x.bits (bVG c)))
  | .vmin d a b x => some (wordOf 0x18 5 hd (noHint) (bV d) (bV a) (bVGK b) (x.bits 0))
  | .vmax d a b x => some (wordOf 0x18 6 hd (noHint) (bV d) (bV a) (bVGK b) (x.bits 0))
  | .vabs d a x => some (wordOf 0x18 7 hd (noHint) (bV d) (bV a) 0 (x.bits 0))
  | .vneg d a x => some (wordOf 0x18 8 hd (noHint) (bV d) (bV a) 0 (x.bits 0))
  | .vdiv d a b x => some (wordOf 0x18 9 hd (noHint) (bV d) (bV a) (bVGK b) (x.bits 0))
  | .vsqrt d a x => some (wordOf 0x18 10 hd (noHint) (bV d) (bV a) 0 (x.bits 0))
  | .vrcp d a x => some (wordOf 0x18 11 hd (noHint) (bV d) (bV a) 0 (x.bits 0))
  | .vrsq d a x => some (wordOf 0x18 12 hd (noHint) (bV d) (bV a) 0 (x.bits 0))
  | .vexp2 d a x => some (wordOf 0x18 13 hd (noHint) (bV d) (bV a) 0 (x.bits 0))
  | .vlog2 d a x => some (wordOf 0x18 14 hd (noHint) (bV d) (bV a) 0 (x.bits 0))
  | .viadd d a b x => some (wordOf 0x19 0 hd (noHint) (bV d) (bV a) (bVGK b) (x.bits 0))
  | .visub d a b x => some (wordOf 0x19 1 hd (noHint) (bV d) (bV a) (bVGK b) (x.bits 0))
  | .vimul d a b x => some (wordOf 0x19 2 hd (noHint) (bV d) (bV a) (bVGK b) (x.bits 0))
  | .vimad d a b c x => some (wordOf 0x19 3 hd (noHint) (bV d) (bV a) (bVGK b) (x.bits (bVG c)))
  | .vimin d a b x => some (wordOf 0x19 4 hd (noHint) (bV d) (bV a) (bVGK b) (x.bits 0))
  | .vimax d a b x => some (wordOf 0x19 5 hd (noHint) (bV d) (bV a) (bVGK b) (x.bits 0))
  | .vand d a b x => some (wordOf 0x19 6 hd (noHint) (bV d) (bV a) (bVGK b) (x.bits 0))
  | .vor d a b x => some (wordOf 0x19 7 hd (noHint) (bV d) (bV a) (bVGK b) (x.bits 0))
  | .vxor d a b x => some (wordOf 0x19 8 hd (noHint) (bV d) (bV a) (bVGK b) (x.bits 0))
  | .vshl d a b x => some (wordOf 0x19 9 hd (noHint) (bV d) (bV a) (bVGK b) (x.bits 0))
  | .vshr d a b x => some (wordOf 0x19 10 hd (noHint) (bV d) (bV a) (bVGK b) (x.bits 0))
  | .vsha d a b x => some (wordOf 0x19 11 hd (noHint) (bV d) (bV a) (bVGK b) (x.bits 0))
  | .vcmp d a b x => some (wordOf 0x1A 0 hd (noHint) (bQ d) (bV a) (bVGK b) (x.bits 0))
  | .vshuf d a b c x => some (wordOf 0x1A 2 hd (noHint) (bV d) (bV a) (bV b) (x.bits (bV c)))
  | .vbcast d a x => some (wordOf 0x1A 3 hd (noHint) (bV d) (bVGK a) 0 (x.bits 0))
  | .vmov d a x => some (wordOf 0x1A 4 hd (noHint) (bV d) (bV a) 0 (x.bits 0))
  | .viota d a b x => some (wordOf 0x1A 5 hd (noHint) (bV d) (bGK a) (bGK b) (x.bits 0))
  | .vext d a b x => some (wordOf 0x1A 6 hd (noHint) (bG d) (bV a) (bGK b) (x.bits 0))
  | .vins d a b x => some (wordOf 0x1A 7 hd (noHint) (bV d) (bGK a) (bGK b) (x.bits 0))
  | .vcomp d a b x => some (wordOf 0x1A 8 hd (noHint) (bV d) (bV a) (bGK b) (x.bits 0))
  | .vred d a b x => some (wordOf 0x1B 1 hd (noHint) (bG d) (bV a) (bGK b) (x.bits 0))
  | .vscan d a b x => some (wordOf 0x1B 2 hd (noHint) (bV d) (bV a) (bGK b) (x.bits 0))
  | .vdot4 d a b x => some (wordOf 0x1B 3 hd (noHint) (bV d) (bV a) (bV b) (x.bits 0))
  | .vrng d a b x => some (wordOf 0x1B 4 hd (noHint) (bV d) (bG a) (bG b) (x.bits 0))
  | .vscale d a x => some (wordOf 0x1B 5 hd (noHint) (bG d) (bV a) 0 (x.bits 0))
  | .mclaim s z => some (wordOf 0x1C 0 hd (noHint) 0 0 0 ((z ++ s).zeroExtend 40))
  | .mrel s z => some (wordOf 0x1C 1 hd (noHint) 0 0 0 ((z ++ s).zeroExtend 40))
  | .mlds d a b fmt space rows rbytes h => some (wordOf 0x1C 2 hd (h) (bS d) (bG a) (bGK b) (fmt ++ (0 : BitVec 2) ++ space ++ (0 : BitVec 1) ++ rows ++ rbytes ++ (0 : BitVec 17)))
  | .mlatch a fmt nmaj kofs klen => some (wordOf 0x1C 3 hd (noHint) 0 (bS a) 0 (fmt ++ (0 : BitVec 4) ++ BitVec.ofBool nmaj ++ (0 : BitVec 5) ++ kofs ++ klen ++ (0 : BitVec 9)))
  | .mma d a fmt rows kofs => some (wordOf 0x1C 4 hd (noHint) (bZ d) (bS a) 0 (fmt ++ (0 : BitVec 5) ++ rows ++ kofs ++ (0 : BitVec 15)))
  | .mzero d fmt => some (wordOf 0x1C 5 hd (noHint) (bZ d) 0 0 (fmt ++ (0 : BitVec 34)))
  | .mstz d a b fmt rnd space sat rows => some (wordOf 0x1C 6 hd (noHint) (bZ d) (bG a) (bGK b) (fmt ++ rnd ++ space ++ BitVec.ofBool sat ++ rows ++ (0 : BitVec 24)))
  | .mrdz d a b half => some (wordOf 0x1C 7 hd (noHint) (bV d) (bZ a) (bGK b) ((BitVec.ofBool half).zeroExtend 40))
  | .mwrz d a b half => some (wordOf 0x1C 8 hd (noHint) (bZ d) (bV a) (bGK b) ((BitVec.ofBool half).zeroExtend 40))
  | .mwait => some (wordOf 0x1C 9 hd (noHint) 0 0 0 (0))
  | .mscale d a fmt rnd => some (wordOf 0x1C 11 hd (noHint) (bZ d) (bG a) 0 (fmt ++ rnd ++ (0 : BitVec 32)))
  | _ => none

/-! ### Command slots (R45) -/

/-- Causes of a refused command (R45, R363). -/
def cmdOperand : Cause := 0x169

/-- The doubleword of a slot. -/
def slotWord (cw : List Word) (n : Nat) : Word := cw.getD n 0

/-- Operand doublewords n and above that a command does not use are zero (R45). -/
def slotZeroFrom (cw : List Word) (n : Nat) : Bool := (List.range 8).all fun k => k < n || slotWord cw k == 0

/-- An 8-byte aligned counter or word VA. -/
def aligned8 (v : Word) : Bool := v.toNat % 8 == 0

/-- Reading of a 64-byte command slot. A command whose opcode is none of R45's is itself a step (CMD_BAD_OPCODE); a reserved
bit, a non-zero unused doubleword or an operand out of range is refused with SYSTEM.cmd-operand. -/
def decodeCommand (pid stream : BitVec 2) (cw : List Word) : Except Cause Instr :=
  let c0 := slotWord cw 0
  let c := slotWord cw
  let h : CmdHdr := { pid := pid, stream := stream, tag := c0.extractLsb' 32 32 }
  let flags := (c0.extractLsb' 8 8).toNat
  let resv := c0.extractLsb' 16 16 == 0
  let chk (used : Nat) (maxFlags : Nat) (ok : Bool) (i : Instr) : Except Cause Instr :=
    if resv && flags ≤ maxFlags && slotZeroFrom cw used && ok then .ok i else .error cmdOperand
  match (c0.extractLsb' 0 8).toNat with
  | 0x01 => chk 4 0 (aligned8 (c 2) && (c 3).toNat % 16 == 0) (.cmdLaunch h (c 1) (c 2) (c 3))
  | 0x02 => chk 4 0 (aligned8 (c 2) && aligned8 (c 3)) (.cmdLaunchn h (c 1) (c 2) (c 3))
  | 0x03 => chk 3 0 (1 ≤ (c 1).toNat && (c 1).toNat ≤ 256 && 1 ≤ (c 2).toNat && (c 2).toNat ≤ 2 ^ 32) (.cmdLoop h (c 1) (c 2))
  | 0x04 => chk 4 3 (aligned8 (c 1) && (c 3).toNat ≤ 255) (.cmdIf h (c 1) (c 2) (c 3) (.ofNat 2 flags))
  | 0x05 => chk 3 0 (aligned8 (c 1)) (.cmdWaitctr h (c 1) (c 2))
  | 0x06 => chk 3 0 (aligned8 (c 1)) (.cmdAddctr h (c 1) (c 2))
  | 0x07 =>
    chk 6 0 (1 ≤ (c 3).toNat && (c 3).toNat ≤ 2 ^ 32 && aligned8 (c 4)) (.cmdCopy h (c 1) (c 2) (c 3) (c 4) (c 5))
  | 0x08 => chk 1 1 true (if flags == 0 then .cmdFence h else .cmdFenceReload h)
  | 0x09 => chk 1 0 true (.cmdReplay h)
  | 0x0A =>
    chk 5 0 ((c 1).toNat ≤ 3 && (c 2).toNat ≤ 2 && (c 3).toNat ≤ 1 && aligned8 (c 4)) (.cmdRole h (c 1) (c 2) (c 3) (c 4))
  | op => .ok (.cmdBadOpcode h (.ofNat 8 op))

/-! ### The host's question -/

/-- The 96 bits of an instruction laid out as R84 stores them: bit n of the word is bit n mod 8 of byte n / 8. -/
def tableWord (w : Nat) : BitVec 96 := BitVec.ofNat 96 w

/-- The bytes of a word in memory order (R84). -/
def wordBytes (w : BitVec 96) : List Byte := (List.range 12).map fun i => w.extractLsb' (8 * i) 8

/-- A word from its twelve bytes (R84). -/
def wordOfBytes (bs : List Byte) : BitVec 96 :=
  BitVec.ofNat 96 (bs.take 12 |>.foldr (fun b acc => b.toNat + 256 * acc) 0)

/-- What the decoder reads from an instruction of `nbits` bits `w`: none where it refuses, or where the bits are no word. -/
def decodeTableWord (nbits w : Nat) : Option Instr :=
  if nbits ≤ 96 && w < 2 ^ nbits then
    match decode (wordOfBytes (wordBytes (tableWord w))) with
    | .ok (_, i) => some i
    | .error _ => none
  else none

end Sys2Proof
end

