-- ==== Sys2Proof/Machine/System.lean ====
section
/-!
DEFINITION. Group 0x0F but the partition forms of CTXSAVE and CTXLOAD: TLBINV (R373), REPLAY (R370) and the debug images of
trapped tasks (R371, R372). Every member is privileged (R368).
-/

namespace Sys2Proof.Machine

/-- The first steps of every member: privilege (R368) and replayability (R389). -/
def systemOp : Act Unit := do
  needPrivilege
  loseReplay3

/-! ### TLBINV (R373) -/

/-- What a TLBINV matches. -/
inductive InvKind where
  | page (a : Word) (asid : BitVec 16)
  | range (a n : Word) (asid : BitVec 16)
  | asid (asid : BitVec 16)
  | asidg (asid : BitVec 16)
  | all
  deriving DecidableEq, Repr

/-- Bytes [lo, lo + n) meet the addresses of a page or a range. -/
def InvKind.meets (k : InvKind) (lo n : Nat) : Bool :=
  match k with
  | .page a _ => lo ≤ a.toNat && a.toNat < lo + n
  | .range a b _ => b != 0 && lo < a.toNat + b.toNat && a.toNat < lo + n
  | _ => true

/-- The address spaces that a TLBINV names. -/
def InvKind.ofAsid (k : InvKind) (x : BitVec 16) : Bool :=
  match k with
  | .page _ y => x == y
  | .range _ _ y => x == y
  | .asid y => x == y
  | .asidg y => x == y
  | .all => true

/-- An entry of a TLB that a TLBINV of a partition drops. -/
def InvKind.hits (k : InvKind) (pid : BitVec 2) (e : TlbEnt) : Bool :=
  e.pid == pid && k.ofAsid e.asid && k.meets (e.page * 2 ^ e.log) (2 ^ e.log) && !((match k with | .asid _ => true | _ => false) && permG e.perms)

/-- Entries that stand in any TLB of the device. -/
def State.allTlb (s : State) : List TlbEnt :=
  (s.allCores.flatMap Core.tlb) ++ (s.clusters.flatMap Cluster.tlb) ++ s.slices.flatMap Slice.tlb

/-- An address goes with its page: the page of 64 KiB, and any larger one whose entry is dropped. -/
def InvKind.dropsVa (k : InvKind) (gone : List TlbEnt) (asid : BitVec 16) (va : Nat) : Bool :=
  k.ofAsid asid && (k.meets (va / 65536 * 65536) 65536 || gone.any fun e => e.asid == asid && e.page == va / 2 ^ e.log)

/-- A line of an instruction cache goes with its page (R86). -/
def InvKind.dropsLine (k : InvKind) (gone : List TlbEnt) (l : ICLine) : Bool := k.dropsVa gone l.asid (l.va * 64)

/-- A queued matrix command reads or writes through a translation that the TLBINV covers (R186). -/
def InvKind.dropsCmd (k : InvKind) (q : MCmd) : Bool :=
  q.pages.any fun p => k.meets (p.page * 65536 / 2 ^ p.log * 2 ^ p.log) (2 ^ p.log)

/-- The queue of a unit that serves a task of the partition and address spaces. -/
def State.mxOf (s : State) (pid : BitVec 2) (k : InvKind) (m : Matrix) : Bool :=
  let t := s.getTask m.bound
  m.bound != 0 && t.pid == pid && k.ofAsid t.asid

/-- TLBINV on every unit of a partition. -/
def State.tlbinv (s : State) (pid : BitVec 2) (k : InvKind) : State :=
  let gone := s.allTlb.filter (k.hits pid)
  let core (c : Core) : Core :=
    { c with tlb := c.tlb.filter fun e => !k.hits pid e
             icache := if s.inPart pid c.id then c.icache.filter fun l => !k.dropsLine gone l else c.icache
             mx := if s.mxOf pid k c.mx then { c.mx with queue := c.mx.queue.map fun q => { q with stale := q.stale || k.dropsCmd q } } else c.mx }
  { s with
    core := core s.core, cores := s.cores.map core
    clusters := s.clusters.map fun c =>
      { c with tlb := c.tlb.filter fun e => !k.hits pid e
               tiles := c.tiles.map fun t => { t with leases := t.leases.map fun l => if k.hits pid l.ent then { l with revoked := true } else l } }
    slices := s.slices.map fun c => { c with tlb := c.tlb.filter fun e => !k.hits pid e, pins := c.pins.filter fun e => !k.hits pid e.1 } }

/-- A matrix load or store still has to use a translation that a TLBINV covers (R186). -/
def State.mxUses (s : State) (pid : BitVec 2) (k : InvKind) (c : Core) : Bool :=
  c.mx.held.isNone && s.mxOf pid k c.mx && c.mx.queue.any k.dropsCmd

/-- A request to the host or another device, already translated through what a TLBINV covers, has no answer yet (R373). -/
def State.outUses (s : State) (pid : BitVec 2) (k : InvKind) : Bool :=
  let gone := s.allTlb.filter (k.hits pid)
  s.outs.any fun o =>
    let t := s.getTask o.tid
    o.tid != 0 && o.reply.isNone && !o.lost && t.pid == pid && k.dropsVa gone t.asid o.va.toNat

/-- TLBINV: it acts after the task's earlier writes, and completes once no queued matrix access uses what it drops and no request that was
translated through it is outstanding. -/
def tlbinvAct (k : InvKind) : Act Unit := do
  systemOp
  releaseAt 4
  let s ← get
  match s.allCores.find? (s.mxUses s.me.pid k) with
  | some c =>
    if !s.agenda.contains (.sequencerRunCommand c.id) then set (s.push (.sequencerRunCommand c.id))
    throw .stall
  | none =>
    if s.outUses s.me.pid k then throw .stall
    set (s.tlbinv s.me.pid k)

/-- TLBINV.PAGE (R373). -/
def execTlbinvPage (a : GReg) (asid : BitVec 16) (s : State) : Out := finish (tlbinvAct (.page (s.g a) asid)) s
/-- TLBINV.RANGE (R373). -/
def execTlbinvRange (a b : GReg) (asid : BitVec 16) (s : State) : Out := finish (tlbinvAct (.range (s.g a) (s.g b) asid)) s
/-- TLBINV.ASID (R373). -/
def execTlbinvAsid (asid : BitVec 16) (s : State) : Out := finish (tlbinvAct (.asid asid)) s
/-- TLBINV.ASIDG (R373). -/
def execTlbinvAsidg (asid : BitVec 16) (s : State) : Out := finish (tlbinvAct (.asidg asid)) s
/-- TLBINV.ALL (R373). -/
def execTlbinvAll (s : State) : Out := finish (tlbinvAct .all) s

/-! ### REPLAY (R370) -/

/-- One internal access that waited for replay-all is made again (R430). -/
def State.retryAcc (s : State) (cl : BitVec 8) (pid : BitVec 2) (a : IntAcc) : State :=
  match a with
  | .ctrAdd w serves asid va n => s.devAddOrWait pid asid cl va n.toNat w serves
  | .resultSlot asid va h =>
    match s.lookupFut (hCl h) (hEnt h) (hGen h) with
    | (s, .found r) =>
      let x := s.launchDone cl asid va r.fut
      let s := x.1.putFut r x.2.1
      if x.2.2 then s.onCluster cl fun c => { c with intAcc := c.intAcc.concat (pid, .resultSlot asid va h) } else s
    | (s, .wait _) => s.onCluster cl fun c => { c with intAcc := c.intAcc.concat (pid, .resultSlot asid va h) }
    | (s, .stale) => s
  | .event h e id => s.futEventOrWait pid h e id
  | .afterSlot h w serves asid va =>
    if s.settleWaits h then s.intWait cl pid (.afterSlot h w serves asid va) else s.devAddOrWait pid asid cl va 1 w serves
  | .watchEval k => s.evalWatch k
  | .retire t => s.retireOn t

/-- The waiting internal accesses of a cluster are made again, in order. -/
def State.retryCluster (s : State) (cl : BitVec 8) (pid : BitVec 2) : State :=
  let as_ := (s.getCluster cl).intAcc.filter fun a => a.1 == pid
  let s := s.onCluster cl fun c => { c with intAcc := c.intAcc.filter fun a => a.1 != pid }
  as_.foldl (fun s a => s.retryAcc cl pid a.2) s

/-- Fills, drains and engine operations of a cluster that a page had stopped go on. -/
def State.retryEngine (s : State) (cl : BitVec 8) (pid : BitVec 2) : State :=
  let c := s.getCluster cl
  let ts := c.tiles.filter fun t => (s.getTask t.owner).pid == pid && !t.paused.isEmpty
  let os := c.ops.filter fun o => o.pid == pid && o.paused.isSome
  let s := ts.foldl (fun s t =>
    (s.onTile cl t.frame fun t => { t with paused := [] }).push
      (if t.st == .filling then .tileFillComplete cl (BitVec.ofNat 11 t.frame) else .tileDrainComplete cl (BitVec.ofNat 11 t.frame))) s
  os.foldl (fun s o => (s.onOp cl o.id fun o => { o with paused := none }).push (.copyEngineComplete cl o.id)) s

/-- A stream after replay-all (R56, R370): out of FAULT, it makes the access again that a page had refused. -/
def State.replayStream (s : State) (pid n : BitVec 2) : State :=
  let x := rd (s.part pid).streams n
  if x.st ≠ .fault then s
  else
    let s := s.onPart pid fun p => { p with streams := wr p.streams n { x with st := x.resumeTo, cause := 0, owed := true } }
    if x.roleDone then s.push (.roleChangeEnd pid n) else s.fenceCheck pid n

/-- Replay-all in a partition: the state, and how many FAULT tasks it resumed. -/
def State.replayAll (s : State) (pid : BitVec 2) : State × Nat :=
  let s : State := { s with clusters := s.clusters.map fun (c : Cluster) => { c with pend := c.pend.filter fun p => p.pid != pid } }
  let ts := s.allTasks.filter fun t => t.pid == pid && t.st == .fault
  let s := ts.foldl (fun s t => (s.onTask t.tid fun t => { t with st := .parked }).wakeTail t.tid) s
  let cls := s.clusters.map Cluster.id
  let s := cls.foldl (fun s cl => (s.retryEngine cl pid).retryCluster cl pid) s
  let prep := s.allTasks.filter fun t => t.pid == pid && t.st == .preparing
  let s := prep.foldl (fun s t => s.push (.tileFrameAllocate t.tid)) s
  let cs := s.colls.filter fun c => c.pid == pid && c.paused
  let s := cs.foldl (fun s c => s.push (.collectiveComplete c.id)) s
  let s : State := { s with colls := s.colls.map fun (c : CollPart) => if c.pid == pid then { c with paused := false } else c }
  let s := (s.clusters.filter fun c => s.clusterInPart pid c.id && !c.launchWait.isEmpty).foldl (fun s c => s.push (.launchFutureAllocate c.id)) s
  (two.foldl (fun s n => s.replayStream pid n) s, ts.length)

/-- REPLAY.ALL. -/
def execReplayAll (d : GReg) (s : State) : Out :=
  finish (do
    systemOp
    releaseAt 4
    let s ← get
    let r := s.replayAll s.me.pid
    set (r.1.setG d (BitVec.ofNat 64 r.2))) s

/-- The TRAPPED task of the issuing partition that a register names. -/
def State.trappedTask (s : State) (w : Word) : Option Task :=
  if w.extractLsb' 32 32 ≠ 0 then none
  else (s.findTask (w.extractLsb' 0 32)).filter fun t => t.st == .trapped && t.pid == s.me.pid

/-- REPLAY.RESUME. -/
def execReplayResume (d b : GReg) (s : State) : Out :=
  finish (do
    systemOp
    releaseAt 4
    let s ← get
    match s.trappedTask (s.g b) with
    | none => set (s.setG d 0)
    | some t =>
      let s := (s.onTask t.tid fun t => { t with intrap := false, st := .parked }).wakeTail t.tid
      set (s.setG d 1)) s

/-- REPLAY.FAIL. -/
def execReplayFail (d b : GReg) (s : State) : Out :=
  finish (do
    systemOp
    releaseAt 4
    let s ← get
    match s.trappedTask (s.g b) with
    | none => set (s.setG d 0)
    | some t => set ((s.failTask t.tid t.parkCause).setG d 1)) s

/-! ### Debug images (R371, R372) -/

/-- Values of n bytes each, the first lowest. -/
def packed (n : Nat) (l : List Nat) : Nat := l.foldr (fun x acc => x % 2 ^ (8 * n) + 2 ^ (8 * n) * acc) 0

/-- The debug image of a task; its registers that depend on a core are those of the core that it ran on. -/
def State.debugImage (s : State) (t : Task) : Nat :=
  let u := { s with me := t, core := s.getCore t.core }
  packed 512 [packed 8 (t.g.toList.map BitVec.toNat)] + 2 ^ 4096 * packed 2048 [packed 64 (t.v.toList.map BitVec.toNat)] +
    2 ^ (8 * 2560) * packed 64 [packed 8 (t.q.toList.map BitVec.toNat)] +
    2 ^ (8 * 2624) * packed 8 ([t.pc.toNat, t.fflags.toNat] ++ ((List.range 20).map fun n => ((u.readSys n).getD 0).toNat) ++ [t.parkCause.toNat])

/-- g0 and q0 of an image are what they read as (R116). -/
def Task.shown (t : Task) : Task := { t with g := t.g.set 0 0, q := t.q.set 0 (BitVec.allOnes 64) }

/-- CTXSAVE.T. -/
def execCtxsaveT (d a b : GReg) (s : State) : Out :=
  finish (do
    systemOp
    let s ← get
    match s.trappedTask (s.g b) with
    | none => set (s.setG d 0)
    | some t =>
      writeV (s.g a) 4096 (s.debugImage t.shown) {} false
      upd (·.setG d 1)) s

/-- A change of another task's task-level registers. -/
def State.asTask (s : State) (t : Task) (f : State → State) : Task := (f { s with me := t }).me

/-- A task from a debug image: g, v, q, PC, FFLAGS and the RW registers. -/
def State.loadDebug (s : State) (t : Task) (x : Nat) : Task :=
  let w (i : Nat) : Word := BitVec.ofNat 64 (x / 2 ^ (8 * i))
  let t := { t with
    g := Vector.ofFn fun i => w (8 * i.val), v := Vector.ofFn fun i => BitVec.ofNat 512 (x / 2 ^ (8 * (512 + 64 * i.val)))
    q := Vector.ofFn fun i => w (2560 + 8 * i.val), pc := w 2624, fflags := (w 2632).extractLsb' 0 7 }
  (List.range 20).foldl (fun t n => if taskRW n then s.asTask t fun s => s.writeTaskReg n (w (2640 + 8 * n) &&& sysMask n) else t) t

/-- CTXLOAD.T. -/
def execCtxloadT (d a b : GReg) (s : State) : Out :=
  finish (do
    systemOp
    let s ← get
    match s.trappedTask (s.g b) with
    | none => set (s.setG d 0)
    | some t =>
      let x ← readV (s.g a) 4096
      let pc := BitVec.ofNat 64 (x / 2 ^ (8 * 2624))
      if pc.extractLsb' 0 2 ≠ 0 then trap 0x030 pc
      upd fun s => (s.putTask (s.loadDebug t x)).setG d 1) s

end Sys2Proof.Machine
end

