-- ==== Sys2Proof/Machine/Stream.lean ====
section
/-!
DEFINITION. Command streams (R41 to R56): a stream's turn, the effect of each command, and its waits and resumes.
-/

namespace Sys2Proof.Machine

/-! ### A stream and its accesses (R41, R56) -/

def State.strm (s : State) (pid n : BitVec 2) : Stream := rd (s.part pid).streams n

def State.onStream (s : State) (pid n : BitVec 2) (f : Stream → Stream) : State :=
  s.onPart pid fun p => { p with streams := wr p.streams n (f (rd p.streams n)) }

/-- The cluster that counts as a stream's (R369): the lowest of its partition. -/
def State.streamCluster (s : State) (pid : BitVec 2) : BitVec 8 := (s.partClusters pid).headD 0

def streamCode : StreamSt → BitVec 3 | .run => 0 | .wait => 1 | .fault => 2 | .error => 3 | .stopped => 4

/-- The status block (R56). -/
def Stream.block (x : Stream) : Nat :=
  wordsNat [x.cmd.extractLsb' 0 32 ++ BitVec.ofNat 20 x.sub ++ x.cause ++ streamCode x.st, x.tag.setWidth 64, x.resumes]

/-- A fault record for a stream (R369). -/
def State.streamFault (s : State) (pid n : BitVec 2) (va : Word) (c : Cause) (acc : Access) : State :=
  let cl := s.streamCluster pid
  s.pageFault pid cl (coreIn cl 0) (s.strm pid n).desc.asid 0 va c 6 false acc

/-- The trap record of a command (R56, R361). Its TVAL is not stated: a free value. -/
def State.streamRecord (s : State) (pid n : BitVec 2) (c : Cause) : State :=
  let x := s.strm pid n
  let w := s.freshWord
  w.1.trapRecord pid 0 (coreIn (s.streamCluster pid) 0) 4 false c x.cmd w.2 0 0 x.desc.asid 0 0 x.tag

/-- A stream's own access was refused: the state it takes (R56). `served` says that it served the command before CMD, which is
done, and `status` that it was the write of the status block, which is then not made, or is made again at replay-all. Where no command is served the record names
the next one, whose TAG the stream has not read: a free value. (DEDUCED, assumption 40) -/
def State.refuseOwn (s : State) (pid n : BitVec 2) (va : Word) (c : Cause) (acc : Access) (served status : Bool := false) : State :=
  if faultCause c then
    (s.streamFault pid n va c acc).onStream pid n fun x =>
      { x with st := .fault, cause := c, resumeTo := if x.st = .fault then x.resumeTo else x.st, owed := !status }
  else
    let idle : Bool := !served && (s.strm pid n).st == .run
    let w := s.freshWord
    ((if idle then w.1 else s).onStream pid n fun x => { x with
      st := .error, cause := c, owed := !status, waiting := none, idle := idle, cmd := if served then x.cmd - 1 else x.cmd
      tag := if idle then w.2.extractLsb' 0 32 else x.tag }).streamRecord pid n c

/-- The status block is written (R56). -/
def State.writeStatus (s : State) (pid n : BitVec 2) (served : Bool := false) : State :=
  let x := s.strm pid n
  match s.asWrite pid x.desc.asid x.desc.status 64 x.block with
  | .ok s => s.onStream pid n fun x => { x with owed := false }
  | .error c => s.refuseOwn pid n x.desc.status c .write served true

/-- The stream takes a state and says so. -/
def State.enterSt (s : State) (pid n : BitVec 2) (f : Stream → Stream) (served : Bool := false) : State :=
  (s.onStream pid n f).writeStatus pid n served

/-- A command fails (R45, R56). -/
def State.failCmd (s : State) (pid n : BitVec 2) (tag : BitVec 32) (c : Cause) : State :=
  ((s.onStream pid n fun x => { x with st := .error, cause := c, tag := tag, waiting := none, idle := false }).streamRecord pid n c).writeStatus pid n

/-- A translation fault on a command's own access leaves the stream in FAULT (R56). (DEDUCED, assumption 41) -/
def State.faultCmd (s : State) (pid n : BitVec 2) (tag : BitVec 32) (va : Word) (c : Cause) (acc : Access) : State :=
  (s.streamFault pid n va c acc).enterSt pid n fun x =>
    { x with st := .fault, cause := c, tag := tag, resumeTo := if x.st = .fault then x.resumeTo else x.st }

/-- An access of a command that translation refuses (R56). -/
def State.refuseCmd (s : State) (pid n : BitVec 2) (tag : BitVec 32) (va : Word) (c : Cause) (acc : Access) : State :=
  if faultCause c then s.faultCmd pid n tag va c acc else s.failCmd pid n tag c

/-- The command has issued, and the next one follows. -/
def State.issued (s : State) (pid n : BitVec 2) : State :=
  s.onStream pid n fun x => { x with cmd := x.cmd + 1, sub := 0, count := none, waiting := none }

/-- The stream stops until a wait of its command ends. -/
def State.waitCmd (s : State) (h : CmdHdr) (i : Instr) : State :=
  s.enterSt h.pid h.stream fun x => { x with st := .wait, tag := h.tag, cause := 0, waiting := some i }

/-- A wait has ended: the stream runs again, past its command. -/
def State.endWait (s : State) (pid n : BitVec 2) : State := (s.issued pid n).enterSt pid n (fun x => { x with st := .run, cause := 0 }) true

/-! ### LAUNCH and LAUNCHN (R25, R46, R47) -/

/-- How the launch of one record ends. -/
inductive Launched where
  | ok (s : State)
  | full
  | refused (va : Word) (c : Cause)
  deriving DecidableEq, Repr

/-- One record of a launch: read, checked and entered into its queue. -/
def State.launchOne (s : State) (h : CmdHdr) (va done slot : Word) (fut : Bool) : Launched :=
  if va.toNat % 64 ≠ 0 then .refused va 0x0B3
  else
    match s.asWords h.pid (s.strm h.pid h.stream).desc.asid va with
    | .error c => .refused va c
    | .ok (s, ws) =>
      let rec8 := recordOf fun i => ws.getD i 0
      match recordCause rec8 with
      | some c => .refused va c
      | none =>
        let q : BitVec 6 := (twLqid rec8[7]).extractLsb' 0 6
        let lq := rd (s.part h.pid).queues q
        if !lq.enable then .refused va 0x16B
        else if 64 ≤ lq.recs.length then .full
        else
          let r := s.newTask h.pid (s.strm h.pid h.stream).desc.asid ((rec8.set 5 0).set 6 done)
          let s := r.1.onTask r.2 fun t => { t with launched := if fut then some h.stream else none, resultSlot := slot, tag := h.tag }
          let s := s.onPart h.pid fun p => { p with queues := wr p.queues q { rd p.queues q with recs := (rd p.queues q).recs.concat r.2 } }
          .ok ((s.onStream h.pid h.stream fun x => { x with tasks := x.tasks.concat r.2 }).drawCheck h.pid)

/-- LAUNCH (R46). While its queue is full the stream waits in RUN, as it does for a COPY that no engine takes and for an ADDCTR that follows
copies (R54: it names no state; DESIGN CHOICE, assumption 84). -/
def execCmdLaunch (h : CmdHdr) (record done slot : Word) (s : State) : Out :=
  match s.launchOne h record done slot true with
  | .ok t => .next (t.issued h.pid h.stream)
  | .full => .next s
  | .refused va c => .next (s.refuseCmd h.pid h.stream h.tag va c .read)

/-- The records of a LAUNCHN from the stream's SUB on. -/
def State.launchMany (s : State) (h : CmdHdr) (first done : Word) (count : Nat) : Nat → State
  | 0 => s.issued h.pid h.stream
  | left + 1 =>
    let k := count - (left + 1)
    match s.launchOne h (first + BitVec.ofNat 64 (64 * k)) done 0 false with
    | .ok t => (t.onStream h.pid h.stream fun x => { x with sub := k + 1 }).launchMany h first done count left
    | .full => s
    | .refused va c => s.refuseCmd h.pid h.stream h.tag va c .read

/-- LAUNCHN (R47): the count word is read once. -/
def execCmdLaunchn (h : CmdHdr) (first count done : Word) (s : State) : Out :=
  let x := s.strm h.pid h.stream
  match x.count with
  | some n => .next (s.launchMany h first done n (n - x.sub))
  | none =>
    match s.asRead h.pid x.desc.asid count 8 with
    | .error c => .next (s.refuseCmd h.pid h.stream h.tag count c .read)
    | .ok (t, n) =>
      if 2 ^ 20 < n then .next (t.failCmd h.pid h.stream h.tag 0x169)
      else .next ((t.onStream h.pid h.stream fun x => { x with count := some n, sub := 0 }).launchMany h first done n n)

/-! ### LOOP and IF (R48, R49) -/

/-- VA of the slot of command n (R43). -/
def Stream.slotVa (x : Stream) (n : Word) : Word := x.desc.base + BitVec.ofNat 64 (64 * (n.toNat % 2 ^ x.desc.log2n))

/-- The slots of a LOOP's body, read for another LOOP. -/
def State.bodyLoop (s : State) (pid : BitVec 2) (x : Stream) : Nat → Word → Except (Word × Cause) Bool
  | 0, _ => .ok false
  | k + 1, n =>
    match s.asRead pid x.desc.asid (x.slotVa n) 8 with
    | .error c => .error (x.slotVa n, c)
    | .ok (_, w) => if w % 256 = 3 then .ok true else s.bodyLoop pid x k (n + 1)

/-- LOOP (R48). One that fails on a later pass leaves the loop register as it stands (DESIGN CHOICE, assumption 85). -/
def execCmdLoop (h : CmdHdr) (len iters : Word) (s : State) : Out :=
  let x := s.strm h.pid h.stream
  if x.cmd < len || 2 ^ x.desc.log2n ≤ len.toNat then .next (s.failCmd h.pid h.stream h.tag 0x16A)
  else
    match s.bodyLoop h.pid x len.toNat (x.cmd - len) with
    | .error e => .next (s.refuseCmd h.pid h.stream h.tag e.1 e.2 .read)
    | .ok true => .next (s.failCmd h.pid h.stream h.tag 0x16A)
    | .ok false =>
      let reg := if x.loopReg = 0 then 1 else x.loopReg
      if reg < iters.toNat then
        .next (s.onStream h.pid h.stream fun x => { x with loopReg := reg + 1, hold := some (x.cmd - len), loopAt := x.cmd, cmd := x.cmd - len })
      else .next ((s.onStream h.pid h.stream fun x => { x with loopReg := 0, hold := none }).issued h.pid h.stream)

/-- The test of an IF (R49). -/
def ifTest (cond : BitVec 2) (w value : Nat) : Bool :=
  match cond.toNat with
  | 0 => w == value
  | 1 => w != value
  | 2 => value ≤ w
  | _ => w < value

/-- IF (R49). -/
def execCmdIf (h : CmdHdr) (va value skip : Word) (cond : BitVec 2) (s : State) : Out :=
  match s.asRead h.pid (s.strm h.pid h.stream).desc.asid va 8 with
  | .error c => .next (s.refuseCmd h.pid h.stream h.tag va c .read)
  | .ok (t, w) =>
    .next ((t.issued h.pid h.stream).onStream h.pid h.stream fun x => { x with skip := if ifTest cond w value.toNat then 0 else skip.toNat })

/-! ### Counters, copies, fences (R50 to R52) -/

/-- WAITCTR (R50). -/
def execCmdWaitctr (h : CmdHdr) (va t : Word) (s : State) : Out :=
  match s.asRead h.pid (s.strm h.pid h.stream).desc.asid va 8 with
  | .error c => .next (s.refuseCmd h.pid h.stream h.tag va c .read)
  | .ok (u, w) => if t.toNat ≤ w then .next (u.issued h.pid h.stream) else .next (u.waitCmd h (.cmdWaitctr h va t))

/-- A waiting WAITCTR looks at its counter. -/
def State.pollWaitctr (s : State) (h : CmdHdr) (va t : Word) : State :=
  match s.asRead h.pid (s.strm h.pid h.stream).desc.asid va 8 with
  | .error c => s.refuseCmd h.pid h.stream h.tag va c .read
  | .ok (u, w) =>
    let e := Ev.waitctrSatisfied h.pid h.stream
    if t.toNat ≤ w && !u.agenda.contains e then u.push e else u

/-- The counter of a WAITCTR has reached its threshold (R50). -/
def execWaitctrSatisfied (s : State) : Out :=
  match s.ev with
  | some (.waitctrSatisfied pid n) =>
    match (s.strm pid n).waiting with
    | some (.cmdWaitctr _ _ _) => .next (s.endWait pid n)
    | _ => .next s
  | _ => .next s

/-- CtrAdd of a stream at an address (R50, R43, R53): whether the sum saturated, or why translation refuses. The pages of a stream's counters
may be of any kind; one of host memory is added to in this machine's memory under its own key, and one of another device by an atomic there
(DESIGN CHOICE, assumption 83). -/
def State.streamAdd (s : State) (pid n : BitVec 2) (va amount : Word) : Except Cause (State × Bool) :=
  match s.asPhys pid (s.strm pid n).desc.asid va .atomic with
  | .error c => .error c
  | .ok (t, p) =>
    if p.kind = 4 then
      if t.pod.fenced.getLsbD (remoteDev p).toNat then .error 0x160
      else .ok ({ t with sentRemote := t.sentRemote.concat (remoteDev p, remoteKey p, va, .atomic ctrOp 3 false amount 0) }, false)
    else .ok (t.ctrAddAt p amount.toNat)

/-- ADDCTR (R50): after every earlier COPY; a sum that saturates fails the command. -/
def execCmdAddctr (h : CmdHdr) (va amount : Word) (s : State) : Out :=
  let x := s.strm h.pid h.stream
  if !x.copies.isEmpty then .next s
  else
    match s.streamAdd h.pid h.stream va amount with
    | .error c => .next (s.refuseCmd h.pid h.stream h.tag va c .atomic)
    | .ok (t, ovf) => .next (if ovf then t.failCmd h.pid h.stream h.tag 0x090 else t.issued h.pid h.stream)

/-- COPY (R51): a copy engine of the partition takes it, the lowest with room in its queue. (DESIGN CHOICE, assumption 69) -/
def execCmdCopy (h : CmdHdr) (src dst len ctr amount : Word) (s : State) : Out :=
  let x := s.strm h.pid h.stream
  if overlaps src dst len.toNat then .next (s.failCmd h.pid h.stream h.tag 0x169)
  else
    match (s.partClusters h.pid).find? fun cl => (s.getCluster cl).ops.length < 64 with
    | none => .next s
    | some cl =>
      let o : EngOp :=
        { id := s.nextOp, tid := 0, pid := h.pid, asid := x.desc.asid, runs := [(.va src, .va dst, len.toNat)], bytes := len.toNat
          ctr := if ctr = 0 then none else some ctr, amt := if amount = 0 then len else amount, push := none, code := 0
          stream := some h.stream, tag := h.tag }
      let t := ({ s with nextOp := s.nextOp + 1 }.addOp cl o).wakeCluster cl
      .next ((t.onStream h.pid h.stream fun x => { x with copies := x.copies.concat o.id }).issued h.pid h.stream)

/-- The launch-queue table of a partition as memory holds it: 64 doublewords (R55). -/
def State.queueWord (s : State) (pid : BitVec 2) (i : Nat) : Word := s.mem.word ((s.part pid).lqtab + 8 * i)

/-- The table is read: contributions of U copies join it first (R206). -/
def State.seeQueues (s : State) (pid : BitVec 2) : State := (linesOf (s.part pid).lqtab 512).foldl State.combine s

/-- Reserved bits of a doubleword of the table (R55). -/
def queueWordOk (w : Word) : Bool := w &&& ~~~(0x1_0FFF : Word) == 0

/-- The table takes effect; the records of each queue stay. -/
def State.loadQueues (s : State) (pid : BitVec 2) : State :=
  s.onPart pid fun p => { p with queues := Vector.ofFn fun i =>
    let w := s.queueWord pid i.val
    { p.queues[i] with enable := w.getLsbD 16, tickets := w.extractLsb' 0 12 } }

/-- Everything that a FENCE waits for is done (R52). -/
def Stream.quiet (x : Stream) : Bool := x.tasks.isEmpty && x.copies.isEmpty

/-- What a FENCE does when its wait has ended. -/
def State.endFence (s : State) (pid n : BitVec 2) (tag : BitVec 32) (reload : Bool) : State :=
  if reload then
    let s := s.seeQueues pid
    if (List.range 64).all fun i => queueWordOk (s.queueWord pid i) then ((s.loadQueues pid).drawCheck pid).endWait pid n
    else s.failCmd pid n tag 0x169
  else s.endWait pid n

/-- FENCE (R52). -/
def execCmdFence (h : CmdHdr) (s : State) : Out :=
  .next (if (s.strm h.pid h.stream).quiet then s.endFence h.pid h.stream h.tag false else s.waitCmd h (.cmdFence h))

/-- FENCE with RELOAD (R52, R55). -/
def execCmdFenceReload (h : CmdHdr) (s : State) : Out :=
  .next (if (s.strm h.pid h.stream).quiet then s.endFence h.pid h.stream h.tag true else s.waitCmd h (.cmdFenceReload h))

/-- A FENCE's wait ends (R52). -/
def execFenceCmdComplete (s : State) : Out :=
  match s.ev with
  | some (.fenceCmdComplete pid n) =>
    let x := s.strm pid n
    if x.quiet && x.st == .wait then
      match x.waiting with
      | some (.cmdFence h) => .next (s.endFence pid n h.tag false)
      | some (.cmdFenceReload h) => .next (s.endFence pid n h.tag true)
      | _ => .next s
    else .next s
  | _ => .next s

/-- REPLAY (R52, R370). -/
def execCmdReplay (h : CmdHdr) (s : State) : Out := .next ((s.replayAll h.pid).1.issued h.pid h.stream)

/-! ### ROLE (R53, R80) -/

/-- The roles and clocks after a change. -/
def State.rolesAfter (s : State) (l : BitVec 2) (r : Role) (slow : Bool) : Vector Role 4 × BitVec 4 :=
  let m := BitVec.ofNat 4 (2 ^ l.toNat)
  (wr s.roles l r, if slow then s.slow ||| m else s.slow &&& ~~~m)

/-- Draw of a set of roles in watts (R80). -/
def drawOf (roles : Vector Role 4) (slow : BitVec 4) : Nat :=
  390 + (two.map fun l => match rd roles l with
    | .compute => if slow.getLsbD l.toNat then 370 else 520
    | .memory => 45
    | .off => 5).sum

/-- The set is within the module limit, with a COMPUTE layer (R80). -/
def State.thermalOk (s : State) (roles : Vector Role 4) (slow : BitVec 4) : Bool :=
  drawOf roles slow ≤ s.limit && two.any fun l => rd roles l == .compute

/-- A partition uses a layer: it has a usable cell there (R62). -/
def State.usesLayer (s : State) (pid : BitVec 2) (l : BitVec 2) : Bool := (s.partClusters pid).any fun c => layerOf c == l

def roleOf (n : Nat) : Role := match n with | 0 => .compute | 1 => .memory | _ => .off
def roleCode : Role → BitVec 2 | .compute => 0 | .memory => 1 | .off => 2

/-- Why the root controller refuses a change (R53), when it is asked for and when the sequence begins (R11, R80). -/
def State.changeCause (s : State) (pid : BitVec 2) (l : BitVec 2) (r : Role) (slow : Bool) : Option Cause :=
  let a := s.rolesAfter l r slow
  if !s.thermalOk a.1 a.2 then some 0x170
  else if two.any fun p => p != pid && (s.part p).run && s.usesLayer p l then some 0x171
  else if !two.any fun k => rd a.1 k == .compute && s.usesLayer pid k then some 0x173
  else none

/-- Why a ROLE is refused (R53). -/
def State.roleCause (s : State) (pid n : BitVec 2) (l : BitVec 2) (r : Role) (slow : Bool) : Option Cause :=
  if !(s.strm pid n).desc.roleOk then some 0x16C else s.changeCause pid l r slow

/-- ROLE (R53): the stream waits for the end of the sequence. -/
def execCmdRole (h : CmdHdr) (layer role clock ctr : Word) (s : State) : Out :=
  let l : BitVec 2 := layer.extractLsb' 0 2
  let r := roleOf role.toNat
  match s.roleCause h.pid h.stream l r (clock == 1) with
  | some c => .next (s.failCmd h.pid h.stream h.tag c)
  | none => .next ((s.waitCmd h (.cmdRole h layer role clock ctr)).push (.layerRoleChange h.pid l (role.extractLsb' 0 2) (clock == 1)))

/-- The sequence of a ROLE has ended (R53): its counter receives 1. A translation fault leaves the add to replay-all (R56). -/
def execRoleChangeEnd (s : State) : Out :=
  match s.ev with
  | some (.roleChangeEnd pid n) =>
    match (s.strm pid n).waiting with
    | some (.cmdRole h _ _ _ ctr) =>
      let s := s.onStream pid n fun x => { x with roleDone := true }
      if (s.strm pid n).st ≠ .wait then .next s
      else
        match (if ctr = 0 then .ok (s, false) else s.streamAdd pid n ctr 1) with
        | .error c => .next (s.refuseCmd pid n h.tag ctr c .atomic)
        | .ok (t, _) => .next ((t.onStream pid n fun x => { x with roleDone := false }).endWait pid n)
    | _ => .next s
  | _ => .next s

/-- A command whose opcode is none of R45's. -/
def execCmdBadOpcode (h : CmdHdr) (op : BitVec 8) (s : State) : Out :=
  let _ := op
  .next (s.failCmd h.pid h.stream h.tag 0x168)

/-- A stream in ERROR goes on, at the next command or at the next record of its LAUNCHN; where no command failed, where it stands
(R56). -/
def execStreamResume (s : State) : Out :=
  match s.ev with
  | some (.streamResume pid n) =>
    let x := s.strm pid n
    if x.st ≠ .error then .next s
    else
      match s.asRead pid x.desc.asid x.desc.resume 8 with
      | .error c => .next (s.refuseOwn pid n x.desc.resume c .read)
      | .ok (t, v) =>
        let more : Bool := match x.count with | some k => decide (x.sub + 1 < k) | none => false
        let t := if x.idle then t else if more then t.onStream pid n fun x => { x with sub := x.sub + 1 } else t.issued pid n
        .next (t.enterSt pid n fun x => { x with st := .run, cause := 0, resumes := BitVec.ofNat 64 v, idle := false })
  | _ => .next s

/-! ### The turn of a stream (R43, R49, R54) -/

/-- The lowest command whose slot Marionette may still read: a submitted LOOP ahead holds its body (R43, R48).
(DEDUCED, assumption 68) -/
def State.mayRead (s : State) (pid : BitVec 2) (x : Stream) (submit : Nat) : Word :=
  match x.hold with
  | some w => w
  | none =>
    (List.range (Nat.min (submit - x.cmd.toNat) 257)).foldl (fun lo i =>
      let m := x.cmd + BitVec.ofNat 64 i
      match s.asRead pid x.desc.asid (x.slotVa m) 16 with
      | .ok (_, w) =>
        let len := BitVec.ofNat 64 (w / 2 ^ 64)
        if w % 256 = 3 && 1 ≤ len.toNat && len.toNat ≤ 256 && len ≤ m && m - len < lo then m - len else lo
      | .error _ => lo) x.cmd

/-- CONSUMED is raised to that number (R43). (DEDUCED, assumption 42) -/
def State.consume (s : State) (pid n : BitVec 2) (submit : Nat) : State :=
  let x := s.strm pid n
  let to_ := s.mayRead pid x submit
  if to_ ≤ x.consumed then s
  else
    match s.streamAdd pid n x.desc.consumed (to_ - x.consumed) with
    | .error c => s.refuseOwn pid n x.desc.consumed c .atomic true
    | .ok (t, _) => t.onStream pid n fun x => { x with consumed := to_ }

/-- A skipped command is passed over; a LOOP that closes the current body goes with it (R49). -/
def Stream.pass (x : Stream) : Stream :=
  let y := { x with skip := x.skip - 1, cmd := x.cmd + 1 }
  if x.hold.isSome && x.cmd = x.loopAt then { y with loopReg := 0, hold := none } else y

/-- The stream reads RESUME as it starts, so that only later adds resume it (R56). -/
def State.readResume (s : State) (pid n : BitVec 2) : State :=
  let x := s.strm pid n
  match s.asRead pid x.desc.asid x.desc.resume 8 with
  | .ok (s, v) => s.onStream pid n fun y => { y with resumes := BitVec.ofNat 64 v, unread := false, owed := true }
  | .error c => s.refuseOwn pid n x.desc.resume c .read

/-- The turn of a stream: its state, and the command that it carries out. -/
def State.streamTurn (s : State) (pid n : BitVec 2) : State × Option Instr :=
  let s := if (s.strm pid n).owed then s.writeStatus pid n else s
  let x := s.strm pid n
  match x.st with
  | .error =>
    match s.asRead pid x.desc.asid x.desc.resume 8 with
    | .error c => (s.refuseOwn pid n x.desc.resume c .read, none)
    | .ok (s, v) =>
      let e := Ev.streamResume pid n
      (if x.resumes.toNat < v && !s.agenda.contains e then s.push e else s, none)
  | .wait =>
    match x.waiting with
    | some (.cmdWaitctr h va t) => (s.pollWaitctr h va t, none)
    | _ => (s, none)
  | .run =>
    if x.unread then (s.readResume pid n, none)
    else
    match s.asRead pid x.desc.asid x.desc.submit 8 with
    | .error c => (s.refuseOwn pid n x.desc.submit c .read, none)
    | .ok (s, submit) =>
      let s := s.consume pid n submit
      let x := s.strm pid n
      if x.st ≠ .run || submit ≤ x.cmd.toNat then (s, none)
      else if 0 < x.skip then (s.onStream pid n Stream.pass, none)
      else
        match s.asWords pid x.desc.asid (x.slotVa x.cmd) with
        | .error c =>
          let w := s.freshWord
          (w.1.refuseCmd pid n (w.2.extractLsb' 0 32) (x.slotVa x.cmd) c .read, none)
        | .ok (s, cw) =>
          let tag := (cw.getD 0 0).extractLsb' 32 32
          match decodeCommand pid n cw with
          | .error c => (s.failCmd pid n tag c, none)
          | .ok i => (s.onStream pid n fun x => { x with tag := tag }, some i)
  | _ => (s, none)

end Sys2Proof.Machine
end

