-- ==== Sys2Proof/Machine/Place.lean ====
section
/-!
DEFINITION. Placement (R57 to R76): the lottery, Prism's choice of a cluster, wakes and gating, the next work of a core with its
claims, resumes and steals, the preparation and dispatch of a record, and contexts that move between slots and frames.
-/

namespace Sys2Proof.Machine

/-! ### Contexts and slots (R75, R238) -/

/-- Slots that tasks may use: slot 3 is a reduction server's where collectives are enabled. -/
def State.slotCount (s : State) (pid : BitVec 2) : Nat := if (s.part pid).collen then 3 else 4

def State.freeSlotOf (s : State) (pid : BitVec 2) (c : BitVec 16) : Option (BitVec 2) :=
  ((List.range (s.slotCount pid)).map fun i => BitVec.ofNat 2 i).find? fun i => rd (s.getCore c).slots i = 0

/-- The parked task of a core's slots that ran least recently. -/
def State.oldestSlot (s : State) (c : BitVec 16) : Option Task :=
  (s.allTasks.filter fun t => t.slot.isSome && t.core == c && t.st != .running).foldl (fun (b : Option Task) t =>
    match b with | none => some t | some x => if t.ran < x.ran then some t else b) none

/-- What the spill entries of a task with a slot hold, as an image in entry order (R238). -/
def State.imageSpill (s : State) (t : Task) : Task :=
  let k := s.getCore t.core
  let val (e : Nat) (st : SpillSt) : Vec :=
    match st with
    | .row r => BitVec.ofNat 512 (k.mx.img.read (rowByte r) 64)
    | .reserve => BitVec.ofNat 512 (s.sp.read (spKey t.core (0x1C000 + 4096 * (t.slot.getD 0).toNat + 64 * e)) 64)
    | .image v => v
  { t with spill := t.spill.map fun p => (p.1, .image (val p.1 p.2)) }

/-- The entries of a spill image, in entry order (R238). -/
def imageNat (l : List (Nat × SpillSt)) : Nat :=
  (l.foldl (fun acc p => putBy Prod.fst p acc) []).foldr (fun p acc => (match p.2 with | .image v => v.toNat | _ => 0) + 2 ^ 512 * acc) 0

/-- A parked task's context leaves its slot, and its spill image stands beside it (R75, R238). `none` where no room is left. -/
def State.moveOut (s : State) (t : Task) : Option State :=
  let cl := clusterOf t.core
  match s.takeSpill cl t.pid 1 contextBytes with
  | none => none
  | some (s1, r) =>
    let x := { s.imageSpill t with slot := none, away := r }
    let clear (s : State) : State := s.onCoreId t.core fun k => { k with slots := k.slots.map fun y => if y = t.tid then 0 else y }
    if t.spill.isEmpty then some (clear ((s1.fillRoom cl t.pid r contextBytes).putTask x))
    else
      match s1.takeSpill cl t.pid 1 4096 with
      | none => none
      | some (s2, r2) =>
        some (clear (((s2.fillRoom cl t.pid r contextBytes).writeRoom cl t.pid r2 0 (64 * x.spill.length) (imageNat x.spill)).putTask { x with imgAway := r2 }))

/-- A slot of a core for another task; a parked context makes way where all are taken. -/
def State.slotFor (s : State) (pid : BitVec 2) (c : BitVec 16) : Option (State × BitVec 2) :=
  match s.freeSlotOf pid c with
  | some i => some (s, i)
  | none =>
    match s.oldestSlot c with
    | none => none
    | some t =>
      match s.moveOut t with
      | none => none
      | some s => (s.freeSlotOf pid c).map fun i => (s, i)

/-- A task comes to run on the active core, in a slot (R75): its budget is loaded afresh (R24). -/
def State.seat (s : State) (t : Task) (i : BitVec 2) : State :=
  let x := { t with st := .running, core := s.core.id, cl := clusterOf s.core.id, slot := some i, budget := s.budgetOf t.pid (twBudget t.tw[7]) }
  { s with
    core := { s.core with running := t.tid, slots := wr s.core.slots i t.tid, prep := s.core.prep.filter fun y => y != t.tid }
    me := x, tasks := dropBy Task.key t.tid.toNat s.tasks }

/-- A context that had left comes into a slot: its spill image goes to the slot's reserve lines (R238). -/
def State.loadContext (s : State) : State :=
  let t := s.me
  let s := (s.giveRoom t.cl t.pid t.away).giveRoom t.cl t.pid t.imgAway
  let s := t.spill.foldl (fun s p =>
    match p.2 with
    | .image v => { s with sp := s.sp.write (s.reserveKey p.1) 64 v.toNat }.setSpill p.1 .reserve
    | _ => s) s
  s.onMe fun t => { t with away := .core, imgAway := .core }

/-- Staged lines come back from an image, in ascending order (R254). -/
def State.reloadStaged (s : State) : State :=
  let ls := s.me.staged
  if ls.isEmpty || s.me.stagedCore.isSome then s
  else
    let c := s.core.id
    let fits := ls.all fun l => s.stagedIn c (l1Set l.line) + (ls.filter fun x => l1Set x.line == l1Set l.line && x.line ≤ l.line).length ≤ 8
    if fits then
      ls.foldl (fun s l =>
        let m := s.makeWay c l.line
        m.1.onMe fun t => { t with staged := putBy StagedLine.line { l with way := m.2.getD 0 } t.staged, stagedCore := some c }) s
    else (s.onMe fun t => { t with stagedCore := some c }).loseReplay 1

/-! ### Prism (R62 to R64) -/

/-- W(c) of R63. -/
def State.waitingIn (s : State) (pid : BitVec 2) (cl : BitVec 8) : Nat :=
  let ks := s.allCores.filter fun k => clusterOf k.id == cl && s.inPart pid k.id
  let c := s.getCluster cl
  let mine (t : BitVec 32) : Bool := (s.getTask t).pid == pid
  (ks.map fun k => k.dequeLen + k.prep.length).sum + (c.ready.filter mine).length + (c.launchWait.filter mine).length +
    (c.held.filter fun h => mine h.1).length

/-- D(c) of R63 in nanoseconds, as numerator and denominator. -/
def State.queueDelay (s : State) (pid : BitVec 2) (cl : BitVec 8) : Nat × Nat :=
  let w := s.waitingIn pid cl
  let ts := (((s.getCluster cl).meanTimes.find? fun m => m.1 == pid).map (·.2)).getD []
  let n := Nat.max 1 ts.length
  let a := ((s.partCores pid cl).filter fun c => (s.getCore c).awake).length
  if a = 0 then (800 * n + w * ts.sum, n) else (w * ts.sum, n * a)

/-- The first of a list with the smallest delay. -/
def leastDelay (l : List (BitVec 8 × Nat × Nat)) : Option (BitVec 8 × Nat × Nat) :=
  l.foldl (fun (b : Option (BitVec 8 × Nat × Nat)) x =>
    match b with
    | none => some x
    | some y => if x.2.1 * y.2.2 < y.2.1 * x.2.2 then some x else b) none

/-- The cluster that Prism chooses, and whether it is gated and begins to wake (R63, R64). Without an awake cluster it is the lowest gated
one, and where all are waking the lowest (DESIGN CHOICE, assumption 87: the rule names no cluster then). -/
def State.prismChoice (s : State) (pid : BitVec 2) : BitVec 8 × Bool :=
  let cls := (s.partClusters pid).filter fun c => s.role (layerOf c) == .compute && !s.drains.getLsbD (layerOf c).toNat
  let best := leastDelay ((cls.filter fun c => (s.getCluster c).awake).map fun c => (c, s.queueDelay pid c))
  let gated := cls.find? fun c => !(s.getCluster c).awake && !(s.getCluster c).waking
  match best, gated with
  | some b, some g => if 6000 * b.2.2 < b.2.1 && s.lastWake + wakeGap ≤ s.clock then (g, true) else (b.1, false)
  | some b, none => (b.1, false)
  | none, some g => (g, true)
  | none, none => (cls.headD 0, false)

/-- A task of a launch takes its future and stands in a deque; false where Allocate() would park (R46). -/
def State.enterCluster (s : State) (t : BitVec 32) (cl : BitVec 8) : State × Bool :=
  match s.findTask t with
  | none => (s, true)
  | some x =>
    if x.launched.isNone then (s.placeRecord t cl, true)
    else
      match s.allocFut x.pid cl t with
      | (s, .error _) => (s, false)
      | (s, .ok h) => ((s.onTask t fun x => { x with self := h, tw := x.tw.set 5 h }).placeRecord t cl, true)

/-- Prism's record reaches a cluster; it waits behind records that wait for a future (R46). -/
def State.prismPlace (s : State) (t : BitVec 32) (cl : BitVec 8) : State :=
  let s := (s.onTask t fun x => { x with cl := cl }).wakeCluster cl
  let wait (s : State) : State := s.onCluster cl fun c => { c with launchWait := c.launchWait.concat t }
  if (s.getCluster cl).launchWait.isEmpty then
    let r := s.enterCluster t cl
    if r.2 then r.1 else wait r.1
  else wait s

/-- Records that wait in a cluster for their futures, in order, until one cannot have it. -/
def State.launchWaiting (s : State) (cl : BitVec 8) : Nat → State
  | 0 => s
  | fuel + 1 =>
    match (s.getCluster cl).launchWait with
    | [] => s
    | t :: ts =>
      let r := s.enterCluster t cl
      if r.2 then (r.1.onCluster cl fun c => { c with launchWait := ts }).launchWaiting cl fuel else r.1

/-- LAUNCH_FUTURE_ALLOCATE (R46). -/
def execLaunchFutureAllocate (s : State) : Out :=
  match s.ev with
  | some (.launchFutureAllocate cl) => .next (s.launchWaiting cl (s.getCluster cl).launchWait.length)
  | _ => .next s

/-! ### The lottery (R57) -/

/-- The generator's next value. -/
def mixX (x : BitVec 32) : BitVec 32 :=
  let x := x ^^^ (x <<< 13)
  let x := x ^^^ (x >>> 17)
  x ^^^ (x <<< 5)

/-- The queue that a draw among (queue, tickets) selects. -/
def pickQueue (t : Nat) : Nat → List (Nat × Nat) → Option Nat
  | _, [] => none
  | c, (q, n) :: qs => if t < c + n then some q else pickQueue t (c + n) qs

/-- draw() of R57: the generator and the winner. -/
def drawQueue (x : BitVec 32) (qs : List (Nat × Nat)) : BitVec 32 × Option Nat :=
  let total := (qs.map (·.2)).sum
  if total = 0 then (x, qs.head?.map (·.1))
  else (mixX x, pickQueue ((mixX x).toNat % total) 0 qs)

/-- Eligible queues with their tickets, in order. -/
def State.eligibleQueues (s : State) (pid : BitVec 2) : List (Nat × Nat) :=
  (List.range 64).filterMap fun i =>
    let q := rd (s.part pid).queues (BitVec.ofNat 6 i)
    if q.eligible s then some (i, q.tickets.toNat) else none

/-- LOTTERY_DRAW (R57, R58): the winner's head record starts, and Prism places it. -/
def execLotteryDraw (s : State) : Out :=
  match s.ev with
  | some (.lotteryDraw pid) =>
    let p := s.part pid
    if !p.run || p.preempt then .next s
    else
      let r := drawQueue p.x (s.eligibleQueues pid)
      match r.2 with
      | none => .next s
      | some n =>
        let i := BitVec.ofNat 6 n
        match (rd p.queues i).recs with
        | [] => .next s
        | t :: ts =>
          let s := s.onPart pid fun p => { p with x := r.1, queues := wr p.queues i { rd p.queues i with recs := ts, started := (rd p.queues i).started.concat t } }
          .next ((s.prismPlace t (s.prismChoice pid).1).drawCheck pid)
  | _ => .next s

/-! ### Wakes and gating (R64 to R66) -/

/-- CLUSTER_WAKE_COMPLETE (R64): what waited for the wake goes on (R65). -/
def execClusterWakeComplete (s : State) : Out :=
  match s.ev with
  | some (.clusterWakeComplete cl) =>
    let s := s.onCluster cl fun c => { c with awake := true, waking := false }
    .next (two.foldl (fun s p => s.retryCluster cl p) s)
  | _ => .next s

/-- CORE_WAKE_COMPLETE (R66). -/
def execCoreWakeComplete (s : State) : Out :=
  match s.ev with
  | some (.coreWakeComplete c) => .next (s.onCoreId c fun k => { k with awake := true, waking := false })
  | _ => .next s

/-- A core holds nothing that keeps it awake (R66). -/
def State.coreIdle (s : State) (c : BitVec 16) : Bool :=
  let k := s.getCore c
  k.awake && k.running == 0 && k.dequeLen == 0 && k.slots.toList.all (· == 0) && k.mx.bound == 0 &&
    s.allTasks.all fun t => t.stagedCore != some c

/-- Every U line and partial of some cores is combined at its home (R206). -/
def State.combineAll (s : State) (p : Core → Bool) : State :=
  (((s.allCores.filter p).flatMap fun k => k.ulines.map ULine.line).dedup).foldl (fun s l => s.combine l) s

/-- CORE_GATE (R66): the core writes its lines back and drops its TLB entries, and its instruction cache with them (DESIGN CHOICE, assumption
86: the rule names only the TLB). -/
def execCoreGate (s : State) : Out :=
  match s.ev with
  | some (.coreGate c) =>
    if s.coreIdle c then
      let s := s.combineAll fun k => k.id == c
      let s := (s.getCore c).l1d.foldl (fun s l => s.evictL1 c l) s
      .next (s.onCoreId c fun k => { k with awake := false, waking := false, tlb := [], icache := [] })
    else .next s
  | _ => .next s

/-- A cluster holds nothing that keeps it awake (R65). -/
def State.clusterIdle (s : State) (cl : BitVec 8) : Bool :=
  let c := s.getCluster cl
  c.awake && c.tiles.isEmpty && c.ops.isEmpty && c.msgs.isEmpty && c.futs.all (·.waiters.isEmpty) && c.launchWait.isEmpty && c.held.isEmpty &&
    s.allTasks.all (fun t => t.cl != cl || (t.st == .queued && !s.allCores.any fun k => clusterOf k.id == cl && k.dequeLen != 0)) &&
    s.allCores.all fun k => clusterOf k.id != cl || (k.dequeLen == 0 && k.prep.isEmpty)

/-- CLUSTER_GATE (R65): every entry goes to the spill area first; where one cannot, the cluster stays awake. -/
def execClusterGate (s : State) : Out :=
  match s.ev with
  | some (.clusterGate cl) =>
    if s.clusterIdle cl then
      let fs := (s.getCluster cl).futs.foldl (fun acc f => putBy (fun (f : Fut) => f.slot.toNat) f acc) []
      let r := fs.foldl (fun (a : State × Bool) f =>
        if a.2 then (match a.1.spillFut cl f false with | (s, .ok) => (s, true) | (s, _) => (s, false)) else a) (s, true)
      .next (if r.2 then r.1.onCluster cl fun c => { c with awake := false, waking := false } else r.1)
    else .next s
  | _ => .next s

/-- HELD_RECORD_PUSH (R68): held records enter the deques chosen for them, in order, while there is room. -/
def execHeldRecordPush (s : State) : Out :=
  match s.ev with
  | some (.heldRecordPush cl) =>
    match (s.getCluster cl).held with
    | [] => .next s
    | (t, c) :: hs =>
      match s.pushDeque c t (s.getTask t).pid with
      | none => .next s
      | some s =>
        let s := s.onCluster cl fun k => { k with held := hs }
        .next (if hs.isEmpty then s else s.push (.heldRecordPush cl))
  | _ => .next s

/-! ### Preparation (R27, R72) -/

/-- Tile entries that a record declares. -/
def Task.wantTiles (t : Task) : Nat := if t.tw[4] = 0 then 0 else twTcount t.tw[7]

/-- The tiles of a record, in block order. -/
def State.argTiles (s : State) (t : Task) : List Tile := (s.getCluster t.cl).tiles.filter fun y => y.owner == t.tid && y.arg

/-- A claimed record that still wants frames. -/
def State.wantsFrames (s : State) (t : Task) : Bool := t.st == .preparing && (s.argTiles t).length < t.wantTiles

/-- Entry i of a record's block, with its layout: what translation refuses, or what R27 refuses. -/
def State.blockEntry (s : State) (t : Task) (i : Nat) : Except (Word × Cause) (State × TileArg × List Seg × Nat) :=
  let va := t.tw[4] + BitVec.ofNat 64 (16 * i)
  match s.clRead t.cl t.pid t.asid va 16 with
  | .error c => .error (va, c)
  | .ok (s, x) =>
    let e := tileArgOf (x % 2 ^ 64) (x / 2 ^ 64)
    if e.sri = 0 then
      match e.check none false with
      | .error c => .error (va, c)
      | .ok r => .ok (s, e, r)
    else
      let rva := t.tw[4] + BitVec.ofNat 64 (64 * e.sri)
      match s.readTsr t.pid t.asid t.cl rva with
      | .error c => .error (rva, c)
      | .ok (s, ws) =>
        match e.check (some (tsrOf ws)) false with
        | .error c => .error (va, c)
        | .ok r => .ok (s, e, r)

/-- The entries of a block from entry i on. -/
def State.blockEntries (s : State) (t : Task) : Nat → Nat → Except (Word × Cause) (State × List (TileArg × List Seg × Nat))
  | 0, _ => .ok (s, [])
  | n + 1, i =>
    match s.blockEntry t i with
    | .error e => .error e
    | .ok (s, e) =>
      match s.blockEntries t n (i + 1) with
      | .error e => .error e
      | .ok (s, es) => .ok (s, e :: es)

/-- Frames for entries in order, until one does not fit. -/
def State.allocEntries (s : State) (t : Task) : List (TileArg × List Seg × Nat) → State × Bool
  | [] => (s, true)
  | (e, segs, n) :: es =>
    if s.pinsFull t.cl t.pid t.asid (tileModeOf e.mode) segs then (s, false)
    else
      match (s.getCluster t.cl).freeRun e.frames with
      | none => (s, false)
      | some f => (s.allocTile t.cl t f e segs n true).allocEntries t es

/-- One claimed record is prepared: true where the records behind it may go on. While it waits for frames its block is read again at every
attempt (DESIGN CHOICE, assumption 82: the rule reads it once, and does not say when a waiting record does). -/
def State.prepareOne (s : State) (t : Task) : State × Bool :=
  if t.tw[4].toNat % 64 ≠ 0 then (s.failBefore t.tid 0x060, true)
  else
    match s.blockEntries t t.wantTiles 0 with
    | .error (va, c) =>
      if faultCause c then
        ((s.pageFault t.pid t.cl (coreIn t.cl 0) t.asid t.tid va c 2 (s.declaredPage t.cl t.tid va) .read).onTask t.tid fun x => { x with parkArg := 1 }, true)
      else (s.failBefore t.tid c, true)
    | .ok (s, es) =>
      if 64 < (es.map fun e => e.1.frames).sum then (s.failBefore t.tid 0x062, true)
      else
        let r := s.allocEntries t (es.drop (s.argTiles t).length)
        if r.2 then (r.1.dispatchCheck t.tid, true) else r

/-- The claimed records of a cluster that want frames, in the order of their claims; one that a page stopped waits for replay-all. -/
def State.frameQueue (s : State) (cl : BitVec 8) : List Task :=
  ((s.allTasks.filter fun t => t.cl == cl && s.wantsFrames t && t.parkArg == 0).foldl (fun acc t => putBy Task.ran t acc) [])

/-- Serves that queue from its head. -/
def State.serveFrames (s : State) (cl : BitVec 8) : Nat → State
  | 0 => s
  | fuel + 1 =>
    match s.frameQueue cl with
    | [] => s
    | t :: _ =>
      let r := s.prepareOne t
      if r.2 then r.1.serveFrames cl fuel else r.1

/-- TILE_FRAME_ALLOCATE (R27, R72). -/
def execTileFrameAllocate (s : State) : Out :=
  match s.ev with
  | some (.tileFrameAllocate t) =>
    match s.findTask t with
    | none => .next s
    | some x =>
      if x.st ≠ .preparing then .next s
      else
        let s := s.onTask t fun x => { x with parkArg := 0 }
        let s := if s.wantsFrames x then s else s.dispatchCheck t
        .next (s.serveFrames x.cl (s.frameQueue x.cl).length)
  | _ => .next s

/-! ### Dispatch (R37, R73, R75) -/

/-- Every tile of a claimed record is READY. -/
def State.tilesReady (s : State) (t : Task) : Bool :=
  let ts := s.argTiles t
  t.st == .preparing && ts.length == t.wantTiles && ts.all fun y => y.st == .ready

/-- Tile id of a tile (R28). -/
def tileIdOf (y : Tile) : Word := BitVec.ofNat 64 (y.frame + if y.mode = .out || y.mode = .inout then 0x8000 else 0)

/-- The task as it begins (R37). -/
def State.entryTask (s : State) (t : Task) : Task :=
  let ids := (s.argTiles t).map tileIdOf
  let g : Vector Word 64 := Vector.ofFn fun i =>
    match i.val with
    | 1 => t.tw[1]
    | 2 => t.tw[2]
    | 3 => t.tw[3]
    | 5 => ids.getD 0 0
    | 6 => ids.getD 1 0
    | 7 => ids.getD 2 0
    | 8 => ids.getD 3 0
    | 9 => t.tw[5]
    | _ => 0
  { t with
    pc := t.tw[0], g := g, v := Vector.replicate 32 0, q := Vector.replicate 8 0, self := t.tw[5], nuddef := s.defaultNud t.pid
    replayable := twReplayable t.tw[7], det := twDet t.tw[7], started := true, dispatched := s.clock, parkArg := 0 }

/-- The core of a partition starts no DET task any more in this quantum (R78). -/
def State.detClosed (s : State) (pid : BitVec 2) (det : Bool) (c : BitVec 16) : Bool :=
  det && (s.part pid).regs.detctl.getLsbD 0 && (s.getCore c).boundary

/-- A core may take up a task: it is awake, belongs to the partition, and nothing holds it. -/
def State.coreOpen (s : State) (pid : BitVec 2) (c : BitVec 16) : Bool :=
  let k := s.getCore c
  k.awake && !k.halted && (s.getCluster (clusterOf c)).awake && (s.part pid).run && s.inPart pid c && !s.heldCore pid c

/-- TASK_DISPATCH (R37, R73, R75). -/
def execTaskDispatch (s : State) : Out :=
  match s.ev with
  | some (.taskDispatch t) =>
    match s.findTask t with
    | none => .next s
    | some x =>
      let c := x.core
      if !s.tilesReady x || !s.coreOpen x.pid c || (s.getCore c).running ≠ 0 || s.detClosed x.pid (twDet x.tw[7]) c then .next s
      else
        match (s.activate c).slotFor x.pid c with
        | none => .next s
        | some (s, i) => .next (s.seat (s.entryTask x) i)
  | _ => .next s

/-! ### The next work of a core (R69 to R71, R75) -/

/-- The core on which a task of a ready queue resumes (R75, R76, R252). -/
def State.resumeCore (s : State) (t : Task) : Option (BitVec 16) :=
  if t.slot.isSome then some t.core
  else
    match t.stagedCore with
    | some c => some c
    | none =>
      if (s.getCore t.core).mx.bound = t.tid then some t.core
      else
        let cs := (s.partCores t.pid t.cl).filter fun c => (s.getCore c).awake && !(s.getCore c).halted
        match cs.find? fun c => (s.freeSlotOf t.pid c).isSome with
        | some c => some c
        | none => cs.find? fun c => (s.oldestSlot c).isSome

/-- The first task of the ready queue that resumes on a core. (DEDUCED, assumption 51) -/
def State.readyFor (s : State) (pid : BitVec 2) (c : BitVec 16) : Option Task :=
  ((s.getCluster (clusterOf c)).ready.map s.getTask).find? fun t =>
    t.pid == pid && t.tid != 0 && !s.detClosed pid t.det c && s.resumeCore t == some c

/-- A task of the ready queue resumes on the active core. -/
def State.resume (s : State) (t : Task) : State :=
  let c := s.core.id
  let out (s : State) : State := s.onCluster (clusterOf c) fun k => { k with ready := k.ready.erase t.tid }
  match t.slot with
  | some i => ((out s).seat t i).reloadStaged
  | none =>
    if t.ctxBad then
      -- the context that comes back was destroyed (R363): the rollback path
      let w := (out s).freshWord
      ((w.1.taskRecord { t with core := c } (if t.intrap then 1 else 0) false 0x07E t.pc w.2).onTask t.tid fun t => { t with ctxBad := false }).rollback t.tid 0x07E
    else
    match s.slotFor t.pid c with
    | none => s
    | some (s, i) => ((out s).seat (s.getTask t.tid) i).loadContext.reloadStaged

/-- The bottom record of a core's own deque. -/
def Core.bottomRecord (c : Core) : Option (BitVec 32) :=
  match c.deque with
  | t :: _ => some t
  | [] => c.blocks.head?.bind fun b => b.1.head?

/-- Where a victim stands in the order of R70: by core, by cluster, by layer. -/
def victimRank (me v : BitVec 16) : Nat :=
  let core (c : BitVec 16) : Nat := c.toNat % 32
  let cl (c : BitVec 16) : Nat := ((clusterOf c).extractLsb' 0 6).toNat
  let ly (c : BitVec 16) : Nat := (layerOf (clusterOf c)).toNat
  if clusterOf v = clusterOf me then (core v + 32 - core me) % 32
  else if ly v = ly me then 32 * ((cl v + 48 - cl me) % 48) + core v
  else 65536 * ((ly v + 4 - ly me) % 4) + 32 * ((cl v + 48 - cl me) % 48) + core v

/-- The STEAL domain of a record contains the thief (R70). -/
def stealOk (d : BitVec 2) (me v : BitVec 16) : Bool :=
  match d.toNat with
  | 0 => false
  | 1 => clusterOf v == clusterOf me
  | 2 => layerOf (clusterOf v) == layerOf (clusterOf me)
  | _ => true

/-- The victim that a thief finds, with its record. -/
def State.findVictim (s : State) (pid : BitVec 2) (me : BitVec 16) : Option (BitVec 16 × BitVec 32) :=
  let vs := s.allCores.filterMap fun k =>
    match k.topRecord with
    | some t =>
      if k.id != me && k.awake && s.inPart pid k.id && !s.drains.getLsbD (layerOf (clusterOf k.id)).toNat && stealOk (twSteal (s.getTask t).tw[7]) me k.id then
        some (k.id, t)
      else none
    | none => none
  vs.foldl (fun (b : Option (BitVec 16 × BitVec 32)) v =>
    match b with | none => some v | some x => if victimRank me v.1 < victimRank me x.1 then some v else b) none

/-- A core steals a record (R70, R71). -/
def State.steal (s : State) (pid : BitVec 2) (c : BitVec 16) : State :=
  match s.findVictim pid c with
  | none => s
  | some (v, t) => (s.takeTop v pid).prepare t c

/-- A core that found nothing: under determinism its steal waits for the end of the quantum (R78); else it searches at once, and
one that stays idle may be gated (R66). -/
def State.searchOrIdle (s : State) (pid : BitVec 2) : State :=
  let c := s.core.id
  if (s.part pid).regs.detctl.getLsbD 0 then
    if s.core.detReqs.contains .steal then s else s.onCore fun k => { k with detReqs := k.detReqs.concat .steal }
  else
    match s.findVictim pid c with
    | some _ => s.steal pid c
    | none =>
      if s.coreIdle c then
        let s' := { s with freeCount := s.freeCount + 1 }
        if Config.freeBit s.freeCount then s'.push (.coreGate c) else s'
      else s

/-- A core may claim one more record: a context slot is free or a parked context yields one, and fewer than two records are in preparation
(R69, R71, R75). (DEDUCED, assumption 50) -/
def State.mayClaim (s : State) (pid : BitVec 2) (c : BitVec 16) : Bool := (s.getCore c).prep.length < 2 && (s.slotFor pid c).isSome

/-- The active core claims the bottom record of its deque (R69, R71). -/
def State.claimBottom (s : State) (pid : BitVec 2) : State :=
  match s.popDeque s.core.id pid with
  | (s, some t) => s.prepare t s.core.id
  | (s, none) => s

/-- The head of the ready queue goes before a record: on equal PRIO it wins (R69). -/
def State.readyFirst (s : State) (r : Task) (b : BitVec 32) : Bool := (twPrio (s.getTask b).tw[7]).toNat ≤ (twPrio r.tw[7]).toNat

/-- What a core that runs a task and has a free context slot chooses next (R69, R71): the bottom record of its own deque, unless a ready task
goes before it, which waits for the core; else a steal. -/
def State.claimAhead (s : State) (pid : BitVec 2) : State :=
  let c := s.core.id
  if (s.freeSlotOf pid c).isNone || 2 ≤ s.core.prep.length then s
  else
    match s.readyFor pid c, s.core.bottomRecord with
    | some r, some b => if s.readyFirst r b then s else s.claimBottom pid
    | none, some _ => s.claimBottom pid
    | some _, none => s
    | none, none => if (s.part pid).regs.detctl.getLsbD 0 then s else s.steal pid c

/-- The next work of the active core, which runs no task. (DEDUCED, assumption 50) -/
def State.selectWork (s : State) (pid : BitVec 2) : State :=
  let c := s.core.id
  match s.core.prep.find? fun t => s.tilesReady (s.getTask t) && !s.detClosed pid (twDet (s.getTask t).tw[7]) c && (s.slotFor pid c).isSome with
  | some t => s.push (.taskDispatch t)
  | none =>
    let bottom : Option (BitVec 32) := if s.mayClaim pid c then s.core.bottomRecord else none
    match s.readyFor pid c, bottom with
    | some r, some b => if s.readyFirst r b then s.resume r else s.claimBottom pid
    | some r, none => s.resume r
    | none, some _ => s.claimBottom pid
    | none, none => if s.mayClaim pid c then s.searchOrIdle pid else s

/-- The partition that a core works for. -/
def State.corePid (s : State) (c : BitVec 16) : Option (BitVec 2) := two.find? fun p => (s.part p).run && s.inPart p c

/-- CORE_SELECT_WORK (R69). -/
def execCoreSelectWork (s : State) : Out :=
  match s.ev with
  | some (.coreSelectWork c) =>
    match s.corePid c with
    | none => .next s
    | some pid =>
      let s := s.activate c
      .next (if !s.coreOpen pid c then s else if s.me.tid != 0 then s.claimAhead pid else s.selectWork pid)
  | _ => .next s

end Sys2Proof.Machine
end

