-- ==== Sys2Proof/Machine/Event.lean ====
section
/-!
DEFINITION. Quanta (R78, R279), the interruptions of a task (R104, R318, R364 to R366), events that reach futures, tasks and lines
from other agents (R34, R205, R206, R275, R284, R296), and the slice caches' own events (R212 to R216).
-/

namespace Sys2Proof.Machine

/-! ### Quanta (R78, R279) -/

/-- A task of a partition's quanta that a core still has to run, or that counts as running (R78, R279). -/
def State.detBusy (s : State) (pid : BitVec 2) (c : BitVec 16) : Bool :=
  let k := s.getCore c
  let rec_ (t : BitVec 32) : Bool := twDet (s.getTask t).tw[7]
  !k.boundary && k.awake &&
    ((k.running != 0 && (s.getTask k.running).det) || k.deque.any rec_ || k.blocks.any (fun b => b.1.any rec_) || k.prep.any rec_ ||
      s.allTasks.any fun t => t.pid == pid && t.det &&
        ((t.core == c && (t.st == .fault || (t.st == .parked && t.parkCause == 0x066))) || (s.isReady t && s.resumeCore t == some c)))

/-- Cores of a partition, in logical order (R77), that are not in their power-up state. -/
def State.logicalCores (s : State) (pid : BitVec 2) : List (BitVec 16) :=
  ((s.allCores.filter fun k => s.inPart pid k.id).foldl (fun acc k => putBy Core.key k acc) []).map Core.id

/-- Every logical core is at its quantum boundary, and some has something for the end of the quantum. -/
def State.quantumOver (s : State) (pid : BitVec 2) : Bool :=
  let cs := s.logicalCores pid
  (s.part pid).run && (s.part pid).regs.detctl.getLsbD 0 && !cs.any (s.detBusy pid) &&
    cs.any fun c => (s.getCore c).boundary || !(s.getCore c).detReqs.isEmpty || !(s.getCore c).qlog.isEmpty

/-- QUANTUM_BOUNDARY (R78): the core stops issuing DET tasks. (DEDUCED, assumption 48) -/
def execQuantumBoundary (s : State) : Out :=
  match s.ev with
  | some (.quantumBoundary c) =>
    if (s.getTask (s.getCore c).running).det then .next (s.onCoreId c fun k => { k with boundary := true }) else .next s
  | _ => .next s

/-- Requests of a core that the quantum collected, in order of issue. -/
def State.requests (s : State) (c : BitVec 16) : List DetReq := (s.getCore c).detReqs

/-- A SPAWN that waited is made (R286, R287). -/
def State.serveSpawn (s : State) (c : BitVec 16) (t : BitVec 32) : State :=
  let s := s.activate c
  if s.me.tid = t then
    match s.me.detSpawn with
    | some (d, n :: ws) =>
      let s := s.onMe fun t => { t with detSpawn := none }
      match ((do spawnNow d (recordOf fun i => ws.getD i 0) (n == 1); loseReplay3) : Act Unit).run s with
      | .ok _ s => s.advance
      | .error e s => s.stopWith e
    | _ => s
  else s.onTask t fun t => { t with detSpawn := none }

/-- The tasks that resolutions woke stand at the heads of their queues, the first woken first. -/
def State.serveWakes (s : State) (ts : List (BitVec 32)) : State :=
  ts.foldr (fun t s =>
    match s.findTask t with
    | some x =>
      if x.st == .parked && !s.isReady x then (s.onCluster x.cl fun k => { k with ready := t :: k.ready }).wakeCluster x.cl else s
    | none => s) s

/-- A steal that waited. -/
def State.serveSteal (s : State) (pid : BitVec 2) (c : BitVec 16) : State :=
  if (s.getCore c).running = 0 && s.coreOpen pid c && (s.getCore c).prep.length < 2 && (s.getCore c).dequeLen = 0 then s.steal pid c else s

/-- The commands that the running task has queued complete (R200); `fuel` bounds them. -/
def State.drainMatrix (s : State) : Nat → State
  | 0 => s
  | fuel + 1 => if s.mxBusy then s.runHead.drainMatrix fuel else s

/-- The running task has a deferred matrix trap to take (R196). -/
def State.trapPends (s : State) : Bool := s.core.mx.bound == s.me.tid && s.core.mx.pendingTrap.isSome

/-- A budget that ran out parks its task (R78, R364) once its queued matrix commands are complete; a deferred trap of theirs comes first
(R200, R358). -/
def State.serveExpiry (s : State) (c : BitVec 16) (t : BitVec 32) : State :=
  let s := s.activate c
  if s.me.tid ≠ t then s
  else
    let s := s.drainMatrix 16
    if s.trapPends then s else s.yieldMe 0x140 s.pc

/-- A logged reduction is applied at its home (R304). -/
def State.serveLog (s : State) (pid : BitVec 2) (c : BitVec 16) (l : RedLog) : State :=
  let s := s.activate c
  (s.redHome { kind := BitVec.ofNat 3 (l.key / 2 ^ 52), pa := l.key % 2 ^ 52, ord := 0 } l.op l.size l.b.toNat (s.nudOf {})).giveRoom
    (clusterOf c) pid l.room

/-- The end of a quantum: spawns, wakes, steals and expiries, each in logical-core order, then the logs (R78, R304). -/
def State.endQuantum (s : State) (pid : BitVec 2) : State :=
  let cs := s.logicalCores pid
  let reqs := cs.flatMap fun c => (s.requests c).map fun r => (c, r)
  let logs := cs.flatMap fun c => (s.getCore c).qlog.map fun l => (c, l)
  let s := cs.foldl (fun s c => s.onCoreId c fun k => { k with detReqs := [], qlog := [], boundary := false, retiredDet := (s.part pid).quantNow }) s
  let s := reqs.foldl (fun s r => match r.2 with | .spawn t => s.serveSpawn r.1 t | _ => s) s
  let s := s.serveWakes (reqs.filterMap fun r => match r.2 with | .wake t => some t | _ => none)
  let s := reqs.foldl (fun s r => match r.2 with | .steal => s.serveSteal pid r.1 | _ => s) s
  let s := reqs.foldl (fun s r => match r.2 with | .expire t => s.serveExpiry r.1 t | _ => s) s
  let s := logs.foldl (fun s l => s.serveLog pid l.1 l.2) s
  let s := cs.foldl (fun s c => s.onCoreId c fun k => { k with retiredDet := 0 }) s
  (s.onPart pid fun p => { p with quantum := p.quantum + 1, quantNow := p.regs.quant.toNat }).detSnapshot pid

/-- QUANTUM_END (R78). -/
def execQuantumEnd (s : State) : Out :=
  match s.ev with
  | some (.quantumEnd pid) => .next (if s.quantumOver pid then s.endQuantum pid else s)
  | _ => .next s

/-! ### Interruption (R87, R104, R318, R364 to R366) -/

/-- FOLLOW_TIMEOUT (R104): the wait is over. -/
def execFollowTimeout (s : State) : Out :=
  match s.ev with
  | some (.followTimeout c) =>
    .next (s.onCoreId c fun k => { k with followAt := match k.followAt with | some w => some (w.1, followTurns + 1) | none => none })
  | _ => .next s

/-- ICACHE_PARITY_ERROR (R87, R395): the line goes, and is fetched again when a word of it is needed. -/
def execIcacheParityError (s : State) : Out :=
  match s.ev with
  | some (.icacheParityError c a) =>
    .next ((s.onCoreId c fun k => { k with icache := k.icache.filter fun l => l.va != a.toNat / 64 }).report
      { coreRecord 0x05 1 c with address := a })
  | _ => .next s

/-- The running task's budget counts only at its quantum boundary (R78, R366). -/
def State.expiryWaits (s : State) : Bool := s.detOn && !(s.part s.me.pid).stopping

/-- BUDGET_EXPIRY (R364): the queue of the matrix unit runs out first, and a deferred matrix trap is taken first (R200, R358). -/
def execBudgetExpiry (s : State) : Out :=
  match s.ev with
  | some (.budgetExpiry c) =>
    let s := s.activate c
    if s.me.tid = 0 || s.me.budget ≠ 0 then .next s
    else if s.mxBusy then .next (s.kickMatrix.push (.budgetExpiry c))
    else if s.trapPends then .next s
    else if s.me.isHandler then .next (s.push (.handlerAbort c 0x0D3))
    else if s.expiryWaits then
      if s.core.detReqs.contains (.expire s.me.tid) then .next s
      else .next (s.onCore fun k => { k with detReqs := k.detReqs.concat (.expire s.me.tid) })
    else .next (s.yieldMe 0x140 s.pc)
  | _ => .next s

/-- HANDLER_ABORT (R318). The manual states no TVAL for an expiry: a free value. -/
def execHandlerAbort (s : State) : Out :=
  match s.ev with
  | some (.handlerAbort c cause) =>
    let s := s.activate c
    if s.me.isHandler && s.me.tid != 0 then
      let w := s.freshWord
      .next (w.1.abortHandler cause w.2)
    else .next s
  | _ => .next s

/-- A core has acknowledged a pre-emption (R365): no task of the partition runs on it, and its matrix queue has run out. -/
def State.coreQuiet (s : State) (pid : BitVec 2) (k : Core) : Bool :=
  (k.running == 0 || (s.getTask k.running).pid != pid) &&
    (k.mx.bound == 0 || (s.getTask k.mx.bound).pid != pid || k.mx.queue.isEmpty || k.mx.held.isSome)

/-- Every core has. -/
def State.quiet (s : State) (pid : BitVec 2) : Bool := s.allCores.all (s.coreQuiet pid)

/-- PREEMPT_REQUEST (R365, R366). A stop lasts; another request ends once every core has acknowledged it, and draws go on (R57).
(DEDUCED, assumption 49) -/
def execPreemptRequest (s : State) : Out :=
  match s.ev with
  | some (.preemptRequest pid stop) =>
    let s := s.onPart pid fun p => { p with preempt := true, stopping := p.stopping || stop }
    if stop then .next s
    else if (s.part pid).stopping then .next (s.unwait (.preemptRequest pid stop))
    else if s.quiet pid then .next (((s.onPart pid fun p => { p with preempt := false }).unwait (.preemptRequest pid stop)).drawCheck pid)
    else .next (s.wait (.preemptRequest pid stop))
  | _ => .next s

/-! ### Fabric messages (R34, R284, R296) -/

/-- The reply to a request of another device (DESIGN CHOICE, assumption 12). -/
def futReply (f : Fut) (spilled drop : Bool) : BitVec 512 :=
  (0 : BitVec 320) ++ fstatWord f spilled ++ (0 : BitVec 59) ++ (0 : BitVec 1) ++ BitVec.ofBool drop ++ BitVec.ofNat 3 (futStCode f.st) ++ f.val

/-- The reply that a tag names no entry. -/
def staleReply : BitVec 512 := BitVec.ofNat 512 (2 ^ 68)

/-- A request for a reply: TOUCH (0), JOIN (1), TOUCHQ (2), FSTAT (3) and JOIN with a predicate (5). A remote waiter joins the list as any
does (R296). A JOIN that will trap drops nothing (R291). -/
def State.remoteTouch (s : State) (h : Word) (dev : BitVec 10) (tid : BitVec 32) (op : BitVec 3) (e : Ev) : State :=
  let reply (s : State) (v : BitVec 512) : State := { s with fabricOut := s.fabricOut.concat (dev, .reply tid v) }
  match s.lookupFut (hCl h) (hEnt h) (hGen h) with
  | (s, .stale) => reply s staleReply
  | (s, .wait _) => s.wait e
  | (s, .found r) =>
    let s := s.unwait e
    if (op = 1 && r.fut.st == .resolved) || (op = 5 && r.fut.terminal) then
      let q := s.futEvent h .fdrop
      reply q.1 (futReply r.fut r.spilled (q.2 == .done .refcount))
    else if (op.toNat < 2 || op = 5) && !r.fut.terminal then
      match s.refill r with
      | (s, .error _) => s.wait e
      | (s, .ok r) =>
        let w : Waiter := { dev := dev, tid := tid }
        let f := if r.fut.waiters.contains w then r.fut else { r.fut with waiters := r.fut.waiters ++ [w] }
        reply (s.addWaiters r f) (futReply f r.spilled false)
    else reply s (futReply r.fut r.spilled false)

/-- FUTURE_FABRIC_EVENT (R34, R284). -/
def execFutureFabricEvent (s : State) : Out :=
  match s.ev with
  | some (.futureFabricEvent h ev id) =>
    match ev with
    | .touch dev tid op => .next (s.remoteTouch h dev tid op (.futureFabricEvent h ev id))
    | _ =>
      match s.handleCause h with
      | some c => .next (s.fabricRecord h c id)
      | none => .next (s.futEventOrWait (s.clusterPid (hCl h)) h ev (some id))
  | _ => .next s

/-- A task that a remote resolution woke stands behind those of the same future that its cluster's queue already has at the head (R296). -/
def State.wakeRemote (s : State) (x : Task) : State :=
  if x.det && (s.part x.pid).regs.detctl.getLsbD 0 then s.wakeHead [x.tid]
  else
    let same (t : BitVec 32) : Bool := let y := s.getTask t; y.parkCause == 0x0AA && y.parkArg == x.parkArg
    (s.onCluster x.cl fun c => { c with ready := c.ready.takeWhile same ++ x.tid :: c.ready.dropWhile same }).wakeCluster x.cl

/-- REMOTE_WAKE (R296). A wake that overtakes its task's parking makes the task ask again. -/
def execRemoteWake (s : State) : Out :=
  match s.ev with
  | some (.remoteWake t) =>
    match s.findTask t with
    | none => .next s
    | some x =>
      let s := { s with outs := s.outs.filter fun o => !(o.tid == t && o.fut && o.reply.isSome) }
      .next (if x.st == .parked && x.parkCause == 0x0AA && !s.isReady x then s.wakeRemote x else s)
  | _ => .next s

/-! ### Coherence between agents (R205, R206, R275) -/

/-- SCOPE_MISS_NOTICE (R275): SMISS counts a reissue at the next scope. -/
def execScopeMissNotice (s : State) : Out :=
  match s.ev with
  | some (.scopeMissNotice c _) =>
    .next (s.onTask (s.getCore c).running fun t => { t with smiss := if t.smiss = BitVec.allOnes 32 then t.smiss else t.smiss + 1 })
  | _ => .next s

/-- U_LINE_COMBINE (R206): the home writes the line, and what waits for a write of its words looks at it (R308). -/
def execULineCombine (s : State) : Out :=
  match s.ev with
  | some (.uLineCombine l) => .next ((s.combine l.toNat).wrote (64 * l.toNat) 64)
  | _ => .next s

/-- A core's copy of a line after another agent's access (R205). -/
def Core.meets (k : Core) (line : Nat) (ev : LineEvent) : Core :=
  match ev with
  | .read => { k with l1d := k.l1d.map fun l => if l.line == line then { l with st := .s } else l }
  | .write => { k with l1d := k.l1d.filter fun l => l.line != line }

/-- L1D_COHERENCE_REQUEST (R205, R212): a modified line is written back first, and U copies go home. -/
def execL1dCoherenceRequest (s : State) : Out :=
  match s.ev with
  | some (.l1dCoherenceRequest c line ev) =>
    let n := line.toNat
    let s := s.combine n
    let s := match (s.getCore c).l1d.find? fun l => l.line == n with
      | some l =>
        let x := s.getTask (s.getCore c).running
        let nud : Nud := { code := l.code, carried := 0, deflt := x.nuddef, asid := x.asid, pid := x.pid }
        if l.st = L1St.m && lineKind n ≠ 2 then (s.served (s.homeSlice n)).fillS (s.homeSlice n) n nud true false true else s
      | none => s
    .next (s.onCoreId c fun k => k.meets n ev)
  | _ => .next s

/-! ### Slice caches (R212 to R216) -/

/-- The lines that the sweep of a slice visits at an age: three of its 196,608 ways at each step (R214). -/
def sweepLines (sl : Slice) : List SLine :=
  let n := sl.age.toNat % 65536
  [3 * n, 3 * n + 1, 3 * n + 2].filterMap fun i => sl.lines.find? fun l => sliceSet l.line == i / 24 && l.way == i % 24

/-- SLICE_AGE_TICK (R212): the age rises; samples whose DUE it passes were unused (R216), and the sweep goes on. -/
def execSliceAgeTick (s : State) : Out :=
  match s.ev with
  | some (.sliceAgeTick id) =>
    let s := s.onSlice id fun sl => { sl with age := sl.age + 1 }
    let sl := s.getSlice id
    let s := (sl.samples.filter fun x => ageDiff x.due sl.age < 0).foldl (fun s x =>
      s.push (.sampleOutcome id (BitVec.ofNat 64 x.line) x.pid x.asid .unused)) s
    .next ((sweepLines sl).foldl (fun s l => s.push (.ageingSweepVisit none id (BitVec.ofNat 64 l.line))) s)
  | _ => .next s

/-- The ageing grace of a partition (R214, R423). -/
def State.grace (s : State) (pid : BitVec 2) : Nat := if (s.part pid).grace = 0 then 4096 else (s.part pid).grace

/-- AGEING_SWEEP_VISIT (R214): of a slice's line, or of a core's L1D line. -/
def execAgeingSweepVisit (s : State) : Out :=
  match s.ev with
  | some (.ageingSweepVisit (some c) _ line) =>
    let k := s.getCore c
    let old (due : BitVec 32) : Bool := ageDiff due k.cclk < -(s.grace ((s.corePid c).getD 0) : Int)
    .next (s.putCore { k with
      l1d := k.l1d.map fun l => if l.line == line.toNat && old l.due then { l with stale := true } else l
      ulines := k.ulines.map fun u => if u.live && u.line == line.toNat && old u.due then { u with stale := true } else u })
  | some (.ageingSweepVisit none id line) =>
    .next (s.onSlice id fun sl => { sl with
      lines := sl.lines.map fun l => if l.line == line.toNat && ageDiff l.due sl.age < -(s.grace l.pid : Int) then { l with stale := true } else l })
  | _ => .next s

/-- The tenant's entry; one that enters replaces the least recently sampled of 64, and takes its partition's TENSCALE (R215). -/
def State.tenantOf (s : State) (sl : Slice) (pid : BitVec 2) (asid : BitVec 16) : Tenant :=
  (sl.tenants.find? fun t => t.asid == asid && t.pid == pid).getD { asid := asid, pid := pid, kt := (s.part pid).regs.tenscale.extractLsb' 0 16 }

/-- A tenant stands first among the tenants of a slice. -/
def Slice.putTenant (sl : Slice) (t : Tenant) : Slice :=
  { sl with tenants := (t :: sl.tenants.filter fun x => !(x.asid == t.asid && x.pid == t.pid)).take 64 }

/-- SLICE_SAMPLE (R216): the table holds 256 outstanding samples. -/
def execSliceSample (s : State) : Out :=
  match s.ev with
  | some (.sliceSample id line pid asid) =>
    let sl := s.getSlice id
    match sl.lines.find? fun l => l.line == line.toNat && !l.replica with
    | none => .next s
    | some l =>
      if 256 ≤ sl.samples.length then .next s
      else
        .next (s.putSlice ({ sl with samples := sl.samples.concat { line := line.toNat, asid := asid, pid := pid, due := l.due } }.putTenant (s.tenantOf sl pid asid)))
  | _ => .next s

/-- SAMPLE_OUTCOME (R216). -/
def execSampleOutcome (s : State) : Out :=
  match s.ev with
  | some (.sampleOutcome id line pid asid res) =>
    let sl := s.getSlice id
    let hit (x : Sample) : Bool := x.line == line.toNat && x.asid == asid && x.pid == pid
    if !sl.samples.any hit then .next s
    else
      let sl := { sl with samples := sl.samples.filter fun x => !hit x }
      if res = .discarded then .next (s.putSlice sl)
      else
        let f (t : Tenant) : Tenant :=
          if t.asid == asid && t.pid == pid then { t with samples := t.samples + 1, unused := t.unused + if res = .unused then 1 else 0 } else t
        let s := s.putSlice { sl with tenants := sl.tenants.map f }
        .next (if sl.tenants.any fun t => t.asid == asid && t.pid == pid && t.samples + 1 == 65536 then s.push (.ktAdjust id pid asid) else s)
  | _ => .next s

/-- Kt after 65,536 samples (R216). -/
def adjustKt (kt : BitVec 16) (unused : Nat) : BitVec 16 :=
  if 32768 < unused then BitVec.ofNat 16 (Nat.min (2 * kt.toNat) 0x1000)
  else if unused < 8192 then BitVec.ofNat 16 (Nat.max (kt.toNat / 2) 0x10)
  else kt

/-- KT_ADJUST (R216). -/
def execKtAdjust (s : State) : Out :=
  match s.ev with
  | some (.ktAdjust id pid asid) =>
    .next (s.onSlice id fun sl => { sl with tenants := sl.tenants.map fun t =>
      if t.asid == asid && t.pid == pid then { t with kt := adjustKt t.kt t.unused, samples := 0, unused := 0 } else t })
  | _ => .next s

end Sys2Proof.Machine
end

