-- ==== Sys2Proof/Machine/Reliable.lean ====
section
/-!
DEFINITION. Reliability (R390 to R406): Periscope and its registers, the checks of each hop, containment of a cluster, and the
MACHINE causes that stop more than one cluster.
-/

namespace Sys2Proof.Machine

/-! ### Periscope (R392 to R394) -/

def Periscope.base (p : Periscope) : Nat := p.prbase.toNat / 4096 % 2 ^ 40 * 4096
def Periscope.log (p : Periscope) : Nat := p.prbase.toNat % 64

/-- The words of a record (R394). -/
def recordWords (r : PRecord) (seq : Word) : List Word :=
  [seq, r.type ++ r.sev ++ r.unit ++ r.layer ++ r.cluster ++ r.slice ++ r.core ++ r.port ++ r.lane ++ (0 : BitVec 14), r.address,
    r.syndrome ++ r.count, r.localctr, r.detail, r.asid ++ r.tid ++ (0 : BitVec 16), 0]

/-- A device write in HBM that no task makes; a whole line written clears its poison (R391). -/
def State.hbmWrite (s : State) (pa n v : Nat) : State :=
  let s := (linesOf pa n).foldl (fun s l => (s.combine l).dropOthers none l) s
  let whole := (linesOf pa n).filter fun l => pa ≤ l * 64 && l * 64 + 64 ≤ pa + n
  let s : State := { s with poison := s.poison.filter fun l => !whole.contains l, latent := s.latent.filter fun l => !whole.contains l }
  { s with mem := s.mem.write pa n v }.wrote pa n

/-- A record reaches Periscope (R393). -/
def State.periscope (s : State) (r : PRecord) : State :=
  let p := s.peri
  let seq := p.prseq
  let p' := { p with prseq := seq + 1, standby := (p.standby.concat (seq, r)).drop (p.standby.length + 1 - 64) }
  if p.base = 0 || (p.prtail - p.prhead).toNat = 2 ^ p.log then
    { s with peri := { p' with overflow := true, dropcnt := if p.dropcnt = BitVec.ofNat 32 (2 ^ 32 - 1) then p.dropcnt else p.dropcnt + 1 } }
  else
    let s := s.hbmWrite (p.base + 64 * (p.prtail.toNat % 2 ^ p.log)) 64 (wordsNat (recordWords r seq))
    let s := { s with peri := { p' with prtail := p.prtail + 1 } }
    if p.prctl.getLsbD 3 && (p.prctl.extractLsb' 0 3).toNat ≤ r.sev.toNat then s.raise (p.prctl.extractLsb' 32 12) else s

/-- PERISCOPE_RECORD (R393). -/
def execPeriscopeRecord (s : State) : Out :=
  match s.ev with
  | some (.periscopeRecord r) => .next (s.periscope r)
  | _ => .next s

/-- PRBASE_WRITE (R392). -/
def execPrbaseWrite (s : State) : Out :=
  match s.ev with
  | some (.prbaseWrite v) => .next { s with peri := { s.peri with prbase := v &&& 0x000F_FFFF_FFFF_F03F, prtail := 0, prhead := 0 } }
  | _ => .next s

/-- PRSTATUS_WRITE (R392): OVERFLOW is cleared by a 1. -/
def execPrstatusWrite (s : State) : Out :=
  match s.ev with
  | some (.prstatusWrite v) => .next { s with peri := { s.peri with overflow := s.peri.overflow && !v.getLsbD 63, dropcnt := v.extractLsb' 0 32 } }
  | _ => .next s

/-- A write to BAR 4 or the reliability block (R2, R392, R416, R422, R424): RW fields take the value, and a write to a register with
behaviour of its own is the event of that register. (DEDUCED, assumption 35) -/
def execRegisterWrite (s : State) : Out :=
  match s.ev with
  | some (.registerWrite off v) =>
    let o := off.toNat
    if o = 0x00 then .next (s.push (.prbaseWrite v))
    else if o = 0x10 then .next { s with peri := { s.peri with prhead := v } }
    else if o = 0x18 then .next (s.push (.prstatusWrite v))
    else if o = 0x20 then .next { s with peri := { s.peri with prctl := v &&& 0x0000_0FFF_0000_000F } }
    else if 0x1000 ≤ o && o < 0x1080 then
      let pid := BitVec.ofNat 2 ((o - 0x1000) / 32)
      if o % 32 = 0x10 then .next (s.onPart pid fun p => { p with prec := v &&& 0x000F_FFFF_FFFF_F000 })
      else if o % 32 = 0x18 then
        match v.getLsbD 1, v.getLsbD 0 with
        | true, true => .next (s.push (.partitionRestart pid))
        | true, false => .next (s.push (.partitionStop pid))
        | false, true => .next (s.push (.partitionStart pid))
        | false, false => .next s
      else .next s
    else if o = 0x2000 then .next { s with pod := { s.pod with keybase := v &&& 0x000F_FFFF_FFFF_F000, keylog2n := v.extractLsb' 0 5 } }
    else if o = 0x2008 then .next { s with pod := { s.pod with rmaxout := v.extractLsb' 32 10, rtimeout := v.extractLsb' 0 16 } }
    else if 0x2010 ≤ o && o < 0x2090 && o % 8 = 0 then .next (s.push (.fencedClear (BitVec.ofNat 4 ((o - 0x2010) / 8)) v))
    else if 0x100000 ≤ o && o < 0x108000 then .next { s with msixTab := s.msixTab.write (o - 0x100000) 8 v.toNat }
    else .next s
  | _ => .next s

/-! ### Kills (R403 to R405) -/

/-- The core that runs a task gives it up; a parked task stays where it is. -/
def State.pullOff (s : State) (t : BitVec 32) : State :=
  match s.allCores.find? fun k => k.running == t && t != 0 with
  | some k => (s.activate k.id).leave
  | none => s

/-- A task that is lost: its future is POISONED with the cause whatever it was pending, and 1 is added to its parent's counter where
`count` holds (R34, R402, R405, R406). -/
def State.loseTask (s : State) (t : BitVec 32) (c : Cause) (count : Bool) : State :=
  match s.findTask t with
  | none => s
  | some x =>
    let s := if x.self = 0 then s else s.futEventOrWait x.pid x.self (.producerLost c)
    let s := s.freeTiles x.cl t
    let s := if count then s.doneAdd x else s
    let s := s.gone t
    { s with colls := s.colls.filter fun c => c.tid != t }

/-- The running task's FENCE waits for the answers to its stores (R271, R273). -/
def State.fenceWaits (s : State) : Bool :=
  match fetchWord.run s with
  | .ok bs t =>
    match decode (wordOfBytes bs) with
    | .ok (h, .fence kind scope) =>
      s.cond h.guard != h.gneg &&
        match (fenceAct kind scope).run t with
        | .error .stall _ => s.remoteOpen
        | _ => false
    | _ => false
  | .error _ _ => false

/-- Stores of a task that have left its core without an answer (R273, R404). -/
def State.openStores (s : State) (t : BitVec 32) : Nat := (s.outs.filter fun o => o.tid == t && o.store && o.reply.isNone && !o.lost).length

/-- A kill record (R404): TVAL holds the number of stores that had left the core without an answer, and above it that of fences
abandoned. A commit of staged lines is one step here, so no staged line is on its way. -/
def State.killRecord (s : State) (x : Task) (c : Cause) : State :=
  let fences : Nat := match s.allCores.find? fun k => k.running == x.tid && x.tid != 0 with
    | some k => if (s.activate k.id).fenceWaits then 1 else 0
    | none => 0
  s.taskRecord x 6 false c x.pc (BitVec.ofNat 64 (s.openStores x.tid % 2 ^ 32 + 2 ^ 32 * fences))

/-- The task has started, and a kill stops it (R355, R405): rollback where it may be repeated, loss otherwise. -/
def State.killEnd (s : State) (t : BitVec 32) (c : Cause) (count : Bool) : State :=
  match s.findTask t with
  | none => s
  | some x =>
    let pending : Bool := match s.lookupFut (hCl x.self) (hEnt x.self) (hGen x.self) with
      | (_, .found r) => x.self != 0 && r.fut.st == .cancelPending
      | _ => false
    if count && x.replayable && x.rollbacks < 2 && !pending then s.rollback t c else s.loseTask t c count

/-- A kill of one task. -/
def State.kill (s : State) (t : BitVec 32) (c : Cause) : State :=
  match s.findTask t with
  | none => s
  | some x =>
    let s := s.killRecord { x with core := if x.st = .running then ((s.allCores.find? fun k => k.running == t).map Core.id).getD x.core else x.core } c
    (s.pullOff t).killEnd t c true

/-- REGFILE_PARITY_ERROR (R395, R396). -/
def execRegfileParityError (s : State) : Out :=
  match s.ev with
  | some (.regfileParityError c file reg) =>
    let t := (s.getCore c).running
    let x := s.getTask t
    .next ((s.report { coreRecord 0x06 3 c with detail := (0 : BitVec 56) ++ file ++ reg, asid := x.asid, tid := x.tid }).kill t 0x179)
  | _ => .next s

/-! ### Containment (R400 to R402) -/

/-- The record lies in a launch queue. -/
def State.inLaunchQueue (s : State) (x : Task) : Bool := (s.part x.pid).queues.toList.any fun q => q.recs.contains x.tid

/-- Tasks of a cluster, records in its deques included. -/
def State.tasksOf (s : State) (cl : BitVec 8) : List (BitVec 32) :=
  (s.allTasks.filter fun t => t.cl == cl && t.tid != 0 && !s.inLaunchQueue t).map Task.tid

/-- The cores of a cluster give up every task and record. -/
def Core.cleared (k : Core) : Core :=
  { k with running := 0, slots := Vector.replicate 4 0, deque := [], blocks := [], prep := [], mx := k.mx.unbind, leader := none, members := [], followAt := none
           boundary := false, qlog := [], detReqs := [] }

/-- What cores hold in system frames and in the partition spill area goes back: deque blocks and logs (R68, R304, R400). -/
def State.giveCoreRooms (s : State) (ks : List Core) : State :=
  ks.foldl (fun s k => (k.blocks.map Prod.snd ++ k.qlog.map RedLog.room).foldl (fun s r =>
    s.giveRoom (clusterOf k.id) ((s.corePid k.id).getD 0) r) s) s

/-- An operation of a copy engine that a reset ends no longer holds its stream (R52). -/
def State.dropOp (s : State) (cl : BitVec 8) (o : EngOp) : State :=
  let s := s.onCluster cl fun c => { c with ops := c.ops.filter fun x => x.id != o.id }
  match o.stream with
  | none => s
  | some n => (s.onPart o.pid fun p => { p with streams := wr p.streams n { rd p.streams n with copies := (rd p.streams n).copies.filter fun x => x != o.id } }).fenceCheck o.pid n

/-- An entry that failed its check is POISONED, and its waiters wake (R400). -/
def State.spoilEntry (s : State) (cl : BitVec 8) (e : BitVec 9 × BitVec 16) : State :=
  match (s.getCluster cl).futs.find? fun f => f.ent == e.1 && f.gen == e.2 with
  | none => s
  | some f =>
    let q := s.settle cl { f with st := .poisoned, val := 0x179 }
    q.1.putFut { cl := cl, fut := f, loc := .table } q.2

/-- The reset of a cluster (R400). -/
def State.contain (s : State) (cl : BitVec 8) (bad : List (BitVec 9 × BitVec 16)) (c : Cause) : State :=
  let ts := s.tasksOf cl
  let s := ts.foldl (fun s t => (s.killRecord (s.getTask t) c).pullOff t) s
  let clr (k : Core) : Core := if clusterOf k.id = cl then k.cleared else k
  let s := s.giveCoreRooms (s.allCores.filter fun k => clusterOf k.id == cl)
  let s := { s with core := clr s.core, cores := s.cores.map clr }
  let s := ((s.getCluster cl).tiles.map Tile.frame).foldl (fun s f => s.freeTile cl f) s
  let s := (s.getCluster cl).ops.foldl (fun s o => s.dropOp cl o) s
  let s := s.onCluster cl fun k => { k with ready := [], held := [], launchWait := [], tiles := [], tlb := [] }
  let s := bad.foldl (fun s e => s.spoilEntry cl e) s
  let s := ts.foldl (fun s t => (s.onTask t fun x => { x with slot := none }).killEnd t c true) s
  s.report { clusterRecord 0x12 3 cl with detail := (0 : BitVec 32) ++ BitVec.ofNat 16 ts.length ++ (0 : BitVec 7) ++ c }

/-- CLUSTER_CONTAINMENT (R400, R402, R405). -/
def execClusterContainment (s : State) : Out :=
  match s.ev with
  | some (.clusterContainment cl bad) => .next (s.contain cl bad 0x178)
  | _ => .next s

/-- SCHEDULER_WATCHDOG_TIMEOUT (R400). -/
def execSchedulerWatchdogTimeout (s : State) : Out :=
  match s.ev with
  | some (.schedulerWatchdogTimeout cl) => .next (s.push (.clusterContainment cl []))
  | _ => .next s

/-- POISONED_TAIL_RECEIVED (R401). Which MSG cause a discarded message's record holds is not stated: a free choice among them.
(DESIGN CHOICE, assumption 34) -/
def execPoisonedTailReceived (s : State) : Out :=
  match s.ev with
  | some (.poisonedTailReceived cl p) =>
    let s := s.report { clusterRecord 0x12 3 cl with detail := 0x178 }
    match p with
    | .futureEvent h => .next (s.futEventOrWait (s.clusterPid cl) h (.producerLost 0x178))
    | .request t =>
      match s.allCores.find? fun k => k.running == t && t != 0 with
      | some k =>
        let s := s.activate k.id
        let s := { s with outs := s.outs.filter fun o => !(o.tid == t && !o.store) }
        let w := s.freshWord
        .next (w.1.stopWith (.trap 0x080 w.2))
      | none => .next s
    | .message pid id =>
      let n := s.freeCount
      let w := { s with freeCount := n + 1 }.freshWord
      .next (w.1.reportRecord pid {} cl (0x0C8 + BitVec.ofNat 9 (Config.freeNat n % 5)) w.2 0 id)
    | .other => .next s
  | _ => .next s

/-! ### Checks of memories (R391, R396, R408) -/

/-- A line of a physical place is poisoned. -/
def State.poisonLine (s : State) (l : Nat) : State :=
  { s with poison := l :: s.poison.filter fun x => x != l, latent := s.latent.filter fun x => x != l }

/-- The first n bytes of a room share a line with the byte at `k`, in cluster memory where the flag holds. -/
def State.roomMeets (s : State) (x : Task) (r : Room) (n : Nat) (local_ : Bool) (k : Nat) : Bool :=
  match s.roomAt x.cl x.pid r with
  | some (b, lo) => b == local_ && 0 < n && lo / 64 ≤ k / 64 && k / 64 ≤ (lo + n - 1) / 64
  | none => false

/-- An error at a byte destroys the context, the spill image or the matrix image that lies there (R363). -/
def State.hitContext (s : State) (local_ : Bool) (k : Nat) : State :=
  (s.allTasks.filter fun x => s.roomMeets x x.away contextBytes local_ k || s.roomMeets x x.imgAway (64 * x.spill.length) local_ k ||
    s.roomMeets x x.mxAway matrixBytes local_ k).foldl (fun s x => s.onTask x.tid fun t => { t with ctxBad := true }) s

/-- HBM_ECC_ERROR (R391, R395, R396). -/
def execHbmEccError (s : State) : Out :=
  match s.ev with
  | some (.hbmEccError a ch out) =>
    let n := s.freeCount
    let s1 := { s with freeCount := n + 1 }
    let r (type : BitVec 8) (sev : BitVec 3) : PRecord :=
      { pRecord type sev 4 with port := (Config.hbmController (a.toNat % 2 ^ 52 / 64)).setWidth 7, address := a, syndrome := Config.syndrome n, detail := ch.setWidth 64 }
    let line := a.toNat % 2 ^ 52 / 64
    let spoil (s : State) : State := s.hitContext false (a.toNat % 2 ^ 52)
    match out with
    | .corrected _ => .next (s1.report (r 0x03 1))
    | .undiscovered => .next (spoil (if s.poison.contains line then s else { s with latent := line :: s.latent.filter fun x => x != line }))
    | _ => .next (spoil ((s1.poisonLine line).report (r 0x04 3)))
  | _ => .next s

/-- The local line that an error in a store reaches, for cluster memory, scratchpads and lane slices. `a` is the offset. -/
def eccLocal (store : Nat) (cl : BitVec 8) (c : BitVec 16) (a : Nat) : Nat :=
  if store = 0 then localLine 0 (cmKey cl a) else if store = 3 then localLine 1 (spKey c a) else localLine 2 (lsKey c a)

/-- SRAM_ECC_ERROR (R391, R395, R396, R408). In slices and L1Ds `address` names a byte by kind and PA; elsewhere it is an offset, or
of a layer in the MEMORY role a PA of its window. -/
def execSramEccError (s : State) : Out :=
  match s.ev with
  | some (.sramEccError store layer cluster core slice a out) =>
    let n := s.freeCount
    let s1 := { s with freeCount := n + 1 }
    let cl : BitVec 8 := layer ++ cluster
    let c : BitVec 16 := coreIn cl core.toNat
    let mapped : Bool := store.toNat = 1 || store.toNat = 2 || s.role layer == .memory
    let kind : Nat := if mapped then (if s.role layer == .memory then 1 else a.toNat / 2 ^ 52 % 8) else 7
    let unit : BitVec 4 := if store.toNat = 1 then 2 else if store.toNat = 0 || store.toNat = 7 then 1 else 0
    let r (type : BitVec 8) (sev : BitVec 3) (bit : BitVec 7) : PRecord :=
      { pRecord type sev unit with
        layer := layer, cluster := if store.toNat = 1 then 0 else cluster, slice := if store.toNat = 1 then slice else 0, core := core
        address := BitVec.ofNat 64 (a.toNat % 2 ^ 52), syndrome := Config.syndrome n &&& 0xFF
        detail := (0 : BitVec 48) ++ store ++ (0 : BitVec 1) ++ bit ++ (0 : BitVec 1) ++ BitVec.ofNat 3 kind }
    let line := if s.role layer == .memory then (2 ^ 52 + a.toNat % 2 ^ 52) / 64 else a.toNat % 2 ^ 55 / 64
    let isLocal : Bool := !mapped && (store.toNat = 0 || store.toNat = 3 || store.toNat = 4)
    match out with
    | .corrected bit => .next (s1.report (r 0x01 1 bit))
    | .undiscovered =>
      if isLocal then
        let s2 : State := { s with localLatent := eccLocal store.toNat cl c a.toNat :: s.localLatent }
        .next (if store.toNat = 0 then s2.hitContext true (cmKey cl a.toNat) else s2)
      else if mapped then .next { s with latent := line :: s.latent.filter fun x => x != line }
      else .next s
    | .uncorrectableClean =>
      let s2 := s1.report (r 0x02 2 0)
      if store.toNat = 1 then .next (s2.onSlice (layer ++ slice) fun sl => { sl with lines := sl.lines.filter fun l => l.line != line || l.dirty })
      else if store.toNat = 2 then .next (s2.onCoreId c fun k => { k with l1d := k.l1d.filter fun l => l.line != line || l.st == .m })
      else .next ((s2.onCoreId c fun k => { k with tlb := [] }).onCluster cl fun k => { k with tlb := [] })
    | .uncorrectableHome =>
      let s2 := s1.report (r 0x02 3 0)
      if isLocal then
        let l := eccLocal store.toNat cl c a.toNat
        let s3 : State := { s2 with localPoison := l :: s2.localPoison.filter fun x => x != l, localLatent := s2.localLatent.filter fun x => x != l }
        .next (if store.toNat = 0 then s3.hitContext true (cmKey cl a.toNat) else s3)
      else if mapped then .next (s2.poisonLine line)
      else if store.toNat = 7 then .next (s2.push (.clusterContainment cl []))
      else
        -- operand memories and accumulators: the bytes are lost
        let lo := a.toNat / 64 * 64
        .next (s2.onCoreId c fun k => { k with mx := { k.mx with img := k.mx.img.forget lo (lo + 64) n } })
  | _ => .next s

/-! ### Links and vertical ports (R396, R398, R399, R406) -/

/-- LINK_CRC_ERROR (R395, R396): after 8 retries the device stops. -/
def execLinkCrcError (s : State) : Out :=
  match s.ev with
  | some (.linkCrcError layer cluster dir crc failed) =>
    let r : PRecord := { clusterRecord (if failed then 0x0A else 0x09) (if failed then 4 else 2) (layer ++ cluster) with
      syndrome := crc.setWidth 32, detail := dir.setWidth 64 }
    .next { s.report r with stopped := s.stopped || failed }
  | _ => .next s

/-- The junction that a port serves: n stands between layer n and layer n − 1, 0 above the base die (R399). -/
def junctionOf (layer : BitVec 2) (port : BitVec 7) : Nat := if port.getLsbD 2 then 0 else if port.getLsbD 1 then layer.toNat + 1 else layer.toNat

/-- A router port of a junction is disabled. -/
def State.portDown (s : State) (j : Nat) (cluster : Nat) : Bool :=
  s.vports.any fun p => p.disabled && !p.port.getLsbD 0 && junctionOf p.layer p.port == j && p.cluster.toNat == cluster

/-- A junction has no working port in any mesh row. -/
def State.junctionDown (s : State) (j : Nat) : Bool := (List.range 48).all (s.portDown j)

/-- A vertical port's entry changes. -/
def State.onVPort (s : State) (layer : BitVec 2) (cluster : BitVec 6) (port : BitVec 7) (f : VPort → VPort) : State :=
  let same (p : VPort) : Bool := p.layer == layer && p.cluster == cluster && p.port == port
  let p := (s.vports.find? same).getD { layer := layer, cluster := cluster, port := port }
  { s with vports := f p :: s.vports.filter fun p => !same p }

/-- The layers beyond a junction are lost: their tasks are killed (R406). -/
def State.loseLayers (s : State) (j : Nat) : State :=
  let s := two.foldl (fun (s : State) l => if j ≤ l.toNat then { s with lost := s.lost ||| BitVec.ofNat 4 (2 ^ l.toNat) } else s) s
  let ts := (s.allTasks.filter fun t => s.lost.getLsbD (layerOf t.cl).toNat && t.tid != 0 && !s.inLaunchQueue t).map Task.tid
  let s := ts.foldl (fun s t => (s.killRecord (s.getTask t) 0x17A).pullOff t) s
  let s := s.giveCoreRooms (s.allCores.filter fun k => s.lost.getLsbD (layerOf (clusterOf k.id)).toNat)
  let clr (k : Core) : Core := if s.lost.getLsbD (layerOf (clusterOf k.id)).toNat then { k.cleared with halted := true } else k
  let s := { s with core := clr s.core, cores := s.cores.map clr }
  let s := ts.foldl (fun s t => s.loseTask t 0x17A true) s
  s.report { pRecord 0x12 3 9 with detail := (0 : BitVec 32) ++ BitVec.ofNat 16 ts.length ++ (0x17A : BitVec 16) }

/-- The lowest group of a parity-fail mask. -/
def firstGroup (m : BitVec 32) : Nat := ((List.range 32).find? fun i => m.getLsbD i).getD 0

/-- The group that a lane belongs to (R394, R398): data lanes by 32, then parity lanes, then spares. -/
def laneGroup (l : BitVec 11) : Nat := if l.toNat < 1024 then l.toNat / 32 else l.toNat % 32

/-- VBUS_PARITY_FAIL (R398, R399, R406, R408). -/
def execVbusParityFail (s : State) : Out :=
  match s.ev with
  | some (.vbusParityFail layer cluster port groups a out) =>
    let g := firstGroup groups
    let r (type : BitVec 8) (sev : BitVec 3) (lane : BitVec 11) (tries : Nat) (spare : Bool) : PRecord :=
      { pRecord type sev 3 with
        layer := layer, cluster := cluster, port := port, lane := lane, address := BitVec.ofNat 64 (a.toNat % 2 ^ 52), syndrome := groups
        detail := BitVec.ofNat 64 (g + 32 * tries + if spare then 128 else 0) }
    let mine := (s.vports.find? fun p => p.layer == layer && p.cluster == cluster && p.port == port).getD { layer := layer, cluster := cluster, port := port }
    let fail (lane : BitVec 11) (s : State) : State :=
      let s := (s.onVPort layer cluster port fun p => { p with disabled := true }).poisonLine (a.toNat % 2 ^ 55 / 64)
      let s := s.report (r 0x0D 3 lane 3 false)
      if s.junctionDown (junctionOf layer port) then s.loseLayers (junctionOf layer port) else s
    match out with
    | .retry n => .next (s.report (r 0x0B 2 0 n.toNat false))
    | .swap lanes =>
      -- one lane in each failing group, with that group's spare free; the record names the first (DESIGN CHOICE, assumption 76)
      if ((mine.swaps ++ lanes).map laneGroup).Nodup then
        .next ((s.onVPort layer cluster port fun p => { p with swaps := p.swaps ++ lanes }).report (r 0x0C 2 (lanes.headD 0) 3 true))
      else .next (fail (lanes.headD 0) s)
    | .fail => .next (fail 0 s)
  | _ => .next s

end Sys2Proof.Machine
end

