-- ==== Sys2Proof/Machine/Edge.lean ====
section
/-!
DEFINITION. The edges: what the host does through the BARs (R44, R60, R61, R415), host translations and reads (R414, R417, R418),
and requests, responses and fences of UALink peers (R420 to R422).
-/

namespace Sys2Proof.Machine

/-! ### The host ingress (R44, R60, R61, R415) -/

/-- A HOST-UR record (R395). -/
def hostUr (a : Word) (rid : BitVec 16) : PRecord := { pRecord 0x14 1 6 with address := a, detail := rid.setWidth 64 }

/-- PA of an offset of the memory BAR or of the aperture: 512 GiB (R415). (DESIGN CHOICE, assumption 74) -/
def barPa (off : Word) : Nat := off.toNat % 2 ^ 39

/-- An Unsupported Request: one record and one PCIe error (R44). -/
def State.unsupported (s : State) (rid : BitVec 16) (off : Word) : State :=
  { s with pcieErr := s.pcieErr.concat rid }.report (hostUr (BitVec.ofNat 64 (barPa off)) rid)

/-- APERTURE_ADD (R44, R429): a sum that saturates writes one record and no PCIe error. -/
def execApertureAdd (s : State) : Out :=
  match s.ev with
  | some (.apertureAdd rid off len n) =>
    if len = 8 && barPa off % 8 = 0 then
      let r := s.ctrAddAt { kind := 0, pa := barPa off, ord := 0 } n.toNat
      .next (if r.2 then r.1.report (hostUr (BitVec.ofNat 64 (barPa off)) rid) else r.1)
    else .next (s.unsupported rid off)
  | _ => .next s

/-- APERTURE_READ (R44): no data, and the status Unsupported Request. -/
def execApertureRead (s : State) : Out :=
  match s.ev with
  | some (.apertureRead rid off) => .next ({ s with completions := s.completions.concat (rid, .unsupported, []) }.unsupported rid off)
  | _ => .next s

/-- Bytes that an agent outside the cores stores at a place of this device; a whole line written clears its poison (R391). -/
def State.edgeStore (s : State) (key : Nat) (bs : List Byte) : State :=
  let n := bs.length
  let s := (linesOf key n).foldl (fun s l => (s.combine l).dropOthers none l) s
  let whole := (linesOf key n).filter fun l => key ≤ l * 64 && l * 64 + 64 ≤ key + n
  let s := { s with
    mem := s.mem.putBytes key bs
    poison := s.poison.filter fun l => !whole.contains l, latent := s.latent.filter fun l => !whole.contains l }
  s.wrote key n

/-- Bytes that such an agent reads, and whether an error destroyed some, or their home is out of reach (R390, R406). -/
def State.edgeRead (s : State) (key n : Nat) : State × List Byte × Bool :=
  let s := (linesOf key n).foldl (fun s l => (s.combine l).shareOthers 0xFFFF l) s
  let s := ((linesOf key n).filter s.latent.contains).foldl (fun s l => s.findErrorFor 0 0 l) s
  (s, (List.range n).map fun i => s.mem.get (key + i), (linesOf key n).any fun l => s.poison.contains l || s.lostLine l)

/-- HOST_POSTED_WRITE (R60): a write of a chain is visible at once, after every earlier one; with Relaxed Ordering it may become
visible now or later. (DESIGN CHOICE, assumption 25) -/
def execHostPostedWrite (s : State) : Out :=
  match s.ev with
  | some (.hostPostedWrite rid relaxed off data) =>
    let e : Ev := .hostPostedWrite rid relaxed off data
    let now (s : State) : State := (s.unwait e).edgeStore (barPa off) data
    if relaxed then
      let s1 := { s with freeCount := s.freeCount + 1 }
      .next (if Config.freeBit s.freeCount then now s1 else s1.wait e)
    else .next (now s)
  | _ => .next s

/-- HOST_BAR_READ (R61): every earlier write of the requester's chain is visible already. What the host sees of data that an error
destroyed is a free value. (DEDUCED, assumption 52) -/
def execHostBarRead (s : State) : Out :=
  match s.ev with
  | some (.hostBarRead rid off len) =>
    let r := s.edgeRead (barPa off) len.toNat
    let n := r.1.freeCount
    let bs := if r.2.2 then (List.range len.toNat).map (Config.freeByte n) else r.2.1
    .next { r.1 with freeCount := n + 1, completions := r.1.completions.concat (rid, .success, bs) }
  | _ => .next s

/-- PCIE_CONFIG_REQUEST (R427): Request Retry Status until stage 6. -/
def execPcieConfigRequest (s : State) : Out :=
  match s.ev with
  | some .pcieConfigRequest =>
    .next { s with completions := s.completions.concat (0, if s.power < 6 then .retry else .success, []) }
  | _ => .next s

/-! ### Host translations and reads (R414, R417, R418) -/

/-- ATS_INVALIDATION (R414): a TLBINV of kind range, for every partition. It waits until no queued matrix access uses what it
drops. -/
def execAtsInvalidation (s : State) : Out :=
  match s.ev with
  | some (.atsInvalidation asid va len) =>
    let e : Ev := .atsInvalidation asid va len
    let k : InvKind := .range va len asid
    match s.allCores.find? fun c => two.any fun p => s.mxUses p k c with
    | some c => .next ((if s.agenda.contains (.sequencerRunCommand c.id) then s else s.push (.sequencerRunCommand c.id)).wait e)
    | none =>
      let s := two.foldl (fun s p => s.tlbinv p k) (s.unwait e)
      .next { s with ats := s.ats.filter fun (a : AtsReq) => !((s.getTask a.tid).asid == asid && a.answer.isSome && k.meets a.va.toNat 65536) }
  | _ => .next s

/-- ATS_RESPONSE (R418): the task's instruction meets the answer at its next turn. -/
def execAtsResponse (s : State) : Out :=
  match s.ev with
  | some (.atsResponse t va ans) =>
    let page := va &&& ~~~(0xFFFF : Word)
    .next { s with ats := s.ats.map fun (a : AtsReq) => if a.tid == t && a.va == page && a.answer.isNone then { a with answer := some ans } else a }
  | _ => .next s

/-- An outstanding request takes its reply. -/
def State.answer (s : State) (p : OutReq → Bool) (r : RemoteReply) : State :=
  match s.outs.find? fun (o : OutReq) => p o && o.reply.isNone && !o.lost with
  | some o => { s with outs := s.outs.map fun (x : OutReq) => if x = o then { x with reply := some r } else x }
  | none => s

/-- HOST_READ_COMPLETION (R417). -/
def execHostReadCompletion (s : State) : Out :=
  match s.ev with
  | some (.hostReadCompletion t va d) => .next (s.answer (fun o => o.tid == t && o.dev == none && o.va == va) (.data d))
  | _ => .next s

/-- HOST_READ_TIMEOUT (R417). The device's own Requester ID is not stated: a free value. -/
def execHostReadTimeout (s : State) : Out :=
  match s.ev with
  | some (.hostReadTimeout t va) =>
    let w := s.freshWord
    .next ((w.1.answer (fun o => o.tid == t && o.dev == none && o.va == va) .poisoned).report (hostUr va (w.2.extractLsb' 0 16)))
  | _ => .next s

/-! ### UALink (R419 to R422) -/

/-- UALINK_RESPONSE (R420, R421). -/
def execUalinkResponse (s : State) : Out :=
  match s.ev with
  | some (.ualinkResponse t va r) => .next (s.answer (fun o => o.tid == t && o.dev.isSome && o.va == va) r)
  | _ => .next s

/-- An access-key entry (R420). -/
structure KeyEnt where
  base : Word
  len : Word
  asid : BitVec 16
  perm : BitVec 8
  zero : Bool
  ctr : Word
  deriving DecidableEq, Repr

/-- The entry of an index; none beyond the table. -/
def State.keyEnt (s : State) (key : BitVec 26) : Option KeyEnt :=
  if 2 ^ s.pod.keylog2n.toNat ≤ key.toNat then none
  else
    let w (i : Nat) : Word := s.mem.word (s.pod.keybase.toNat + 32 * key.toNat + 8 * i)
    some { base := w 0, len := w 1, asid := (w 2).extractLsb' 0 16, perm := (w 2).extractLsb' 16 8, zero := (w 2).extractLsb' 24 40 == 0, ctr := w 3 }

/-- Bytes that an inbound request covers. -/
def peerBytes : PeerOp → Nat
  | .read n => n.toNat
  | .write d => d.length
  | .atomic _ z _ _ _ => 2 ^ z.toNat

/-- The permission bit that a request needs. -/
def peerPermBit : PeerOp → Nat
  | .read _ => 0
  | .write _ => 1
  | .atomic _ _ _ _ _ => 2

/-- The key admits the request. -/
def KeyEnt.admits (k : KeyEnt) (va : Word) (op : PeerOp) : Bool :=
  k.zero && k.perm.extractLsb' 3 5 == 0 && k.len != 0 && k.perm.getLsbD (peerPermBit op) && decide (k.base.toNat ≤ va.toNat) &&
    decide (va.toNat + peerBytes op ≤ k.base.toNat + k.len.toNat)

/-- The partition in whose address spaces a key's ASID stands: the lowest that runs and maps it (DESIGN CHOICE, assumption 18). -/
def State.keyPid (s : State) (asid : BitVec 16) : Option (BitVec 2) :=
  two.find? fun p => (s.part p).run && s.mem.read ((s.part p).astab + 16 * asid.toNat) 8 % 2 == 1

/-- A request performed at a place of this device: its reply. -/
def State.peerDo (s : State) (p : Phys) (op : PeerOp) : State × RemoteReply :=
  match op with
  | .read n =>
    let r := s.edgeRead p.key n.toNat
    (r.1, if r.2.2 then .poisoned else .data (BitVec.ofNat 512 (bytesNat r.2.1)))
  | .write d => (s.edgeStore p.key d, .data 0)
  | .atomic o z bf b cmp =>
    let n := 2 ^ z.toNat
    let r := s.edgeRead p.key n
    if r.2.2 then (r.1, .poisoned)
    else
      let old := bytesNat r.2.1
      let s := if o = ctrOp then (r.1.ctrAddAt p b.toNat).1
        else r.1.edgeStore p.key (natBytes n (atomF o.toNat n bf old (b.toNat % 2 ^ (8 * n)) (cmp.toNat % 2 ^ (8 * n))).1)
      (s, .data (BitVec.ofNat 512 old))

/-- Both pages of a request, translated at the target; nothing parks here (R420). -/
def State.peerPhys (s : State) (pid : BitVec 2) (asid : BitVec 16) (acc : Access) : List (Word × Nat) → Option (State × List (Phys × Nat))
  | [] => some (s, [])
  | (a, n) :: as_ =>
    match s.asPhys pid asid a acc with
    | .error _ => none
    | .ok (s, p) => if p.kind = 3 || p.kind = 4 then none else (s.peerPhys pid asid acc as_).map fun r => (r.1, (p, n) :: r.2)

/-- A request over the parts of its bytes. -/
def State.peerParts (s : State) (op : PeerOp) (ps : List (Phys × Nat)) : State × RemoteReply :=
  match op, ps with
  | _, [(p, _)] => s.peerDo p op
  | .read _, [(p, n), (q, m)] =>
    let a := s.edgeRead p.key n
    let b := a.1.edgeRead q.key m
    (b.1, if a.2.2 || b.2.2 then .poisoned else .data (BitVec.ofNat 512 (bytesNat (a.2.1 ++ b.2.1))))
  | .write d, [(p, n), (q, _)] => ((s.edgeStore p.key (d.take n)).edgeStore q.key (d.drop n), .data 0)
  | _, _ => (s, .targetFault)

/-- A request whose key admits it; a write that completes adds its bytes to the key's counter. -/
def State.peerServe (s : State) (k : KeyEnt) (va : Word) (op : PeerOp) : State × RemoteReply :=
  let acc : Access := match op with | .read _ => .read | .write _ => .write | .atomic _ _ _ _ _ => .atomic
  match s.keyPid k.asid with
  | none => (s, .targetFault)
  | some pid =>
    match s.peerPhys pid k.asid acc (pageParts va (peerBytes op)) with
    | none => (s, .targetFault)
    | some (s, ps) =>
      let r := s.peerParts op ps
      match op with
      | .write d => (if k.ctr = 0 || r.2 = .targetFault then r.1 else r.1.devAddOrWait pid k.asid (s.streamCluster pid) k.ctr d.length { asid := k.asid } 0, r.2)
      | _ => r

/-- UALINK_INBOUND_REQUEST (R420, R422): from a fenced device it is refused without an answer. -/
def execUalinkInboundRequest (s : State) : Out :=
  match s.ev with
  | some (.ualinkInboundRequest dev key va op) =>
    if s.pod.fenced.getLsbD dev.toNat then .next s
    else
      let r := match s.keyEnt key with
        | none => (s, RemoteReply.key)
        | some k => if k.admits va op then s.peerServe k va op else (s, .key)
      .next { r.1 with peerReplies := r.1.peerReplies.concat (dev, key, va, r.2) }
  | _ => .next s

/-- A reply that names the entry of a handle as POISONED with REMOTE.peer-lost (R296, DESIGN CHOICE, assumption 12). What the fenced
device's table holds beside, an FSTAT cannot learn: its count, SPILLED and LIVE are free values. -/
def lostReply (h : Word) (n : Nat) : BitVec 512 :=
  let f : Fut := { slot := 0, ent := hEnt h, gen := hGen h, st := .poisoned, val := 0x160
                   refs := (Config.freeWord n).extractLsb' 0 32, live := (Config.freeWord n).getLsbD 32 }
  futReply f ((Config.freeWord n).getLsbD 33) false

/-- The request takes the loss of its device: a question to its future tables finds the entry POISONED (R296, R422). -/
def OutReq.lose (o : OutReq) (d : BitVec 10) (n : Nat) : OutReq :=
  if o.dev == some d && o.reply.isNone then (if o.fut then { o with reply := some (.data (lostReply o.va n)) } else { o with lost := true }) else o

/-- PEER_FENCE (R296, R323, R422). -/
def execPeerFence (s : State) : Out :=
  match s.ev with
  | some (.peerFence d) =>
    let s : State := { s with
      pod := { s.pod with fenced := s.pod.fenced ||| BitVec.ofNat 1024 (2 ^ d.toNat) }, outs := s.outs.map (fun (o : OutReq) => o.lose d s.freeCount)
      freeCount := s.freeCount + 1 }
    let s := (s.report { pRecord 0x13 3 5 with port := BitVec.ofNat 7 (Config.peerPort d % 24), detail := d.setWidth 64 }).collPeerLost d
    let ts := s.allTasks.filter fun t => t.st == .parked && t.parkCause == 0x0AA && hDev t.parkArg == d && d != s.deviceId
    let asked (t : Task) (n : Nat) : OutReq :=
      { tid := t.tid, dev := some d, va := t.parkArg, n := n, reply := some (.data (lostReply t.parkArg s.freeCount)), seq := t.retired, fut := true }
    let s := { s with outs := s.outs ++ ts.flatMap fun (t : Task) => [asked t 0, asked t 1, asked t 5], freeCount := s.freeCount + 1 }
    .next (s.wakeHead ((ts.filter fun t => !s.isReady t).map Task.tid))
  | _ => .next s

/-- FENCED_CLEAR (R422). -/
def execFencedClear (s : State) : Out :=
  match s.ev with
  | some (.fencedClear n m) =>
    .next { s with pod := { s.pod with fenced := s.pod.fenced &&& ~~~(m.setWidth 1024 <<< (64 * n.toNat)) } }
  | _ => .next s

end Sys2Proof.Machine
end

