-- ==== Sys2Proof/Machine/Partition.lean ====
section
/-!
DEFINITION. Partitions: their record and its checks, start and stop (R42, R55, R366, R423, R424), the loss of an engine of the base
die (R406), and partition context switches and restores (R367, R371, R372).
-/

namespace Sys2Proof.Machine

/-! ### Stopping (R366, R424) -/

/-- Tasks of a partition. -/
def State.tasksIn (s : State) (pid : BitVec 2) : List Task := s.allTasks.filter fun t => t.pid == pid && t.tid != 0

/-- The command streams of a partition enter STOPPED, and say so (R56). -/
def State.stopStreams (s : State) (pid : BitVec 2) : State :=
  two.foldl (fun s n =>
    if (s.strm pid n).desc.enable then
      ((s.onStream pid n fun x => { x with st := .stopped }).writeStatus pid n).onStream pid n fun x => { x with st := .stopped, owed := false }
    else s) s

/-- Streams whose partition has stopped hold nothing. -/
def State.emptyStreams (s : State) (pid : BitVec 2) : State :=
  s.onPart pid fun p => { p with streams := p.streams.map fun x => { x with waiting := none, tasks := [], copies := [], count := none, skip := 0, hold := none, loopReg := 0 } }

/-- The lines of a partition's cores are written back, U lines combined, and its TLB entries dropped (R206, R367, R424). -/
def State.flushPart (s : State) (pid : BitVec 2) : State :=
  let s := s.combineAll fun k => s.inPart pid k.id
  let s := (s.allCores.filter fun k => s.inPart pid k.id).foldl (fun s k => k.l1d.foldl (fun s l => s.evictL1 k.id l) s) s
  s.tlbinv pid .all

/-- The cores of a partition hold nothing of its tasks. -/
def State.emptyCores (s : State) (pid : BitVec 2) : State :=
  let ks := s.allCores.filter fun k => s.inPart pid k.id
  let s := s.giveCoreRooms ks
  ks.foldl (fun s k => s.onCoreId k.id fun k =>
    { k with deque := [], blocks := [], prep := [], leader := none, members := [], followAt := none, boundary := false, qlog := []
             detReqs := [], retiredDet := 0 }) s

/-- What the clusters hold of a partition's engines and internal accesses goes. -/
def State.emptyClusters (s : State) (pid : BitVec 2) : State :=
  { s with clusters := s.clusters.map fun (c : Cluster) =>
      { c with ops := c.ops.filter fun o => o.pid != pid, intAcc := c.intAcc.filter fun a => a.1 != pid, pend := c.pend.filter fun p => p.pid != pid } }

/-- Watch entries of a partition leave the slices. (DEDUCED, assumption 54) -/
def State.emptyWatch (s : State) (pid : BitVec 2) : State :=
  { s with slices := s.slices.map fun (sl : Slice) => { sl with watch := sl.watch.filter fun w => w.pid != pid, marks := sl.marks.filter fun m => m.2.pid != pid } }

/-- The partition is empty and no longer runs. -/
def State.endRun (s : State) (pid : BitVec 2) : State :=
  let s := (s.unwait (.partitionStop pid)).unwait (.rootControllerContextSwitch pid)
  { s with colls := s.colls.filter fun c => c.pid != pid }.onPart pid fun p =>
    { p with run := false, preempt := false, stopping := false, saveTo := none, spRuns := [], ctxRuns := [], detMem := none, detFuts := [], detLines := [] }

/-- STOP, once every core has acknowledged it: every task is gone without retirement, poisoning or done-counter adds, its tiles are
freed without drains, and its staged lines are discarded (R424). -/
def State.stopNow (s : State) (pid : BitVec 2) : State :=
  let ts := s.tasksIn pid
  let s := (s.stopStreams pid).emptyStreams pid
  let s := ts.foldl (fun s t => s.freeTiles t.cl t.tid) s
  let s := ((s.emptyCores pid).emptyClusters pid).emptyWatch pid
  let s := ts.foldl (fun s t => s.gone t.tid) s
  (s.flushPart pid).endRun pid

/-- A stop is asked for (R365, R366). -/
def State.askStop (s : State) (pid : BitVec 2) : State := s.onPart pid fun p => { p with preempt := true, stopping := true }

/-- PARTITION_STOP (R424). -/
def execPartitionStop (s : State) : Out :=
  match s.ev with
  | some (.partitionStop pid) =>
    if !(s.part pid).run then .next (s.unwait (.partitionStop pid))
    else
      let s := s.askStop pid
      .next (if s.quiet pid then s.stopNow pid else s.wait (.partitionStop pid))
  | _ => .next s

/-- PARTITION_RESTART (R424): a stop, and a start once it has ended. -/
def execPartitionRestart (s : State) : Out :=
  match s.ev with
  | some (.partitionRestart pid) =>
    let e : Ev := .partitionRestart pid
    if !(s.part pid).run then .next ((s.unwait e).push (.partitionStart pid))
    else
      let s := s.askStop pid
      .next (if s.quiet pid then ((s.stopNow pid).unwait e).push (.partitionStart pid) else s.wait e)
  | _ => .next s

/-- Where a base-die engine stands in a record (R394). -/
def engineUnit : BaseEngine → BitVec 4 | .marionette => 8 | .root => 9 | _ => 7

/-- A partition whose engine is lost: every task is killed, its future poisoned, and nothing is added to its done counter (R406). -/
def State.killPart (s : State) (pid : BitVec 2) : State :=
  let ts := (s.tasksIn pid).map Task.tid
  let s := ts.foldl (fun s t => (s.killRecord (s.getTask t) 0x17B).pullOff t) s
  let s := ts.foldl (fun s t => s.loseTask t 0x17B false) s
  (s.stopNow pid).onPart pid fun p => { p with cause := 0x17B, va := 0 }

/-- ENGINE_WATCHDOG_TIMEOUT (R406). -/
def execEngineWatchdogTimeout (s : State) : Out :=
  match s.ev with
  | some (.engineWatchdogTimeout e pids) =>
    let ps := two.filter fun p => pids.getLsbD p.toNat && (s.part p).run
    let n := (ps.map fun p => (s.tasksIn p).length).sum
    let s := ps.foldl (fun s p => s.killPart p) s
    .next (s.report { pRecord 0x12 3 (engineUnit e) with detail := (0 : BitVec 32) ++ BitVec.ofNat 16 n ++ (0x17B : BitVec 16) })
  | _ => .next s

/-! ### The partition record (R42, R55, R423) -/

/-- n bytes of HBM for the root controller. -/
def State.hbmRead (s : State) (pa n : Nat) : State × Nat :=
  let s := (linesOf pa n).foldl (fun s l => s.combine l) s
  (s, s.mem.read pa n)

/-- A partition record: 512 bytes. -/
structure PartRec where
  bytes : Nat
  deriving DecidableEq, Repr

def PartRec.dw (r : PartRec) (off : Nat) : Nat := fld r.bytes (8 * off) 64
def PartRec.role (r : PartRec) (l : BitVec 2) : Nat := fld (r.dw 16) (4 * l.toNat) 2
def PartRec.clock (r : PartRec) (l : BitVec 2) : Bool := fld (r.dw 16) (4 * l.toNat + 2) 1 = 1
def PartRec.cells (r : PartRec) : BitVec 1536 := BitVec.ofNat 1536 (r.bytes / 2 ^ (8 * 224))
def PartRec.nstream (r : PartRec) : Nat := fld (r.dw 0) 40 4
def PartRec.init (r : PartRec) (idx : Nat) : Word := BitVec.ofNat 64 (r.dw (104 + 8 * (idx - 0x100)))
def PartRec.sysasid (r : PartRec) : BitVec 16 := BitVec.ofNat 16 (r.dw 0 / 2 ^ 48)
def PartRec.scratchw (r : PartRec) : Nat := fld (r.dw 0) 32 7

/-- An aligned PA in HBM. -/
def hbmOk (a align : Nat) : Bool := a % align == 0 && decide (a < 2 ^ 39)

/-- The layer of a CELLS bit. -/
def bitLayer (i : Nat) : BitVec 2 := BitVec.ofNat 2 (i / 384)

/-- No CELLS bit names a harvested cell, a cell of another running partition, or a cell outside the COMPUTE layers. -/
def State.cellsOk (s : State) (pid : BitVec 2) (r : PartRec) : Bool :=
  r.cells &&& s.harvested == 0 && (two.all fun p => p == pid || !(s.part p).run || r.cells &&& (s.part p).cells == 0) &&
    (List.range 1536).all fun i => !r.cells.getLsbD i || r.role (bitLayer i) == 0

/-- The system-level register indices that SYSINIT gives. -/
def initRegs : List Nat := (List.range 15).map (0x100 + ·)

/-- Fields of a record in order, each with its offset and whether it is good (R423). The offset of a field is its doubleword's. -/
def State.recordChecks (s : State) (pid : BitVec 2) (r : PartRec) : List (Nat × Bool) :=
  let w := r.dw 0
  let g := fld (r.dw 8) 0 32
  [(0, fld w 44 4 == 0 && fld w 39 1 == 0 && fld w 17 15 == 0 && fld w 14 2 == 0 && fld w 2 6 == 0 && fld w 0 2 == pid.toNat &&
      decide (1 ≤ r.nstream) && decide (r.nstream ≤ 4) && decide (r.scratchw ≤ 24)),
   (8, fld (r.dw 8) 32 32 == 0 && (g == 0 || (decide (256 ≤ g) && decide (g ≤ 65536)))),
   (16, fld (r.dw 16) 16 48 == 0 && (two.all fun l => decide (r.role l ≤ 2) && fld (r.dw 16) (4 * l.toNat + 3) 1 == 0) && two.any fun l => r.role l == 0),
   (24, hbmOk (r.dw 24) 4096), (32, hbmOk (r.dw 32) 4096), (40, decide (r.dw 32 + r.dw 40 ≤ 2 ^ 39)), (48, hbmOk (r.dw 48) 4096),
   (56, decide (r.dw 48 + r.dw 56 ≤ 2 ^ 39))] ++
  ((List.range 4).map fun i => (64 + 8 * i, if i < r.nstream then hbmOk (r.dw (64 + 8 * i)) 64 else r.dw (64 + 8 * i) == 0)) ++
  [(96, hbmOk (r.dw 96) 8)] ++
  (initRegs.map fun i => (104 + 8 * (i - 0x100), r.init i == 0 || sysValueOk i (r.init i &&& sysMask i))) ++
  [(224, s.cellsOk pid r && r.cells != 0), (416, r.bytes / 2 ^ (8 * 416) % 2 ^ 768 == 0)]

/-- A stream descriptor from its 64 bytes. -/
def descOf (x : Nat) : StreamDesc :=
  let w (i : Nat) : Word := BitVec.ofNat 64 (x / 2 ^ (64 * i))
  { base := w 0, submit := w 1, consumed := w 2, status := w 3, resume := w 4, asid := BitVec.ofNat 16 (x / 2 ^ 320), log2n := fld x 336 8
    enable := fld x 344 1 = 1, roleOk := fld x 345 1 = 1 }

/-- The checks of a descriptor, by offset (R42). (DEDUCED, assumption 53) -/
def descChecks (x : Nat) : List (Nat × Bool) :=
  let d := descOf x
  [(0, d.base.toNat % 4096 == 0), (8, d.submit.toNat % 8 == 0), (16, d.consumed.toNat % 8 == 0), (24, d.status.toNat % 64 == 0),
   (32, d.resume.toNat % 8 == 0), (42, decide (6 ≤ d.log2n) && decide (d.log2n ≤ 16)), (43, fld x 346 6 == 0), (44, fld x 352 160 == 0)]

/-- The first field that fails. -/
def firstBad (base : Nat) (l : List (Nat × Bool)) : Option Nat := (l.find? fun c => !c.2).map fun c => base + c.1

/-- Bytes at a VA of the system address space, over its pages. -/
def State.sysBytes (s : State) (pid : BitVec 2) (va : Word) (n : Nat) : Option Nat :=
  (pageParts va n).foldr (fun q acc =>
    match acc, s.sysRead pid q.1 q.2 with
    | some x, .ok r => some (r.2 + 2 ^ (8 * q.2) * x)
    | _, _ => none) (some 0)

/-- What step 1 of R424 refuses: the PA of the first field that fails. The partition already has the record's tables. -/
def State.startCause (s : State) (pid : BitVec 2) (r : PartRec) : Option Nat :=
  let prec := (s.part pid).prec.toNat
  match firstBad prec (s.recordChecks pid r) with
  | some a => some a
  | none =>
    let tab := r.init 0x107 &&& sysMask 0x107
    let badTab : Bool := tab != 0 && match s.sysBytes pid tab 256 with | some x => (s.loadClasses pid x).isNone | none => true
    if badTab then some (prec + 104 + 56)
    else
      match (List.range r.nstream).findSome? fun i => firstBad (r.dw (64 + 8 * i)) (descChecks (s.mem.read (r.dw (64 + 8 * i)) 64)) with
      | some a => some a
      | none => firstBad (r.dw 96) ((List.range 64).map fun i => (8 * i, queueWordOk (s.mem.word (r.dw 96 + 8 * i))))

/-- The roles and clocks that a record asks for. -/
def PartRec.roles (r : PartRec) : Vector Role 4 := Vector.ofFn fun i => roleOf (r.role (BitVec.ofNat 2 i.val))
def PartRec.slow (r : PartRec) : BitVec 4 := two.foldl (fun m l => if r.clock l then m ||| BitVec.ofNat 4 (2 ^ l.toNat) else m) 0

/-- Layers that a record changes. -/
def State.changedLayers (s : State) (r : PartRec) : List (BitVec 2) :=
  two.filter fun l => roleOf (r.role l) != s.role l || r.clock l != s.slow.getLsbD l.toNat

/-- The layers on which a record has a cell. -/
def PartRec.usesLayer (r : PartRec) (l : BitVec 2) : Bool := (List.range 384).any fun i => r.cells.getLsbD (384 * l.toNat + i)

/-- What step 2 of R424 refuses. -/
def State.layersCause (s : State) (pid : BitVec 2) (r : PartRec) : Option Cause :=
  let ls := s.changedLayers r
  let others := two.filter fun p => p != pid && (s.part p).run
  if !ls.isEmpty && !s.thermalOk r.roles r.slow then some 0x170
  else if ls.any fun l => others.any fun p => s.usesLayer p l then some 0x171
  else if others.any fun p => (s.part p).scratchw != r.scratchw && two.any fun l => s.usesLayer p l && r.usesLayer l then some 0x171
  else none

end Sys2Proof.Machine
end

