-- ==== Sys2Proof/Machine/Role.lean ====
section
/-!
DEFINITION. Layer role changes (R81 to R83): a layer drains, its futures are spilled, the caches are flushed, and the device is
enumerated anew.
-/

namespace Sys2Proof.Machine

/-! ### Throttling (R81) -/

/-- Sixteen times the draw when every COMPUTE layer issues on k cycles of 16. -/
def drawAt (roles : Vector Role 4) (slow : BitVec 4) (k : Nat) : Nat :=
  16 * 390 + (two.map fun l => match rd roles l with
    | .compute => k * if slow.getLsbD l.toNat then 370 else 520
    | .memory => 16 * 45
    | .off => 16 * 5).sum

/-- The largest k from 1 to 16 that stays within the limit; 1 where none does. -/
def throttleOf (roles : Vector Role 4) (slow : BitVec 4) (limit : Nat) : Nat :=
  (((List.range 16).map fun i => 16 - i).find? fun k => drawAt roles slow k ≤ 16 * limit).getD 1

/-- The throttle that the running roles and the limit require. -/
def State.setThrottle (s : State) : State := { s with throttle := throttleOf s.roles s.slow s.limit }

/-! ### Tasks that leave their core for the partition context area (R82, R254, R367) -/

/-- Bytes of a task's context and of its staged-line image beside it, in whole lines (R254). -/
def evictBytes (x : Task) : Nat := contextBytes + (72 * x.staged.length + 63) / 64 * 64

/-- The matrix state of a task with its bytes, and the commands that its context keeps as words: from its core's unit, or from where it
lies already. -/
def State.matrixOf (s : State) (x : Task) : State × Option (Matrix × List MCmd) :=
  let m := (s.getCore x.core).mx
  if m.bound = x.tid then (s, some ({ m.kept with img := m.claimed }, m.queue))
  else
    match x.mctx with
    | none => (s, none)
    | some m =>
      let r := s.readImage x.cl x.pid x.mxAway m
      (r.1, some ({ m with img := r.2 }, x.reissue))

/-- A parked task leaves its core: its context with its spill entries, its matrix state and its staged lines go to the partition context
area, or into an image of the partition. `none` where the area has no room. The manual gives no layout of what lies in the area but of a
spill image and of a matrix image. (DESIGN CHOICE, assumption 32) -/
def State.offCore (s : State) (t : BitVec 32) (area : Bool) : Option State :=
  match s.findTask t with
  | none => some s
  | some x0 =>
    let x := if x0.slot.isSome then s.imageSpill x0 else x0
    let (s, mx) := s.matrixOf x0
    let take (s : State) (need : Bool) (n : Nat) : Option (State × Room) :=
      if !need then some (s, .core) else if area then s.takeCtx x.pid n else some (s, .image)
    do
      let (s, r) ← take s true (evictBytes x)
      let (s, ri) ← take s (!x.spill.isEmpty) 4096
      let (s, rm) ← take s mx.isSome matrixBytes
      let s := (s.fillRoom x.cl x.pid r (evictBytes x)).writeRoom x.cl x.pid ri 0 (64 * x.spill.length) (imageNat x.spill)
      let s := match mx with | some m => s.writeImage x.cl x.pid rm m.1 | none => s
      let s := (s.giveTaskRoom x0).putTask { x with
        slot := none, away := r, imgAway := ri, mxAway := rm, stagedCore := none, reissue := (mx.map Prod.snd).getD x.reissue
        mctx := mx.map fun m => if area then { m.1 with img := {} } else m.1 }
      return s.onCoreId x.core fun k =>
        { k with slots := k.slots.map fun y => if y = t then 0 else y, mx := if k.mx.bound = t then k.mx.unbind else k.mx }

/-- The bytes of a tile, at the same frames of another cluster; they pass through the partition context area. -/
def State.moveFrames (s : State) (pid : BitVec 2) (a b : BitVec 8) (y : Tile) : Option State :=
  let n := 4096 * y.frames
  let lo := cmKey a (4096 * y.frame)
  let hi := cmKey b (4096 * y.frame)
  let bad := (linesOf lo n).filter fun l => s.localPoison.contains (localLine 0 (64 * l))
  let bs := (List.range n).map fun i => s.cm.get (lo + i)
  (s.takeCtx pid n).map fun r =>
    let s := (r.1.onRoom a pid r.2 0 n fun m k => m.putBytes k bs).giveRoom a pid r.2
    { s with cm := s.cm.putBytes hi bs, localPoison := s.localPoison ++ bad.map fun l => localLine 0 (64 * l - lo + hi) }

/-- Tiles of a task. -/
def State.tilesOf (s : State) (x : Task) : List Tile := (s.getCluster x.cl).tiles.filter fun y => y.owner == x.tid

/-- The frames of tiles are free in a cluster. -/
def State.framesFree (s : State) (cl : BitVec 8) (ys : List Tile) : Bool :=
  ys.all fun y => (List.range y.frames).all fun i => (s.getCluster cl).freeFrame (y.frame + i)

/-- An evicted task belongs to another cluster, with its tiles READY at the frames that its tile ids name, and stands in its ready queue
if it is parked; what waits to wake it still names it. (DEDUCED, assumption 27) -/
def State.moveTask (s : State) (x : Task) (to_ : BitVec 8) : Option State :=
  let ys := s.tilesOf x
  (ys.foldlM (fun (s : State) y => s.moveFrames x.pid x.cl to_ y) s).map fun s =>
    let os := (s.getCluster x.cl).ops.filter fun o => o.tid == x.tid
    let s := s.onCluster x.cl fun c =>
      { c with tiles := c.tiles.filter fun y => y.owner != x.tid, ops := c.ops.filter fun o => o.tid != x.tid, ready := c.ready.filter fun t => t != x.tid }
    let s := s.onCluster to_ fun c => { c with tiles := c.tiles ++ ys, ops := c.ops ++ os }
    let s := (s.rehomeCapsule x to_).onTask x.tid fun x => { x with cl := to_, core := (s.partCores x.pid to_).headD x.core }
    if x.st = .parked then s.wakeTail x.tid else s

/-! ### Draining (R82, steps 1 and 2) -/

/-- A core of a layer. -/
def onLayer (l : BitVec 2) (k : Core) : Bool := layerOf (clusterOf k.id) == l

/-- Unstarted records of a core go back to Prism, top first. A claimed one in preparation gives its tiles back and goes too
(DESIGN CHOICE, assumption 88: the rule does not name it). -/
def State.sendBackCore (s : State) (pid : BitVec 2) (k : Core) : State :=
  let rs := (k.deque ++ k.blocks.flatMap Prod.fst).reverse
  let s := k.blocks.foldl (fun s b => s.giveRoom (clusterOf k.id) pid b.2) s
  let s := s.onCoreId k.id fun k => { k with deque := [], blocks := [], prep := [] }
  let s := k.prep.foldl (fun s t => (s.freeTiles (clusterOf k.id) t).onTask t fun x => { x with st := .queued }) s
  (rs ++ k.prep).foldl (fun s t => s.placeRecord t (s.prismChoice pid).1) s

/-- Those of a cluster that wait for room or for a future go elsewhere too. -/
def State.sendBackCluster (s : State) (pid : BitVec 2) (c : Cluster) : State :=
  let s := s.onCluster c.id fun c => { c with held := [], launchWait := [] }
  let s := c.held.foldl (fun s h => s.placeRecord h.1 (s.prismChoice pid).1) s
  c.launchWait.foldl (fun s t => s.prismPlace t (s.prismChoice pid).1) s

def State.sendBack (s : State) (pid l : BitVec 2) : State :=
  let ks := (s.allCores.filter (onLayer l)).foldl (fun acc k => putBy Core.key k acc) []
  let s := ks.foldl (fun s k => s.sendBackCore pid k) s
  (s.clusters.filter fun c => layerOf c.id == l).foldl (fun s c => s.sendBackCluster pid c) s

/-- A parked task of the layer may be evicted now: its fills and drains are done, and its matrix queue has run out. -/
def State.evictable (s : State) (x : Task) : Bool :=
  let m := (s.getCore x.core).mx
  (x.st == .parked || x.st == .fault || x.st == .trapped) && (s.tilesOf x).all (fun y => y.st == .ready) &&
    ((s.getCluster x.cl).ops.all fun o => o.tid != x.tid || (o.ended && o.paused.isNone)) &&
    (m.bound != x.tid || m.queue.isEmpty || m.held.isSome)

/-- Where Prism places it: its own choice, or the first cluster where its frames are free. -/
def State.evictTo (s : State) (x : Task) : Option (BitVec 8) :=
  let c := (s.prismChoice x.pid).1
  (c :: (s.partClusters x.pid).filter fun c => s.role (layerOf c) == .compute && !s.drains.getLsbD (layerOf c).toNat).find? fun c =>
    layerOf c != layerOf x.cl && s.framesFree c (s.tilesOf x)

/-- Tasks that stand on a layer: all but records of launch queues. -/
def State.layerTasks (s : State) (l : BitVec 2) : List Task := s.allTasks.filter fun t => layerOf t.cl == l && t.tid != 0 && !s.inLaunchQueue t

/-- The parked tasks of a layer are evicted. -/
def State.evictLayer (s : State) (l : BitVec 2) : State :=
  ((s.layerTasks l).filter s.evictable).foldl (fun s x =>
    match s.evictTo x with
    | some c => ((s.offCore x.tid true).bind fun t => t.moveTask x c).getD s
    | none => s) s

/-- Nothing of any task is left on a layer. -/
def State.layerQuiet (s : State) (l : BitVec 2) : Bool :=
  (s.layerTasks l).isEmpty && (s.allCores.all fun k => !onLayer l k || k.running == 0) &&
    s.clusters.all fun c => layerOf c.id != l || (c.tiles.isEmpty && c.ops.isEmpty)

/-! ### Futures (R82, step 3; R83) -/

/-- The change waits for room in the future spill area: one record says so (R289). Its TVAL is not stated: a free value. -/
def State.reportFull (s : State) (cl : BitVec 8) (f : Fut) : State :=
  if s.drainFull then s
  else
    let w := s.freshWord
    { w.1 with drainFull := true }.reportRecord f.pid {} cl 0x0A9 w.2 (handleOf s.deviceId cl f.ent f.gen) 0

/-- Every entry of the layer's tables goes to the spill area, in cluster and entry order; false where one could not yet.
(DEDUCED, assumption 28) -/
def State.spillLayer (s : State) (l : BitVec 2) : State × Bool :=
  let cs := s.clusters.filter fun c => layerOf c.id == l
  let es := cs.flatMap fun c => (c.futs.foldl (fun acc f => putBy (fun (f : Fut) => f.ent.toNat) f acc) []).map fun f => (c.id, f)
  es.foldl (fun (a : State × Bool) e =>
    if !a.2 then a
    else
      match a.1.spillFut e.1 e.2 true with
      | (s, .ok) => (s, true)
      | (s, .full) => (s.reportFull e.1 e.2, false)
      | (s, .wait) => (s, false)) (s, true)

/-- Entries of the layer that the spill area of a partition holds already: cluster, entry and generation. -/
def State.spilledOn (s : State) (pid l : BitVec 2) : List (BitVec 8 × BitVec 9 × BitVec 16) :=
  if s.hasSpill pid then
    (List.range (2 ^ areaLog (s.part pid).regs.fspill)).filterMap fun i =>
      match s.sysRead pid (s.recVa pid i) 32 with
      | .ok (_, x) =>
        if fld x 127 1 = 1 && fld x 114 2 = l.toNat then some (BitVec.ofNat 8 (fld x 108 8), BitVec.ofNat 9 (fld x 99 9), BitVec.ofNat 16 (fld x 83 16)) else none
      | .error _ => none
  else []

/-- The schedulers of a layer keep every entry that is still allocated. -/
def State.keepSpilled (s : State) (l : BitVec 2) : State :=
  (two.flatMap fun p => s.spilledOn p l).foldl (fun s e =>
    s.onCluster e.1 fun c => if c.kept.any fun k => k.1 == e.2.1 && k.2.1 == e.2.2 then c else { c with kept := c.kept.concat (e.2.1, e.2.2, []) }) s

/-! ### Flush and enumeration (R82, steps 4 and 5) -/

/-- Every cache gives up its lines and every TLB its entries. -/
def State.flushAll (s : State) : State :=
  let s := s.combineAll fun _ => true
  let core (k : Core) : Core := { k with l1d := [], tlb := [] }
  { s with
    core := core s.core, cores := s.cores.map core
    clusters := s.clusters.map fun (c : Cluster) => { c with tlb := [] }
    slices := s.slices.map fun (sl : Slice) => { sl with lines := [], samples := [], tlb := [], pins := [] } }

/-- A watch entry enters the table of its counter's home, else its partition's watch area. -/
def State.placeWatch (s : State) (w : Watch) : State :=
  let id := s.homeSlice (w.key / 64)
  let sl := s.getSlice id
  let sl := { sl with arrivals := if sl.arrivals ≤ w.arrival then w.arrival + 1 else sl.arrivals }
  let tab : State := s.putSlice { sl with watch := sl.watch.concat w }
  if sl.watch.length < 256 then tab
  else
    let used := s.watchUsed w.pid
    let i := ((List.range (used.length + 1)).find? fun i => !used.contains i).getD used.length
    match s.sysWrite w.pid (s.watchVa w.pid i) 128 (watchBytes w) with
    | .ok t => t.putSlice { sl with marks := sl.marks.concat (i, w) }
    | .error _ => tab

/-- Step 4: the entries of a slice's table go to their partitions' watch areas, where these have room. -/
def State.unloadWatch (s : State) (id : BitVec 6) : State :=
  (s.getSlice id).watch.foldl (fun s w =>
    let used := s.watchUsed w.pid
    let r := (s.part w.pid).regs.watcharea
    let i := ((List.range (used.length + 1)).find? fun i => !used.contains i).getD used.length
    if areaBase r = 0 || 2 ^ areaLog r ≤ i then s
    else
      match s.sysWrite w.pid (s.watchVa w.pid i) 128 (watchBytes w) with
      | .ok t => t.onSlice id fun sl => { sl with watch := sl.watch.filter fun x => x != w, marks := sl.marks.concat (i, w) }
      | .error _ => s) s

/-- Step 5: an entry of a watch area comes into the table of its counter's home, or stays where that is full. -/
def State.reloadWatch (s : State) (m : Nat × Watch) : State :=
  let id := s.homeSlice (m.2.key / 64)
  let stay (s : State) : State := s.onSlice id fun sl =>
    { sl with marks := sl.marks.concat m, arrivals := if sl.arrivals ≤ m.2.arrival then m.2.arrival + 1 else sl.arrivals }
  if 256 ≤ (s.getSlice id).watch.length then stay s
  else
    match s.sysWrite m.2.pid (s.watchVa m.2.pid m.1) 128 0 with
    | .ok t => t.placeWatch m.2
    | .error _ => stay s

/-- Watch entries stand in their homes again, by way of the watch areas (R82, R310). -/
def State.rehashWatch (s : State) : State :=
  let s := (s.slices.map Slice.id).foldl State.unloadWatch s
  let ws := s.slices.flatMap Slice.watch
  let ms := s.slices.flatMap Slice.marks
  let s : State := { s with slices := s.slices.map fun (sl : Slice) => { sl with watch := [], marks := [] } }
  let s := ws.foldl (fun s w => s.placeWatch w) s
  ms.foldl (fun s m => s.reloadWatch m) s

/-- The leases of tiles are pinned in their banks again (R225). -/
def State.repin (s : State) : State :=
  (s.clusters.flatMap fun (c : Cluster) => c.tiles.flatMap fun (y : Tile) => y.leases.map fun (l : Lease) => (y.asid, l)).foldl (fun s e =>
    s.onSlice (s.l3Bank e.1 (e.2.va * 65536)) fun sl =>
      { sl with pins := match sl.pins.find? fun p => p.1 == e.2.ent with
          | some p => (e.2.ent, p.2 + 1) :: sl.pins.filter fun x => x.1 != e.2.ent
          | none => (e.2.ent, 1) :: sl.pins }) s

/-- Key ranges of what a layer stores: its window or slice scratch, and the local stores of its clusters. -/
def windowOf (l : BitVec 2) : Nat × Nat := (2 ^ 52 + 2 ^ 30 * l.toNat, 2 ^ 52 + 2 ^ 30 * (l.toNat + 1))
def scratchOf (l : BitVec 2) : Nat × Nat := (2 * 2 ^ 52 + 2 ^ 30 * l.toNat, 2 * 2 ^ 52 + 2 ^ 30 * l.toNat + 2 ^ 28)

/-- What a layer stores is undefined after its role has changed. (DEDUCED, assumption 56) -/
def State.loseLayer (s : State) (l : BitVec 2) : State :=
  let n := s.freeCount
  let w := windowOf l
  let x := scratchOf l
  let cl : Nat := 64 * l.toNat
  let in_ (line : Nat) : Bool := (w.1 / 64 ≤ line && line < w.2 / 64) || (x.1 / 64 ≤ line && line < x.2 / 64)
  let loc (line : Nat) : Bool :=
    let a := line % 2 ^ 40 * 64
    (match line / 2 ^ 40 with | 0 => a / 2 ^ 29 | 1 => a / 2 ^ 28 | _ => a / 2 ^ 24) == l.toNat
  { s with
    freeCount := n + 4
    mem := (s.mem.forget w.1 w.2 n).forget x.1 x.2 (n + 1)
    cm := s.cm.forget (2 ^ 23 * cl) (2 ^ 23 * (cl + 64)) (n + 2)
    sp := s.sp.forget (cl * 32 * 2 ^ 17) ((cl + 64) * 32 * 2 ^ 17) (n + 3)
    ls := s.ls.forget (cl * 32 * 2 ^ 13) ((cl + 64) * 32 * 2 ^ 13) (n + 3)
    poison := s.poison.filter fun x => !in_ x, latent := s.latent.filter fun x => !in_ x
    localPoison := s.localPoison.filter fun x => !loc x, localLatent := s.localLatent.filter fun x => !loc x }

/-- Cores and clusters of a layer as its role begins. -/
def State.freshLayer (s : State) (l : BitVec 2) : State :=
  { s with
    core := if onLayer l s.core then { id := s.core.id } else s.core
    cores := s.cores.filter fun k => !onLayer l k
    clusters := s.clusters.map fun (c : Cluster) =>
      if layerOf c.id = l then { id := c.id, gens := c.gens, kept := c.kept, futs := c.futs, intAcc := c.intAcc } else c }

/-- Schedulers that still serve spilled entries stand (R83). -/
def State.setStanding (s : State) (l : BitVec 2) : State :=
  { s with clusters := s.clusters.map fun (c : Cluster) =>
      if layerOf c.id = l then { c with standing := s.role l != .compute && !c.kept.isEmpty } else c }

/-- The device with new roles and clocks. -/
def State.reenumerate (s : State) (roles : Vector Role 4) (slow : BitVec 4) : State :=
  let ls := two.filter fun l => rd roles l != s.role l
  let s := { s.flushAll with roles := roles, slow := slow }
  let s := ls.foldl (fun s l => ((s.loseLayer l).freshLayer l).setStanding l) s
  s.rehashWatch.repin.setThrottle

/-- LAYERS for the running roles and clocks (R423). -/
def State.layersWord (s : State) : BitVec 16 :=
  two.foldl (fun w l => w ||| BitVec.ofNat 16 (((roleCode (s.role l)).toNat + if s.slow.getLsbD l.toNat then 4 else 0) * 2 ^ (4 * l.toNat))) 0

/-- CELLS bits of a layer that are not harvested. -/
def State.layerCells (s : State) (l : BitVec 2) : BitVec 1536 := BitVec.ofNat 1536 ((2 ^ 384 - 1) * 2 ^ (384 * l.toNat)) &&& ~~~s.harvested

/-- Every running partition's record says what has changed (R423). -/
def State.updateRecords (s : State) : State :=
  two.foldl (fun s p =>
    let q := s.part p
    let a := q.prec.toNat
    if q.run then
      let r := s.hbmRead (a + 224) 192
      let s := if q.layers = s.layersWord then r.1 else (r.1.onPart p fun q => { q with layers := s.layersWord }).hbmWrite (a + 16) 8 s.layersWord.toNat
      if r.2 = q.cells.toNat then s else s.hbmWrite (a + 224) 192 q.cells.toNat
    else s) s

/-- The class table of a partition reaches a cluster that has joined it. -/
def State.shareClasses (s : State) (pid l : BitVec 2) : State :=
  match (s.partClusters pid).find? fun c => layerOf c != l with
  | none => s
  | some src =>
    let k := s.getCluster src
    ((s.partClusters pid).filter fun c => layerOf c == l).foldl (fun s c => s.onCluster c fun c => { c with classTab := k.classTab, live := k.live }) s

/-- The cells of a partition after its layer's role has changed: those of a layer that leaves COMPUTE go, and those of a layer that
takes the role join. (DEDUCED, assumption 28) -/
def State.roleCells (s : State) (pid l : BitVec 2) (was : Role) : State :=
  if s.role l = was then s
  else if was = .compute then s.onPart pid fun p => { p with cells := p.cells &&& ~~~s.layerCells l }
  else if s.role l = .compute then (s.onPart pid fun p => { p with cells := p.cells ||| s.layerCells l }).shareClasses pid l
  else s

/-- The layer has its new role; the streams that wait for it go on by an event (R53). -/
def State.endRole (s : State) (pid l : BitVec 2) (r : BitVec 2) (clock : Bool) : State :=
  let s := { s with drains := 0, drainFull := false }.unwait (.layerRoleChange pid l r clock)
  two.foldl (fun s n =>
    match (s.strm pid n).waiting with
    | some (.cmdRole _ l' r' k' _) =>
      if l'.extractLsb' 0 2 = l && r'.extractLsb' 0 2 = r && (k' == 1) = clock then s.push (.roleChangeEnd pid n) else s
    | _ => s) (s.drawCheck pid)

/-- A ROLE that passed its checks when it issued fails them as its sequence begins, for another change came between (R11, R53): its
stream meets the refusal. -/
def State.refuseRole (s : State) (pid l r : BitVec 2) (clock : Bool) (c : Cause) : State :=
  two.foldl (fun s n =>
    match (s.strm pid n).waiting with
    | some (.cmdRole h l' r' k' _) =>
      if l'.extractLsb' 0 2 = l && r'.extractLsb' 0 2 = r && (k' == 1) = clock then s.failCmd pid n h.tag c else s
    | _ => s) (s.unwait (.layerRoleChange pid l r clock))

/-- An event is a role change. -/
def isRoleChange : Ev → Bool
  | .layerRoleChange _ _ _ _ => true
  | _ => false

/-- LAYER_ROLE_CHANGE (R82): one at a time; it goes on in every round until its steps are done. -/
def execLayerRoleChange (s : State) : Out :=
  match s.ev with
  | some (.layerRoleChange pid l r clock) =>
    let e : Ev := .layerRoleChange pid l r clock
    if !(s.part pid).run then .next (if s.waits.contains e then { s with drains := 0 }.unwait e else s)
    else
      let s := s.wait e
      if s.waits.find? isRoleChange ≠ some e then .next s
      else
        match (if s.drains = 0 then s.changeCause pid l (roleOf r.toNat) clock else none) with
        | some c => .next (s.refuseRole pid l r clock c)
        | none =>
          let s := { s with drains := BitVec.ofNat 4 (2 ^ l.toNat) }
          let s := (s.sendBack pid l).evictLayer l
          if !s.layerQuiet l then .next s
          else
            match s.spillLayer l with
            | (s, false) => .next s
            | (s, true) =>
              let a := s.rolesAfter l (roleOf r.toNat) clock
              .next (((((s.keepSpilled l).reenumerate a.1 a.2).roleCells pid l (s.role l)).updateRecords).endRole pid l r clock)
  | _ => .next s

end Sys2Proof.Machine
end

