-- ==== Sys2Proof/Machine/Start.lean ====
section
/-!
DEFINITION. The start of a partition (R424), and partition context switches and restores (R367, R371, R372).
-/

namespace Sys2Proof.Machine

/-! ### START (R424) -/

/-- The partition takes its record's fields. -/
def State.takeRecord (s : State) (pid : BitVec 2) (r : PartRec) : State :=
  s.onPart pid fun p => { p with
    sysasid := r.sysasid, nstream := r.nstream, scratchw := r.scratchw, collen := fld (r.dw 0) 16 1 = 1, nuddef := BitVec.ofNat 6 (fld (r.dw 0) 8 6)
    grace := fld (r.dw 8) 0 32, layers := BitVec.ofNat 16 (r.dw 16), astab := r.dw 24, ctxbase := r.dw 32, ctxsize := r.dw 40, spbase := r.dw 48
    spsize := r.dw 56, lqtab := r.dw 96, cells := r.cells }

/-- The reset value of a system-level register (R121). -/
def sysDefault (idx : Nat) : Word :=
  let r : SysRegs := {}
  match idx with
  | 0x100 => r.ftlimit
  | 0x104 => r.quant
  | 0x106 => r.maxmsg
  | 0x108 => r.adoptdly
  | 0x109 => r.tenscale
  | 0x10A => r.tencap
  | 0x10D => r.budgetmax
  | _ => 0

/-- SYSINIT (R423): each register takes its doubleword, or its reset value where that is 0; REDTREE in every core of the partition. -/
def State.loadSysInit (s : State) (pid : BitVec 2) (r : PartRec) : State :=
  let v (i : Nat) : Word := let x := r.init i &&& sysMask i; if r.init i = 0 then sysDefault i else x
  let s := s.onPart pid fun p => { p with regs := {} }
  let s := (initRegs.filter fun i => i != 0x107 && i != 0x10B).foldl (fun s i => s.writeSysReg pid i (v i)) s
  let cs := (s.partClusters pid).flatMap fun cl => s.partCores pid cl
  cs.foldl (fun s c => if (s.getCore c).redtree = v 0x10B then s else s.onCoreId c fun k => { k with redtree := v 0x10B }) s

/-- The class table where CLASSTAB is not 0 (R38); else no class accepts messages. -/
def State.loadClassInit (s : State) (pid : BitVec 2) (r : PartRec) : State :=
  let tab := r.init 0x107 &&& sysMask 0x107
  if tab = 0 then
    { s with clusters := s.clusters.map fun (c : Cluster) => if s.clusterInPart pid c.id then { c with classTab := Vector.replicate 16 {}, live := 0 } else c }
  else
    match s.sysBytes pid tab 256 with
    | none => s
    | some x => ((s.loadClasses pid x).getD s).onRegs pid fun q => { q with classtab := tab }

/-- Tables and deques of a partition start empty (R424). (DEDUCED, assumption 43) -/
def State.emptyTables (s : State) (pid : BitVec 2) : State :=
  let s := (s.emptyCores pid).emptyClusters pid
  { s with clusters := s.clusters.map fun (c : Cluster) => { c with futs := c.futs.filter fun f => f.pid != pid, launchWait := if s.clusterInPart pid c.id then [] else c.launchWait } }

/-- A stream of the partition as it starts: Marionette reads RESUME (R56). -/
def State.startStream (s : State) (pid n : BitVec 2) (r : PartRec) : State :=
  if r.nstream ≤ n.toNat then s.onStream pid n fun _ => {}
  else
    let x := s.hbmRead (r.dw (64 + 8 * n.toNat)) 64
    let d := descOf x.2
    let s := x.1.onStream pid n fun _ => { desc := d }
    if d.enable then (s.onStream pid n fun y => { y with st := .run, unread := true }).readResume pid n else s

/-- A refusal (R424). -/
def State.refuseStart (s : State) (pid : BitVec 2) (c : Cause) (va : Nat) : State :=
  s.onPart pid fun p => { p with cause := c, va := BitVec.ofNat 64 va }

/-- Steps 2 to 4 of R424. -/
def State.startPart (s : State) (pid : BitVec 2) (r : PartRec) : State :=
  let s := if (s.changedLayers r).isEmpty then s else (s.reenumerate r.roles r.slow).updateRecords
  let s := ((((s.takeRecord pid r).emptyTables pid).loadSysInit pid r).loadClassInit pid r)
  let s := s.onPart pid fun p => { p with
    queues := Vector.replicate 64 {}, x := seedOf p.regs.lotseed, quantum := 0, quantNow := p.regs.quant.toNat, trapSeq := 0, faultSeq := 0
    preempt := false, stopping := false, detLines := [], spRuns := [], ctxRuns := [], saveTo := none, run := true, cause := 0, va := 0 }
  let s := (s.loadQueues pid).detSnapshot pid
  two.foldl (fun s n => s.startStream pid n r) s

/-- PARTITION_START (R424): ignored while the partition runs. -/
def execPartitionStart (s : State) : Out :=
  match s.ev with
  | some (.partitionStart pid) =>
    if (s.part pid).run then .next s
    else
      let prec := (s.part pid).prec.toNat
      let x := s.hbmRead prec 512
      let r : PartRec := { bytes := x.2 }
      match (x.1.takeRecord pid r).startCause pid r with
      | some a => .next (x.1.refuseStart pid 0x16D a)
      | none =>
        match (x.1.takeRecord pid r).layersCause pid r with
        | some c => .next (x.1.refuseStart pid c (prec + 16))
        | none => .next (x.1.startPart pid r)
  | _ => .next s

/-! ### Context switches (R367, R371) -/

/-- What a switch waits for: every core has acknowledged, engines are done or paused, and nothing of a parked task is outstanding. -/
def State.switchReady (s : State) (pid : BitVec 2) : Bool :=
  let mine (t : BitVec 32) : Bool := (s.getTask t).pid == pid
  s.quiet pid && (s.colls.all fun c => c.pid != pid || c.finished) &&
    (s.clusters.all fun c => (c.ops.all fun o => o.pid != pid || o.ended || o.paused.isSome) &&
      c.tiles.all fun y => !mine y.owner || y.st == .ready || !y.paused.isEmpty) &&
    (s.outs.all fun o => !mine o.tid || o.reply.isSome || o.lost) && s.ats.all fun a => !mine a.tid || a.answer.isSome

/-- Size of an image in bytes: the header, and a body whose form the manual leaves to the device. -/
def imageSize (key : Nat) : Nat := 256 + Config.imageBody key

/-- The header of an image (R371). -/
def State.imageHeader (s : State) (pid : BitVec 2) (key : Nat) : Nat :=
  imageSize key + 2 ^ 64 * (Config.stepping.toNat + 2 ^ 16 * pid.toNat + 2 ^ 18 * s.deviceId.toNat) + 2 ^ 128 * (s.part pid).cells.toNat

/-- The bytes of an image. -/
def State.imageBytes (s : State) (pid : BitVec 2) (key : Nat) : List Byte :=
  (natBytes 256 (s.imageHeader pid key)) ++ (List.range (Config.imageBody key)).map (Config.imageByte key)

/-- Page parts of an area of an image. -/
def areaParts (va : Word) (n : Nat) : List (Word × Nat) := partsOf [(va, n)]

/-- An image is written to its area. -/
def State.saveImage (s : State) (pid : BitVec 2) (a : SaveArea) (bs : List Byte) : State :=
  if a.phys then s.edgeStore (s.part pid).ctxbase bs
  else
    (areaParts a.va bs.length).foldl (fun s q =>
      match s.asPhys pid a.asid q.1 .write with
      | .ok (s, p) =>
        let part := (bs.drop (q.1 - a.va).toNat).take q.2
        if p.kind = 3 || p.kind = 4 then s.sendBytes { cm := false, key := p.key, kind := p.kind, va := q.1 } part 0 else s.edgeStore p.key part
      | .error _ => s) s

/-- What a cluster holds of a partition. -/
def State.clusterImage (s : State) (pid : BitVec 2) (c : Cluster) : Cluster :=
  let mine (t : BitVec 32) : Bool := (s.getTask t).pid == pid
  { id := c.id, ready := c.ready.filter mine, futs := c.futs.filter fun f => f.pid == pid, tiles := c.tiles.filter fun y => mine y.owner
    ops := c.ops.filter fun o => o.pid == pid, pend := c.pend.filter fun p => p.pid == pid, held := c.held.filter fun h => mine h.1
    launchWait := c.launchWait.filter mine, intAcc := c.intAcc.filter fun a => a.1 == pid
    msgs := if s.clusterPid c.id = pid then c.msgs else [], live := c.live }

/-- The rest of it. -/
def State.clusterRest (s : State) (pid : BitVec 2) (c : Cluster) : Cluster :=
  let mine (t : BitVec 32) : Bool := (s.getTask t).pid == pid
  { c with
    ready := c.ready.filter fun t => !mine t, futs := c.futs.filter fun f => f.pid != pid, tiles := c.tiles.filter fun y => !mine y.owner
    ops := c.ops.filter fun o => o.pid != pid, pend := c.pend.filter fun p => p.pid != pid, held := c.held.filter fun h => !mine h.1
    launchWait := c.launchWait.filter fun t => !mine t, intAcc := c.intAcc.filter fun a => a.1 != pid
    msgs := if s.clusterPid c.id = pid then [] else c.msgs }

/-- What a core holds of its partition's deques and quanta. -/
def coreImage (k : Core) : Core :=
  { id := k.id, deque := k.deque, blocks := k.blocks.map fun b => (b.1, .image), prep := k.prep, boundary := k.boundary, detReqs := k.detReqs
    qlog := k.qlog.map fun l => { l with room := .image }, retiredDet := k.retiredDet }

/-- The image of a partition whose tasks have left their cores. (DEDUCED, assumption 55) -/
def State.imageOf (s : State) (pid : BitVec 2) (key : Nat) : Image :=
  let ts := s.tasksIn pid
  let cs := s.clusters.filter fun c => s.clusterInPart pid c.id
  let mine (t : BitVec 32) : Bool := (s.getTask t).pid == pid
  let frames := cs.flatMap fun c => (c.tiles.filter fun y => mine y.owner).map fun y => (cmKey c.id (4096 * y.frame), 4096 * y.frames)
  { size := imageSize key, key := key, pid := pid, part := s.part pid, tasks := ts
    cores := (s.allCores.filter fun k => s.inPart pid k.id).map coreImage, clusters := cs.map (s.clusterImage pid)
    cm := frames.flatMap fun f => (List.range f.2).map fun i => (f.1 + i, s.cm.get (f.1 + i))
    watch := s.slices.flatMap fun sl => ((sl.watch ++ sl.marks.map Prod.snd).filter fun w => w.pid == pid).map fun w => (sl.id, w)
    capWaits := s.capWaits.filter fun w => mine w.2 }

/-- The partition's cores, clusters, slices and local stores hold nothing of it any more; its cells are free (R228, R367). -/
def State.leavePart (s : State) (pid : BitVec 2) : State :=
  let ks := s.allCores.filter fun k => s.inPart pid k.id
  let mine (t : BitVec 32) : Bool := (s.getTask t).pid == pid
  let leases := s.clusters.flatMap fun (c : Cluster) => (c.tiles.filter fun y => mine y.owner).map fun (y : Tile) => (y.asid, y.leases)
  let s' := leases.foldl (fun s l => s.dropLeases l.1 l.2) s
  let s' : State := { s' with clusters := s'.clusters.map (s.clusterRest pid), capWaits := s'.capWaits.filter fun w => !mine w.2 }
  let s' := (s'.clusters.map Cluster.id).foldl (fun s c => s.fitMsgs c) s'
  let s' := ((s'.emptyCores pid).emptyWatch pid).flushPart pid
  let s' := ks.foldl (fun s k =>
    { s with
      sp := s.sp.forget (spKey k.id 0) (spKey k.id 0 + 2 ^ 17) s.freeCount, ls := s.ls.forget (lsKey k.id 0) (lsKey k.id 0 + 2 ^ 13) s.freeCount
      freeCount := s.freeCount + 1 }) s'
  { s' with tasks := s'.tasks.filter fun t => t.pid != pid }

/-- Steps 3 to 5 of R367. -/
def State.switchNow (s : State) (pid : BitVec 2) (a : SaveArea) : State :=
  let s := ((s.tasksIn pid).map Task.tid).foldl (fun s t => if (s.getTask t).st = .queued || (s.getTask t).st = .preparing || (s.getTask t).st = .retiring then s else (s.offCore t false).getD s) s
  let img := s.imageOf pid a.key
  let bs := s.imageBytes pid a.key
  let s := (s.stopStreams pid).leavePart pid
  let s := (s.saveImage pid a bs).emptyStreams pid
  let s := s.onPart pid fun p => { p with queues := p.queues.map fun q => { q with recs := [], started := [] } }
  { s with images := img :: s.images }.endRun pid

/-- ROOT_CONTROLLER_CONTEXT_SWITCH (R367, R423): into the area of a CTXSAVE, or of its own account into the partition context area,
where it waits until the image has room. -/
def execRootControllerContextSwitch (s : State) : Out :=
  match s.ev with
  | some (.rootControllerContextSwitch pid) =>
    let e : Ev := .rootControllerContextSwitch pid
    if !(s.part pid).run then .next (s.unwait e)
    else
      match (s.part pid).saveTo with
      | none =>
        .next ((({ s with freeCount := s.freeCount + 1 }.askStop pid).onPart pid fun p => { p with saveTo := some { phys := true, key := s.freeCount } }).wait e)
      | some a =>
        if s.switchReady pid && (!a.phys || imageSize a.key ≤ (s.part pid).ctxsize) then .next (s.switchNow pid a) else .next (s.wait e)
  | _ => .next s

/-- The pages of an area take writes by the running task. -/
def checkArea (va : Word) (n : Nat) : Act Unit :=
  (areaParts va n).forM fun q => do
    let p ← translate q.1 .write
    if (← get).windowBad p then trapFree 0x172

/-- CTXSAVE of the partition: `none` where the area is too small, and gd then holds the size; else the number of the image. -/
def ctxsaveAct (d : GReg) (a b : Word) : Act (Option Nat) := do
  systemOp
  releaseAt 4
  let key ← fresh
  if b.toNat < imageSize key then
    upd (·.setG d (BitVec.ofNat 64 (imageSize key)))
    return none
  else
    checkArea a (imageSize key)
    upd (·.setG d 0)
    return some key

/-- The switch begins: the issuing task parks after CTXSAVE, ready to go on when the partition is restored. -/
def State.beginSwitch (s : State) (va : Word) (key : Nat) : State :=
  let pid := s.me.pid
  let s := (s.askStop pid).onPart pid fun p => { p with saveTo := some { asid := s.me.asid, va := va, phys := false, key := key } }
  let t := s.me.tid
  let s := (s.retire.parkMe 0x14A 0 (s.pc + 12)).wakeTail t
  s.wait (.rootControllerContextSwitch pid)

/-- CTXSAVE (R371). -/
def execCtxsave (d a b : GReg) (s : State) : Out :=
  finishWith (ctxsaveAct d (s.g a) (s.g b)) (fun r t => match r with | none => t.advance | some key => t.beginSwitch (s.g a) key) s

/-! ### Restoring (R372) -/

/-- The issuing task is alone in its partition, and nothing of it is allocated. -/
def State.alone (s : State) : Bool :=
  let pid := s.me.pid
  (s.allTasks.all fun t => t.pid != pid || t.tid == s.me.tid) && (s.clusters.all fun c => (c.futs.all fun f => f.pid != pid) &&
    (c.tiles.all fun y => y.owner != s.me.tid) && c.ops.all fun o => o.pid != pid) &&
    s.slices.all fun sl => (sl.watch.all fun w => w.pid != pid) && sl.marks.all fun m => m.2.pid != pid

/-- The bytes at an area match an image. -/
def imageMatches (bs : List Byte) (i : Image) : Bool :=
  (bs.drop 256).take (i.size - 256) == (List.range (i.size - 256)).map (Config.imageByte i.key)

/-- The clusters have the frames and the free entries that the image's need. -/
def State.roomFor (s : State) (i : Image) : Bool :=
  i.clusters.all fun c => s.framesFree c.id c.tiles && decide (c.futs.length + (s.getCluster c.id).futs.length ≤ 512)

/-- Slots for restored entries. -/
def Cluster.addFuts (c : Cluster) (fs : List Fut) : Cluster :=
  fs.foldl (fun c f => let slot := c.freeSlot; { c with futs := c.futs.concat { f with slot := slot } }) c

/-- A cluster takes back what an image holds of it. -/
def State.restoreCluster (s : State) (pid : BitVec 2) (i : Cluster) : State :=
  let s := s.onCluster i.id fun c => { c.addFuts (i.futs.map fun f => { f with pid := pid }) with
    ready := c.ready ++ i.ready, tiles := c.tiles ++ i.tiles, ops := c.ops ++ i.ops.map fun o => { o with pid := pid }
    pend := c.pend ++ i.pend.map fun p => { p with pid := pid }, held := c.held ++ i.held, launchWait := c.launchWait ++ i.launchWait
    intAcc := c.intAcc ++ i.intAcc.map fun a => (pid, a.2), msgs := c.msgs ++ i.msgs, live := i.live }
  (s.fitMsgs i.id).wakeCluster i.id

/-- A deque block takes room again where there is some; else its records stay with the image (R68, R372). -/
def State.placeBlock (s : State) (pid : BitVec 2) (cl : BitVec 8) (b : List (BitVec 32)) : State × (List (BitVec 32) × Room) :=
  match s.takeSpill cl pid 1 blockBytes with
  | some (s, r) => (s.writeBlock cl pid r b, (b, r))
  | none => (s, (b, .image))

/-- A core takes back its deque and what its quantum has come to. -/
def State.restoreCore (s : State) (pid : BitVec 2) (i0 : Core) : State :=
  let r := i0.blocks.foldl (fun (a : State × List (List (BitVec 32) × Room)) b =>
    let x := a.1.placeBlock pid (clusterOf i0.id) b.1
    (x.1, a.2.concat x.2)) (s, [])
  let i := { i0 with blocks := r.2 }
  r.1.onCoreId i.id fun k => { k with deque := i.deque, blocks := i.blocks, prep := i.prep, boundary := i.boundary, detReqs := i.detReqs, qlog := i.qlog, retiredDet := i.retiredDet }

/-- The partition takes back its streams, queues, lottery and quanta (R56, R367); its record's fields and registers stay. -/
def restoredPart (p : Partition) (i : Partition) : Partition :=
  { p with
    streams := Vector.ofFn fun n => let x := i.streams[n]; if p.streams[n].desc.enable then { x with desc := p.streams[n].desc, owed := true } else p.streams[n]
    queues := Vector.ofFn fun n => { p.queues[n] with recs := i.queues[n].recs, started := i.queues[n].started }
    x := i.x, quantum := i.quantum, quantNow := i.quantNow, detMem := i.detMem, detFuts := i.detFuts, detLines := i.detLines }

/-- The image's state replaces the empty one. -/
def State.restore (s : State) (i : Image) : State :=
  let pid := s.me.pid
  let s := s.onPart pid fun p => restoredPart p i.part
  let s := i.tasks.foldl (fun s t => s.putTask { t with pid := pid }) s
  let s := i.cores.foldl (fun s k => s.restoreCore pid k) s
  let s := i.clusters.foldl (fun s c => s.restoreCluster pid c) s
  let s : State := { s with cm := i.cm.foldl (fun (m : Memory) c => m.set c.1 c.2) s.cm }
  let s := s.repin
  let ws := i.watch.map fun w => { w.2 with pid := pid }
  let s := ws.foldl (fun s w => s.placeWatch w) s
  let s := (ws.map Watch.key).dedup.foldl (fun s k => s.evalWatch k) s
  let s := i.capWaits.foldl (fun s w => s.wakeHead [w.2]) s
  let s := (i.tasks.filter fun t => t.st == .preparing).foldl (fun s t => s.push (.tileFrameAllocate t.tid)) s
  (two.foldl (fun s n => s.fenceCheck pid n) s).drawCheck pid

/-- CTXLOAD of the partition. -/
def ctxloadAct (d : GReg) (a : Word) : Act Unit := do
  systemOp
  releaseAt 4
  let h ← readV a 256 {} 0x07E 0x07E
  let s ← get
  if fld h 82 10 ≠ s.deviceId.toNat || fld h 128 1536 ≠ (s.part s.me.pid).cells.toNat || !s.alone then trapFree 0x16F
  if fld h 64 16 ≠ Config.stepping.toNat then trapFree 0x16E
  match s.images.find? fun i => i.size == fld h 0 64 with
  | none => trapFree 0x16E
  | some i0 =>
    let bs ← (areaParts a i0.size).foldlM (fun (acc : List Byte) q => do return acc ++ natBytes q.2 (← readV q.1 q.2 {} 0x07E 0x07E)) []
    let s ← get
    match s.images.find? fun i => i.size == i0.size && imageMatches bs i with
    | none => trapFree 0x16E
    | some i =>
      if !s.roomFor i then throw .stall
      set ((s.restore i).setG d 0)

/-- A load that met an uncorrectable error stops the partition again (R372). -/
def ctxloadEnd (s t : State) (e : Stop) : State :=
  let u := s.endStop t e
  match e with
  | .trap c _ => if c = 0x07E && !s.mxBusy then u.push (.partitionStop s.me.pid) else u
  | _ => u

/-- CTXLOAD (R372). -/
def execCtxload (d a : GReg) (s : State) : Out :=
  match (ctxloadAct d (s.g a)).run s with
  | .ok _ t => .next t.advance
  | .error e t => .next (ctxloadEnd s t e)

end Sys2Proof.Machine
end

