-- ==== Sys2Proof/Machine/Manage.lean ====
section
/-!
DEFINITION. The management controller and power (R80, R81, R393, R398, R425 to R427).
-/

namespace Sys2Proof.Machine

/-- MGMT_SET_MODULE_LIMIT (R81, R425): 600 W to 2,000 W; another value is not taken. (DEDUCED, assumption 57) -/
def execMgmtSetModuleLimit (s : State) : Out :=
  match s.ev with
  | some (.mgmtSetModuleLimit w) =>
    .next (if 600 ≤ w.toNat && w.toNat ≤ 2000 then { s with limit := w.toNat }.setThrottle else s)
  | _ => .next s

/-- The reliability registers, in order (R392). -/
def Periscope.regs (p : Periscope) : List Word :=
  [p.prbase, p.prtail, p.prhead, BitVec.ofBool p.overflow ++ (0 : BitVec 31) ++ p.dropcnt, p.prctl, p.prseq]

/-- MGMT_READ_STANDBY_BUFFER (R393, R425). -/
def execMgmtReadStandbyBuffer (s : State) : Out :=
  match s.ev with
  | some .mgmtReadStandbyBuffer => .next { s with mgmtOut := s.mgmtOut.concat (.standby s.peri.regs s.peri.standby) }
  | _ => .next s

/-- MGMT_SPDM_ATTESTATION (R425, R426): a measurement that carries both signatures; their values are free. -/
def execMgmtSpdmAttestation (s : State) : Out :=
  match s.ev with
  | some (.mgmtSpdmAttestation n) =>
    let a := s.freshWord
    let b := a.1.freshWord
    .next { b.1 with mgmtOut := b.1.mgmtOut.concat (.measurement n a.2 b.2) }
  | _ => .next s

/-- MGMT_FIRMWARE_RECOVERY (R425, R426): an image is accepted only when both signatures verify; a device in recovery then comes up
again. -/
def execMgmtFirmwareRecovery (s : State) : Out :=
  match s.ev with
  | some (.mgmtFirmwareRecovery rsa slh) =>
    if rsa && slh then .next { s with fwOk := true, recovery := false, power := if s.recovery then 1 else s.power } else .next s
  | _ => .next s

/-- The roles that the device comes up with (DESIGN CHOICE, assumption 7). -/
def firstRoles : Vector Role 4 := #v[.compute, .compute, .compute, .memory]

/-- POWER_UP (R427): the next stage. At stage 2 a firmware check that fails leaves the device in recovery (R426). -/
def execPowerUp (s : State) : Out :=
  match s.ev with
  | some .powerUp =>
    match s.power with
    | 0 => .next { s with power := 1 }
    | 1 => .next (if s.fwOk then { s with power := 2 } else { s with recovery := true })
    | 2 => .next { s with power := 3 }
    | 3 => .next ({ s with power := 4, roles := firstRoles }.setThrottle)
    | 4 => .next { s with power := 5 }
    | 5 => .next { s with power := 6 }
    | _ => .next s
  | _ => .next s

/-- Events that the management controller and the power sequence make, which a device that is down still answers (R425). -/
def mgmtEv : Ev → Bool
  | .mgmtSetModuleLimit _ => true
  | .mgmtReadStandbyBuffer => true
  | .mgmtSpdmAttestation _ => true
  | .mgmtFirmwareRecovery _ _ => true
  | .powerUp => true
  | .mainSidePowerDown => true
  | _ => false

/-- The device with its main side down: what stands on standby power stays, and what memories hold is undefined (R393, R398).
(DEDUCED, assumption 57) -/
def State.mainSideDown (s : State) : State :=
  { State.reset with
    power := 0, fwOk := s.fwOk, limit := s.limit, harvested := s.harvested, deviceId := s.deviceId, peers := s.peers
    vports := s.vports.map fun p => { p with disabled := false }
    peri := { standby := s.peri.standby }, mgmtOut := s.mgmtOut
    mem := { cells := [], undef := [(0, 5 * 2 ^ 52, s.freeCount)] }, cm := { cells := [], undef := [(0, 2 ^ 32, s.freeCount)] }
    sp := { cells := [], undef := [(0, 2 ^ 32, s.freeCount)] }, ls := { cells := [], undef := [(0, 2 ^ 32, s.freeCount)] }
    nextTid := s.nextTid, nextOp := s.nextOp, clock := s.clock, stamp := s.stamp, freeCount := s.freeCount + 1
    agenda := s.agenda.filter mgmtEv }

/-- MAIN_SIDE_POWER_DOWN (R425). -/
def execMainSidePowerDown (s : State) : Out :=
  match s.ev with
  | some .mainSidePowerDown => .next s.mainSideDown
  | _ => .next s

end Sys2Proof.Machine
end

