-- ==== Sys2Proof/Machine/Dispatch.lean ====
section
/-!
DEFINITION. What one instruction, command or event does: one arm per constructor of `Instr`.
-/

namespace Sys2Proof.Machine

def exec (i : Instr) (s : State) : Host.Outcome State Fault Refusal :=
  match i with
  | .ill => Sys2Proof.Machine.execIll s
  | .nop => Sys2Proof.Machine.execNop s
  | .follow d => Sys2Proof.Machine.execFollow d s
  | .leave => Sys2Proof.Machine.execLeave s
  | .yield => Sys2Proof.Machine.execYield s
  | .brk imm => Sys2Proof.Machine.execBrk imm s
  | .trap n a => Sys2Proof.Machine.execTrap n a s
  | .sysr d idx => Sys2Proof.Machine.execSysr d idx s
  | .sysrX d a idx => Sys2Proof.Machine.execSysrX d a idx s
  | .sysw idx a => Sys2Proof.Machine.execSysw idx a s
  | .syswClasstab a => Sys2Proof.Machine.execSyswClasstab a s
  | .syswLotseed a => Sys2Proof.Machine.execSyswLotseed a s
  | .syswTenscale a => Sys2Proof.Machine.execSyswTenscale a s
  | .ifence => Sys2Proof.Machine.execIfence s
  | .getmc d => Sys2Proof.Machine.execGetmc d s
  | .eret => Sys2Proof.Machine.execEret s
  | .setnud code => Sys2Proof.Machine.execSetnud code s
  | .add d a b => Sys2Proof.Machine.execAdd d a b s
  | .sub d a b => Sys2Proof.Machine.execSub d a b s
  | .mul d a b => Sys2Proof.Machine.execMul d a b s
  | .mulh d a b => Sys2Proof.Machine.execMulh d a b s
  | .mulhn d a b => Sys2Proof.Machine.execMulhn d a b s
  | .div d a b => Sys2Proof.Machine.execDiv d a b s
  | .divn d a b => Sys2Proof.Machine.execDivn d a b s
  | .rem d a b => Sys2Proof.Machine.execRem d a b s
  | .remn d a b => Sys2Proof.Machine.execRemn d a b s
  | .and d a b => Sys2Proof.Machine.execAnd d a b s
  | .or d a b => Sys2Proof.Machine.execOr d a b s
  | .xor d a b => Sys2Proof.Machine.execXor d a b s
  | .andn d a b => Sys2Proof.Machine.execAndn d a b s
  | .shl d a b => Sys2Proof.Machine.execShl d a b s
  | .shr d a b => Sys2Proof.Machine.execShr d a b s
  | .sha d a b => Sys2Proof.Machine.execSha d a b s
  | .addi d a imm => Sys2Proof.Machine.execAddi d a imm s
  | .muli d a imm => Sys2Proof.Machine.execMuli d a imm s
  | .andi d a imm => Sys2Proof.Machine.execAndi d a imm s
  | .ori d a imm => Sys2Proof.Machine.execOri d a imm s
  | .xori d a imm => Sys2Proof.Machine.execXori d a imm s
  | .shli d a sh => Sys2Proof.Machine.execShli d a sh s
  | .shri d a sh => Sys2Proof.Machine.execShri d a sh s
  | .shai d a sh => Sys2Proof.Machine.execShai d a sh s
  | .ldi d imm => Sys2Proof.Machine.execLdi d imm s
  | .ldhi d a imm => Sys2Proof.Machine.execLdhi d a imm s
  | .cmpi d a imm cc => Sys2Proof.Machine.execCmpi d a imm cc s
  | .cmp d a b cc => Sys2Proof.Machine.execCmp d a b cc s
  | .sel d a b => Sys2Proof.Machine.execSel d a b s
  | .min d a b => Sys2Proof.Machine.execMin d a b s
  | .max d a b => Sys2Proof.Machine.execMax d a b s
  | .minn d a b => Sys2Proof.Machine.execMinn d a b s
  | .maxn d a b => Sys2Proof.Machine.execMaxn d a b s
  | .clz d a => Sys2Proof.Machine.execClz d a s
  | .ctz d a => Sys2Proof.Machine.execCtz d a s
  | .popc d a => Sys2Proof.Machine.execPopc d a s
  | .bext d a pos len sgn => Sys2Proof.Machine.execBext d a pos len sgn s
  | .bins d a pos len => Sys2Proof.Machine.execBins d a pos len s
  | .abs d a => Sys2Proof.Machine.execAbs d a s
  | .sext d a n => Sys2Proof.Machine.execSext d a n s
  | .zext d a n => Sys2Proof.Machine.execZext d a n s
  | .lea d a b x => Sys2Proof.Machine.execLea d a b x s
  | .lea2 d a b x => Sys2Proof.Machine.execLea2 d a b x s
  | .getid d sel => Sys2Proof.Machine.execGetid d sel s
  | .pand d a b => Sys2Proof.Machine.execPand d a b s
  | .por d a b => Sys2Proof.Machine.execPor d a b s
  | .pxor d a b => Sys2Proof.Machine.execPxor d a b s
  | .pnot d a => Sys2Proof.Machine.execPnot d a s
  | .pmov d a => Sys2Proof.Machine.execPmov d a s
  | .qmov m => Sys2Proof.Machine.execQmov m s
  | .pany d a b => Sys2Proof.Machine.execPany d a b s
  | .pall d a b => Sys2Proof.Machine.execPall d a b s
  | .pset d a imm => Sys2Proof.Machine.execPset d a imm s
  | .bra disp => Sys2Proof.Machine.execBra disp s
  | .jmp a => Sys2Proof.Machine.execJmp a s
  | .call d disp => Sys2Proof.Machine.execCall d disp s
  | .callr d a => Sys2Proof.Machine.execCallr d a s
  | .ret a => Sys2Proof.Machine.execRet a s
  | .loop d disp => Sys2Proof.Machine.execLoop d disp s
  | .exit a => Sys2Proof.Machine.execExit a s
  | .spawn d a b => Sys2Proof.Machine.execSpawn d a b s
  | .spawnr d a b => Sys2Proof.Machine.execSpawnr d a b s
  | .join d a e => Sys2Proof.Machine.execJoin d a e s
  | .touch d a e => Sys2Proof.Machine.execTouch d a e s
  | .touchq d a e => Sys2Proof.Machine.execTouchq d a e s
  | .resolve a b => Sys2Proof.Machine.execResolve a b s
  | .poison a b => Sys2Proof.Machine.execPoison a b s
  | .cancel a => Sys2Proof.Machine.execCancel a s
  | .fstat d a => Sys2Proof.Machine.execFstat d a s
  | .fdup a => Sys2Proof.Machine.execFdup a s
  | .fdrop a => Sys2Proof.Machine.execFdrop a s
  | .self d => Sys2Proof.Machine.execSelf d s
  | .selfDup d => Sys2Proof.Machine.execSelfDup d s
  | .ctradd a b x => Sys2Proof.Machine.execCtradd a b x s
  | .ctrwait d a b x => Sys2Proof.Machine.execCtrwait d a b x s
  | .ctrread d a x => Sys2Proof.Machine.execCtrread d a x s
  | .ctrarm d a b x => Sys2Proof.Machine.execCtrarm d a b x s
  | .ctrdisarm d a x => Sys2Proof.Machine.execCtrdisarm d a x s
  | .ctrwaitq d a b x => Sys2Proof.Machine.execCtrwaitq d a b x s
  | .aadd d a b x => Sys2Proof.Machine.execAadd d a b x s
  | .amin d a b x => Sys2Proof.Machine.execAmin d a b x s
  | .amax d a b x => Sys2Proof.Machine.execAmax d a b x s
  | .aminn d a b x => Sys2Proof.Machine.execAminn d a b x s
  | .amaxn d a b x => Sys2Proof.Machine.execAmaxn d a b x s
  | .aand d a b x => Sys2Proof.Machine.execAand d a b x s
  | .aor d a b x => Sys2Proof.Machine.execAor d a b x s
  | .axor d a b x => Sys2Proof.Machine.execAxor d a b x s
  | .aswp d a b x => Sys2Proof.Machine.execAswp d a b x s
  | .acas d a b x => Sys2Proof.Machine.execAcas d a b x s
  | .afadd d a b x => Sys2Proof.Machine.execAfadd d a b x s
  | .afmin d a b x => Sys2Proof.Machine.execAfmin d a b x s
  | .afmax d a b x => Sys2Proof.Machine.execAfmax d a b x s
  | .rdadd a b x => Sys2Proof.Machine.execRdadd a b x s
  | .rdmin a b x => Sys2Proof.Machine.execRdmin a b x s
  | .rdmax a b x => Sys2Proof.Machine.execRdmax a b x s
  | .rdor a b x => Sys2Proof.Machine.execRdor a b x s
  | .rdfadd a b x => Sys2Proof.Machine.execRdfadd a b x s
  | .rdflush a x => Sys2Proof.Machine.execRdflush a x s
  | .fence kind scope => Sys2Proof.Machine.execFence kind scope s
  | .qput d a b x => Sys2Proof.Machine.execQput d a b x s
  | .qget d a b x => Sys2Proof.Machine.execQget d a b x s
  | .msend d a b cls n => Sys2Proof.Machine.execMsend d a b cls n s
  | .msendv d a b cls n => Sys2Proof.Machine.execMsendv d a b cls n s
  | .mmask m => Sys2Proof.Machine.execMmask m s
  | .munmask m => Sys2Proof.Machine.execMunmask m s
  | .marg d b => Sys2Proof.Machine.execMarg d b s
  | .mid d => Sys2Proof.Machine.execMid d s
  | .capenter a x => Sys2Proof.Machine.execCapenter a x s
  | .capstep h => Sys2Proof.Machine.execCapstep h s
  | .capexit h => Sys2Proof.Machine.execCapexit h s
  | .capres d n h => Sys2Proof.Machine.execCapres d n h s
  | .coll a => Sys2Proof.Machine.execColl a s
  | .collwait a => Sys2Proof.Machine.execCollwait a s
  | .tlbinvPage a asid => Sys2Proof.Machine.execTlbinvPage a asid s
  | .tlbinvRange a b asid => Sys2Proof.Machine.execTlbinvRange a b asid s
  | .tlbinvAsid asid => Sys2Proof.Machine.execTlbinvAsid asid s
  | .tlbinvAsidg asid => Sys2Proof.Machine.execTlbinvAsidg asid s
  | .tlbinvAll => Sys2Proof.Machine.execTlbinvAll s
  | .replayAll d => Sys2Proof.Machine.execReplayAll d s
  | .replayResume d b => Sys2Proof.Machine.execReplayResume d b s
  | .replayFail d b => Sys2Proof.Machine.execReplayFail d b s
  | .ctxsave d a b => Sys2Proof.Machine.execCtxsave d a b s
  | .ctxsaveT d a b => Sys2Proof.Machine.execCtxsaveT d a b s
  | .ctxload d a => Sys2Proof.Machine.execCtxload d a s
  | .ctxloadT d a b => Sys2Proof.Machine.execCtxloadT d a b s
  | .ld d a b x => Sys2Proof.Machine.execLd d a b x s
  | .st d a b x => Sys2Proof.Machine.execSt d a b x s
  | .lda d a b x => Sys2Proof.Machine.execLda d a b x s
  | .stl d a b x => Sys2Proof.Machine.execStl d a b x s
  | .pref a b x => Sys2Proof.Machine.execPref a b x s
  | .dcwb a b x => Sys2Proof.Machine.execDcwb a b x s
  | .vld d a b x => Sys2Proof.Machine.execVld d a b x s
  | .vst d a b x => Sys2Proof.Machine.execVst d a b x s
  | .vgath d a b x => Sys2Proof.Machine.execVgath d a b x s
  | .vscat d a b x => Sys2Proof.Machine.execVscat d a b x s
  | .vbld d a b x => Sys2Proof.Machine.execVbld d a b x s
  | .vlsl d a b x => Sys2Proof.Machine.execVlsl d a b x s
  | .vlss d a b x => Sys2Proof.Machine.execVlss d a b x s
  | .vspill d a b x => Sys2Proof.Machine.execVspill d a b x s
  | .vfill d a b x => Sys2Proof.Machine.execVfill d a b x s
  | .tld d a b x => Sys2Proof.Machine.execTld d a b x s
  | .tsv d a b x => Sys2Proof.Machine.execTsv d a b x s
  | .tcp d a b x => Sys2Proof.Machine.execTcp d a b x s
  | .tshape d a b st x => Sys2Proof.Machine.execTshape d a b st x s
  | .rcfence => Sys2Proof.Machine.execRcfence s
  | .twait a => Sys2Proof.Machine.execTwait a s
  | .tstat d a => Sys2Proof.Machine.execTstat d a s
  | .talloc d a => Sys2Proof.Machine.execTalloc d a s
  | .tfree a x => Sys2Proof.Machine.execTfree a x s
  | .tldv d a b x => Sys2Proof.Machine.execTldv d a b x s
  | .tsvv d a b x => Sys2Proof.Machine.execTsvv d a b x s
  | .vadd d a b x => Sys2Proof.Machine.execVadd d a b x s
  | .vsub d a b x => Sys2Proof.Machine.execVsub d a b x s
  | .vmul d a b x => Sys2Proof.Machine.execVmul d a b x s
  | .vfma d a b c x => Sys2Proof.Machine.execVfma d a b c x s
  | .vfms d a b c x => Sys2Proof.Machine.execVfms d a b c x s
  | .vmin d a b x => Sys2Proof.Machine.execVmin d a b x s
  | .vmax d a b x => Sys2Proof.Machine.execVmax d a b x s
  | .vabs d a x => Sys2Proof.Machine.execVabs d a x s
  | .vneg d a x => Sys2Proof.Machine.execVneg d a x s
  | .vdiv d a b x => Sys2Proof.Machine.execVdiv d a b x s
  | .vsqrt d a x => Sys2Proof.Machine.execVsqrt d a x s
  | .vrcp d a x => Sys2Proof.Machine.execVrcp d a x s
  | .vrsq d a x => Sys2Proof.Machine.execVrsq d a x s
  | .vexp2 d a x => Sys2Proof.Machine.execVexp2 d a x s
  | .vlog2 d a x => Sys2Proof.Machine.execVlog2 d a x s
  | .viadd d a b x => Sys2Proof.Machine.execViadd d a b x s
  | .visub d a b x => Sys2Proof.Machine.execVisub d a b x s
  | .vimul d a b x => Sys2Proof.Machine.execVimul d a b x s
  | .vimad d a b c x => Sys2Proof.Machine.execVimad d a b c x s
  | .vimin d a b x => Sys2Proof.Machine.execVimin d a b x s
  | .vimax d a b x => Sys2Proof.Machine.execVimax d a b x s
  | .vand d a b x => Sys2Proof.Machine.execVand d a b x s
  | .vor d a b x => Sys2Proof.Machine.execVor d a b x s
  | .vxor d a b x => Sys2Proof.Machine.execVxor d a b x s
  | .vshl d a b x => Sys2Proof.Machine.execVshl d a b x s
  | .vshr d a b x => Sys2Proof.Machine.execVshr d a b x s
  | .vsha d a b x => Sys2Proof.Machine.execVsha d a b x s
  | .vcmp d a b x => Sys2Proof.Machine.execVcmp d a b x s
  | .vsel d a b c x => Sys2Proof.Machine.execVsel d a b c x s
  | .vshuf d a b c x => Sys2Proof.Machine.execVshuf d a b c x s
  | .vbcast d a x => Sys2Proof.Machine.execVbcast d a x s
  | .vmov d a x => Sys2Proof.Machine.execVmov d a x s
  | .viota d a b x => Sys2Proof.Machine.execViota d a b x s
  | .vext d a b x => Sys2Proof.Machine.execVext d a b x s
  | .vins d a b x => Sys2Proof.Machine.execVins d a b x s
  | .vcomp d a b x => Sys2Proof.Machine.execVcomp d a b x s
  | .vcvt d a c x => Sys2Proof.Machine.execVcvt d a c x s
  | .vred d a b x => Sys2Proof.Machine.execVred d a b x s
  | .vscan d a b x => Sys2Proof.Machine.execVscan d a b x s
  | .vdot4 d a b x => Sys2Proof.Machine.execVdot4 d a b x s
  | .vrng d a b x => Sys2Proof.Machine.execVrng d a b x s
  | .vscale d a x => Sys2Proof.Machine.execVscale d a x s
  | .mclaim sm z => Sys2Proof.Machine.execMclaim sm z s
  | .mrel sm z => Sys2Proof.Machine.execMrel sm z s
  | .mlds d a b fmt space rows rbytes h => Sys2Proof.Machine.execMlds d a b fmt space rows rbytes h s
  | .mlatch a fmt nmaj kofs klen => Sys2Proof.Machine.execMlatch a fmt nmaj kofs klen s
  | .mma d a fmt rows kofs => Sys2Proof.Machine.execMma d a fmt rows kofs s
  | .mzero d fmt => Sys2Proof.Machine.execMzero d fmt s
  | .mstz d a b fmt rnd space sat rows => Sys2Proof.Machine.execMstz d a b fmt rnd space sat rows s
  | .mrdz d a b half => Sys2Proof.Machine.execMrdz d a b half s
  | .mwrz d a b half => Sys2Proof.Machine.execMwrz d a b half s
  | .mwait => Sys2Proof.Machine.execMwait s
  | .mstat d clr => Sys2Proof.Machine.execMstat d clr s
  | .mstatSnapshot d => Sys2Proof.Machine.execMstatSnapshot d s
  | .mscale d a fmt rnd => Sys2Proof.Machine.execMscale d a fmt rnd s
  | .sequencerRunCommand core => Sys2Proof.Machine.execSequencerRunCommand core s
  | .matrixDeferredTrap core shadow row col => Sys2Proof.Machine.execMatrixDeferredTrap core shadow row col s
  | .cmdLaunch h record done slot => Sys2Proof.Machine.execCmdLaunch h record done slot s
  | .cmdLaunchn h first count done => Sys2Proof.Machine.execCmdLaunchn h first count done s
  | .cmdLoop h len iters => Sys2Proof.Machine.execCmdLoop h len iters s
  | .cmdIf h va value skip cond => Sys2Proof.Machine.execCmdIf h va value skip cond s
  | .cmdWaitctr h va t => Sys2Proof.Machine.execCmdWaitctr h va t s
  | .waitctrSatisfied => Sys2Proof.Machine.execWaitctrSatisfied s
  | .cmdAddctr h va amount => Sys2Proof.Machine.execCmdAddctr h va amount s
  | .cmdCopy h src dst len ctr amount => Sys2Proof.Machine.execCmdCopy h src dst len ctr amount s
  | .cmdFence h => Sys2Proof.Machine.execCmdFence h s
  | .cmdFenceReload h => Sys2Proof.Machine.execCmdFenceReload h s
  | .fenceCmdComplete => Sys2Proof.Machine.execFenceCmdComplete s
  | .cmdReplay h => Sys2Proof.Machine.execCmdReplay h s
  | .cmdRole h layer role clock ctr => Sys2Proof.Machine.execCmdRole h layer role clock ctr s
  | .cmdBadOpcode h op => Sys2Proof.Machine.execCmdBadOpcode h op s
  | .streamResume => Sys2Proof.Machine.execStreamResume s
  | .apertureAdd => Sys2Proof.Machine.execApertureAdd s
  | .apertureRead => Sys2Proof.Machine.execApertureRead s
  | .hostPostedWrite => Sys2Proof.Machine.execHostPostedWrite s
  | .hostBarRead => Sys2Proof.Machine.execHostBarRead s
  | .lotteryDraw => Sys2Proof.Machine.execLotteryDraw s
  | .clusterWakeComplete => Sys2Proof.Machine.execClusterWakeComplete s
  | .clusterGate => Sys2Proof.Machine.execClusterGate s
  | .coreGate => Sys2Proof.Machine.execCoreGate s
  | .coreWakeComplete => Sys2Proof.Machine.execCoreWakeComplete s
  | .heldRecordPush => Sys2Proof.Machine.execHeldRecordPush s
  | .coreSelectWork => Sys2Proof.Machine.execCoreSelectWork s
  | .tileFrameAllocate => Sys2Proof.Machine.execTileFrameAllocate s
  | .tileFillComplete => Sys2Proof.Machine.execTileFillComplete s
  | .tileFillError => Sys2Proof.Machine.execTileFillError s
  | .taskDispatch => Sys2Proof.Machine.execTaskDispatch s
  | .tileDrainComplete => Sys2Proof.Machine.execTileDrainComplete s
  | .copyEngineComplete => Sys2Proof.Machine.execCopyEngineComplete s
  | .copyEngineFault => Sys2Proof.Machine.execCopyEngineFault s
  | .launchFutureAllocate => Sys2Proof.Machine.execLaunchFutureAllocate s
  | .quantumBoundary => Sys2Proof.Machine.execQuantumBoundary s
  | .quantumEnd => Sys2Proof.Machine.execQuantumEnd s
  | .layerRoleChange => Sys2Proof.Machine.execLayerRoleChange s
  | .roleChangeEnd => Sys2Proof.Machine.execRoleChangeEnd s
  | .followTimeout => Sys2Proof.Machine.execFollowTimeout s
  | .icacheParityError => Sys2Proof.Machine.execIcacheParityError s
  | .budgetExpiry => Sys2Proof.Machine.execBudgetExpiry s
  | .preemptRequest => Sys2Proof.Machine.execPreemptRequest s
  | .futureFabricEvent => Sys2Proof.Machine.execFutureFabricEvent s
  | .remoteWake => Sys2Proof.Machine.execRemoteWake s
  | .messageArrive => Sys2Proof.Machine.execMessageArrive s
  | .handlerAbort => Sys2Proof.Machine.execHandlerAbort s
  | .scopeMissNotice => Sys2Proof.Machine.execScopeMissNotice s
  | .uLineCombine => Sys2Proof.Machine.execULineCombine s
  | .l1dCoherenceRequest => Sys2Proof.Machine.execL1dCoherenceRequest s
  | .sliceAgeTick => Sys2Proof.Machine.execSliceAgeTick s
  | .ageingSweepVisit => Sys2Proof.Machine.execAgeingSweepVisit s
  | .sliceSample => Sys2Proof.Machine.execSliceSample s
  | .sampleOutcome => Sys2Proof.Machine.execSampleOutcome s
  | .ktAdjust => Sys2Proof.Machine.execKtAdjust s
  | .capsuleAdoptTimer => Sys2Proof.Machine.execCapsuleAdoptTimer s
  | .capsuleDeliveryAck => Sys2Proof.Machine.execCapsuleDeliveryAck s
  | .collectiveComplete => Sys2Proof.Machine.execCollectiveComplete s
  | .reductionPartialSum => Sys2Proof.Machine.execReductionPartialSum s
  | .periscopeRecord => Sys2Proof.Machine.execPeriscopeRecord s
  | .prbaseWrite => Sys2Proof.Machine.execPrbaseWrite s
  | .prstatusWrite => Sys2Proof.Machine.execPrstatusWrite s
  | .registerWrite => Sys2Proof.Machine.execRegisterWrite s
  | .vbusParityFail => Sys2Proof.Machine.execVbusParityFail s
  | .linkCrcError => Sys2Proof.Machine.execLinkCrcError s
  | .sramEccError => Sys2Proof.Machine.execSramEccError s
  | .hbmEccError => Sys2Proof.Machine.execHbmEccError s
  | .regfileParityError => Sys2Proof.Machine.execRegfileParityError s
  | .clusterContainment => Sys2Proof.Machine.execClusterContainment s
  | .schedulerWatchdogTimeout => Sys2Proof.Machine.execSchedulerWatchdogTimeout s
  | .poisonedTailReceived => Sys2Proof.Machine.execPoisonedTailReceived s
  | .engineWatchdogTimeout => Sys2Proof.Machine.execEngineWatchdogTimeout s
  | .atsInvalidation => Sys2Proof.Machine.execAtsInvalidation s
  | .atsResponse => Sys2Proof.Machine.execAtsResponse s
  | .hostReadCompletion => Sys2Proof.Machine.execHostReadCompletion s
  | .hostReadTimeout => Sys2Proof.Machine.execHostReadTimeout s
  | .ualinkInboundRequest => Sys2Proof.Machine.execUalinkInboundRequest s
  | .ualinkResponse => Sys2Proof.Machine.execUalinkResponse s
  | .peerFence => Sys2Proof.Machine.execPeerFence s
  | .fencedClear => Sys2Proof.Machine.execFencedClear s
  | .partitionStart => Sys2Proof.Machine.execPartitionStart s
  | .partitionStop => Sys2Proof.Machine.execPartitionStop s
  | .partitionRestart => Sys2Proof.Machine.execPartitionRestart s
  | .mgmtSetModuleLimit => Sys2Proof.Machine.execMgmtSetModuleLimit s
  | .mgmtReadStandbyBuffer => Sys2Proof.Machine.execMgmtReadStandbyBuffer s
  | .mgmtSpdmAttestation => Sys2Proof.Machine.execMgmtSpdmAttestation s
  | .mgmtFirmwareRecovery => Sys2Proof.Machine.execMgmtFirmwareRecovery s
  | .powerUp => Sys2Proof.Machine.execPowerUp s
  | .pcieConfigRequest => Sys2Proof.Machine.execPcieConfigRequest s
  | .unassignedEncoding => Sys2Proof.Machine.execUnassignedEncoding s
  | .rootControllerContextSwitch => Sys2Proof.Machine.execRootControllerContextSwitch s
  | .mainSidePowerDown => Sys2Proof.Machine.execMainSidePowerDown s

end Sys2Proof.Machine
end

