-- ==== Sys2Proof/Machine/Regs.lean ====
section
/-!
DEFINITION. The registers that each instruction reads and writes, as the lookahead rule counts them (R125), and the instructions
whose results are ready at the next issue slot (R90, R127, R297).
-/

namespace Sys2Proof.Machine

def gkR : GK → List RegName | .g r => [.g r] | .k _ => []
def vgkR : VGK → List RegName | .v r => [.v r] | .g r => [.g r] | .k _ => []
def vgR : VG → List RegName | .v r => [.v r] | .g r => [.g r]
def optR : Option QReg → List RegName | some q => [.q q] | none => []
def txR (x : TX) : List RegName := [.g x.ctr, .g x.amt, .g x.recp]
/-- The predicate of a vector access's lane mask (R233). -/
def mxR (x : MX) : List RegName := optR (vmask x)
/-- n registers from one up. -/
def runG (r : GReg) (n : Nat) : List RegName := (List.range n).map fun i => .g (r + BitVec.ofNat 6 i)
def runV (r : VReg) (n : Nat) : List RegName := (List.range n).map fun i => .v (r + BitVec.ofNat 5 i)

/-- Registers that an instruction reads. -/
def readsOf : Instr → List RegName
  | .trap _ a => gkR a
  | .sysr _ idx => [.sys idx]
  | .sysrX _ a idx => [.sys idx] ++ gkR a
  | .sysw _ a => gkR a
  | .syswClasstab a => gkR a
  | .syswLotseed a => gkR a
  | .syswTenscale a => gkR a
  | .add _ a b => gkR a ++ gkR b
  | .sub _ a b => gkR a ++ gkR b
  | .mul _ a b => gkR a ++ gkR b
  | .mulh _ a b => gkR a ++ gkR b
  | .mulhn _ a b => gkR a ++ gkR b
  | .div _ a b => gkR a ++ gkR b
  | .divn _ a b => gkR a ++ gkR b
  | .rem _ a b => gkR a ++ gkR b
  | .remn _ a b => gkR a ++ gkR b
  | .and _ a b => gkR a ++ gkR b
  | .or _ a b => gkR a ++ gkR b
  | .xor _ a b => gkR a ++ gkR b
  | .andn _ a b => gkR a ++ gkR b
  | .shl _ a b => gkR a ++ gkR b
  | .shr _ a b => gkR a ++ gkR b
  | .sha _ a b => gkR a ++ gkR b
  | .addi _ a _ => gkR a
  | .muli _ a _ => gkR a
  | .andi _ a _ => gkR a
  | .ori _ a _ => gkR a
  | .xori _ a _ => gkR a
  | .shli _ a _ => gkR a
  | .shri _ a _ => gkR a
  | .shai _ a _ => gkR a
  | .ldhi _ a _ => gkR a
  | .cmpi _ a _ _ => gkR a
  | .cmp _ a b _ => gkR a ++ gkR b
  | .sel d a b => [.g d] ++ gkR a ++ gkR b
  | .min _ a b => gkR a ++ gkR b
  | .max _ a b => gkR a ++ gkR b
  | .minn _ a b => gkR a ++ gkR b
  | .maxn _ a b => gkR a ++ gkR b
  | .clz _ a => [.g a]
  | .ctz _ a => [.g a]
  | .popc _ a => [.g a]
  | .bext _ a _ _ _ => [.g a]
  | .bins d a _ _ => [.g d] ++ gkR a
  | .abs _ a => [.g a]
  | .sext _ a _ => [.g a]
  | .zext _ a _ => [.g a]
  | .lea _ a b _ => gkR a ++ gkR b
  | .lea2 _ a b _ => gkR a ++ gkR b
  | .pand _ a b => [.q a] ++ [.q b]
  | .por _ a b => [.q a] ++ [.q b]
  | .pxor _ a b => [.q a] ++ [.q b]
  | .pnot _ a => [.q a]
  | .pmov _ a => [.q a]
  | .qmov m => match m with | .toG _ a => [.q a] | .toQ _ a => [.g a]
  | .pany _ a b => [.q a] ++ [.q b]
  | .pall _ a b => [.q a] ++ [.q b]
  | .pset _ a _ => gkR a
  | .jmp a => [.g a]
  | .callr _ a => [.g a]
  | .ret a => [.g a]
  | .loop d _ => [.g d]
  | .exit a => gkR a
  | .spawn _ a b => [.g a] ++ [.g b]
  | .spawnr _ a b => runG a 8 ++ [.g b]
  | .join _ a _ => [.g a]
  | .touch _ a _ => [.g a]
  | .touchq _ a _ => [.g a]
  | .resolve a b => [.g a] ++ gkR b
  | .poison a b => [.g a] ++ gkR b
  | .cancel a => [.g a]
  | .fstat _ a => [.g a]
  | .fdup a => [.g a]
  | .fdrop a => [.g a]
  | .ctradd a b _ => [.g a] ++ gkR b
  | .ctrwait _ a b _ => [.g a] ++ gkR b
  | .ctrread _ a _ => [.g a]
  | .ctrarm d a b _ => [.g d, .g (d + 1), .g a] ++ gkR b
  | .ctrdisarm _ a _ => [.g a]
  | .ctrwaitq _ a b _ => [.g a] ++ gkR b
  | .aadd _ a b _ => [.g a] ++ gkR b
  | .amin _ a b _ => [.g a] ++ gkR b
  | .amax _ a b _ => [.g a] ++ gkR b
  | .aminn _ a b _ => [.g a] ++ gkR b
  | .amaxn _ a b _ => [.g a] ++ gkR b
  | .aand _ a b _ => [.g a] ++ gkR b
  | .aor _ a b _ => [.g a] ++ gkR b
  | .axor _ a b _ => [.g a] ++ gkR b
  | .aswp _ a b _ => [.g a] ++ gkR b
  | .acas d a b _ => [.g d] ++ [.g a] ++ gkR b
  | .afadd _ a b _ => [.g a] ++ gkR b
  | .afmin _ a b _ => [.g a] ++ gkR b
  | .afmax _ a b _ => [.g a] ++ gkR b
  | .rdadd a b _ => [.g a] ++ gkR b
  | .rdmin a b _ => [.g a] ++ gkR b
  | .rdmax a b _ => [.g a] ++ gkR b
  | .rdor a b _ => [.g a] ++ gkR b
  | .rdfadd a b _ => [.g a] ++ gkR b
  | .rdflush a _ => [.g a]
  | .qput _ a b _ => [.g a] ++ vgR b
  | .qget _ a _ _ => [.g a]
  | .msend _ a b _ n => [.g a] ++ runG b n.toNat
  | .msendv _ a b _ n => [.g a] ++ runV b n.toNat
  | .marg _ b => gkR b
  | .capenter a _ => [.g a]
  | .coll a => [.g a]
  | .collwait a => [.g a]
  | .tlbinvPage a _ => [.g a]
  | .tlbinvRange a b _ => [.g a] ++ [.g b]
  | .replayResume _ b => [.g b]
  | .replayFail _ b => [.g b]
  | .ctxsave _ a b => [.g a] ++ [.g b]
  | .ctxsaveT _ a b => [.g a] ++ [.g b]
  | .ctxload _ a => [.g a]
  | .ctxloadT _ a b => [.g a] ++ [.g b]
  | .ld _ a b _ => gkR a ++ gkR b
  | .st d a b _ => [.g d] ++ gkR a ++ gkR b
  | .lda _ a b _ => gkR a ++ gkR b
  | .stl d a b _ => [.g d] ++ gkR a ++ gkR b
  | .pref a b _ => gkR a ++ gkR b
  | .dcwb a b _ => gkR a ++ gkR b
  | .vld _ a b x => gkR a ++ gkR b ++ mxR x
  | .vst d a b x => [.v d] ++ gkR a ++ gkR b ++ mxR x
  | .vgath _ a b x => [.g a] ++ [.v b] ++ mxR x
  | .vscat d a b x => [.v d] ++ [.g a] ++ [.v b] ++ mxR x
  | .vbld _ a b x => gkR a ++ gkR b ++ mxR x
  | .vlsl _ a b x => gkR a ++ gkR b ++ mxR x
  | .vlss d a b x => [.v d] ++ gkR a ++ gkR b ++ mxR x
  | .vspill d a b _ => [.v d] ++ gkR a ++ gkR b
  | .vfill _ a b _ => gkR a ++ gkR b
  | .tld _ a b _ => [.g a] ++ gkR b
  | .tsv d a b _ => [.g d] ++ [.g a] ++ gkR b
  | .tcp _ a b x => [.g a] ++ [.g b] ++ txR x
  | .tshape _ a b _ x => [.g a] ++ [.g b] ++ txR x
  | .twait a => [.g a]
  | .tstat _ a => [.g a]
  | .talloc _ a => [.g a]
  | .tfree a x => [.g a] ++ txR x
  | .tldv _ a b x => [.g a] ++ gkR b ++ mxR x
  | .tsvv d a b x => [.v d] ++ [.g a] ++ gkR b ++ mxR x
  | .vadd _ a b x => [.v a] ++ vgkR b ++ optR x.mask
  | .vsub _ a b x => [.v a] ++ vgkR b ++ optR x.mask
  | .vmul _ a b x => [.v a] ++ vgkR b ++ optR x.mask
  | .vfma _ a b c x => [.v a] ++ vgkR b ++ vgR c ++ optR x.mask
  | .vfms _ a b c x => [.v a] ++ vgkR b ++ vgR c ++ optR x.mask
  | .vmin _ a b x => [.v a] ++ vgkR b ++ optR x.mask
  | .vmax _ a b x => [.v a] ++ vgkR b ++ optR x.mask
  | .vabs _ a x => [.v a] ++ optR x.mask
  | .vneg _ a x => [.v a] ++ optR x.mask
  | .vdiv _ a b x => [.v a] ++ vgkR b ++ optR x.mask
  | .vsqrt _ a x => [.v a] ++ optR x.mask
  | .vrcp _ a x => [.v a] ++ optR x.mask
  | .vrsq _ a x => [.v a] ++ optR x.mask
  | .vexp2 _ a x => [.v a] ++ optR x.mask
  | .vlog2 _ a x => [.v a] ++ optR x.mask
  | .viadd _ a b x => [.v a] ++ vgkR b ++ optR x.mask
  | .visub _ a b x => [.v a] ++ vgkR b ++ optR x.mask
  | .vimul _ a b x => [.v a] ++ vgkR b ++ optR x.mask
  | .vimad _ a b c x => [.v a] ++ vgkR b ++ vgR c ++ optR x.mask
  | .vimin _ a b x => [.v a] ++ vgkR b ++ optR x.mask
  | .vimax _ a b x => [.v a] ++ vgkR b ++ optR x.mask
  | .vand _ a b x => [.v a] ++ vgkR b ++ optR x.mask
  | .vor _ a b x => [.v a] ++ vgkR b ++ optR x.mask
  | .vxor _ a b x => [.v a] ++ vgkR b ++ optR x.mask
  | .vshl _ a b x => [.v a] ++ vgkR b ++ optR x.mask
  | .vshr _ a b x => [.v a] ++ vgkR b ++ optR x.mask
  | .vsha _ a b x => [.v a] ++ vgkR b ++ optR x.mask
  | .vcmp _ a b x => [.v a] ++ vgkR b ++ optR x.mask
  | .vsel _ a b c x => [.v a] ++ vgkR b ++ [.q c] ++ optR x.mask
  | .vshuf _ a b c x => [.v a] ++ [.v b] ++ [.v c] ++ optR x.mask
  | .vbcast _ a x => vgkR a ++ optR x.mask
  | .vmov _ a x => [.v a] ++ optR x.mask
  | .viota _ a b x => gkR a ++ gkR b ++ optR x.mask
  | .vext _ a b x => [.v a] ++ gkR b ++ optR x.mask
  | .vins d a b x => [.v d] ++ gkR a ++ gkR b ++ optR x.mask
  | .vcomp _ a b x => [.v a] ++ gkR b ++ optR x.mask
  | .vcvt _ a c x => [.v a] ++ [.g c] ++ optR x.mask
  | .vred _ a b x => [.v a] ++ gkR b ++ optR x.mask
  | .vscan _ a b x => [.v a] ++ gkR b ++ optR x.mask
  | .vdot4 d a b x => [.v d] ++ [.v a] ++ [.v b] ++ optR x.mask
  | .vrng _ a b x => [.g a] ++ [.g b] ++ optR x.mask
  | .vscale _ a x => [.v a] ++ optR x.mask
  | .mlds _ a b f _ _ _ _ => [.g a] ++ (if isBlock f.toNat then [.g (a + 1)] else []) ++ gkR b
  | .mstz _ a b _ _ _ _ _ => [.g a] ++ gkR b
  | .mrdz _ _ b _ => gkR b
  | .mwrz _ a b _ => [.v a] ++ gkR b
  | .mscale _ a _ _ => [.g a]
  | _ => []

/-- Registers that an instruction writes. -/
def writesOf : Instr → List RegName
  | .follow d => [.q d]
  | .sysr d _ => [.g d]
  | .sysrX d _ idx => [.g d, .sys idx]
  | .sysw idx _ => [.sys idx]
  | .syswClasstab _ => [.sys 0x107]
  | .syswLotseed _ => [.sys 0x10C]
  | .syswTenscale _ => [.sys 0x109]
  | .setnud _ => [.sys 0x009]
  | .getmc d => [.g d]
  | .add d _ _ => [.g d]
  | .sub d _ _ => [.g d]
  | .mul d _ _ => [.g d]
  | .mulh d _ _ => [.g d]
  | .mulhn d _ _ => [.g d]
  | .div d _ _ => [.g d]
  | .divn d _ _ => [.g d]
  | .rem d _ _ => [.g d]
  | .remn d _ _ => [.g d]
  | .and d _ _ => [.g d]
  | .or d _ _ => [.g d]
  | .xor d _ _ => [.g d]
  | .andn d _ _ => [.g d]
  | .shl d _ _ => [.g d]
  | .shr d _ _ => [.g d]
  | .sha d _ _ => [.g d]
  | .addi d _ _ => [.g d]
  | .muli d _ _ => [.g d]
  | .andi d _ _ => [.g d]
  | .ori d _ _ => [.g d]
  | .xori d _ _ => [.g d]
  | .shli d _ _ => [.g d]
  | .shri d _ _ => [.g d]
  | .shai d _ _ => [.g d]
  | .ldi d _ => [.g d]
  | .ldhi d _ _ => [.g d]
  | .cmpi d _ _ _ => [.q d]
  | .cmp d _ _ _ => [.q d]
  | .sel d _ _ => [.g d]
  | .min d _ _ => [.g d]
  | .max d _ _ => [.g d]
  | .minn d _ _ => [.g d]
  | .maxn d _ _ => [.g d]
  | .clz d _ => [.g d]
  | .ctz d _ => [.g d]
  | .popc d _ => [.g d]
  | .bext d _ _ _ _ => [.g d]
  | .bins d _ _ _ => [.g d]
  | .abs d _ => [.g d]
  | .sext d _ _ => [.g d]
  | .zext d _ _ => [.g d]
  | .lea d _ _ _ => [.g d]
  | .lea2 d _ _ _ => [.g d]
  | .getid d _ => [.g d]
  | .pand d _ _ => [.q d]
  | .por d _ _ => [.q d]
  | .pxor d _ _ => [.q d]
  | .pnot d _ => [.q d]
  | .pmov d _ => [.q d]
  | .qmov m => match m with | .toG d _ => [.g d] | .toQ d _ => [.q d]
  | .pany d _ _ => [.q d]
  | .pall d _ _ => [.q d]
  | .pset d _ _ => [.q d]
  | .call d _ => [.g d]
  | .callr d _ => [.g d]
  | .loop d _ => [.g d]
  | .spawn d _ _ => [.g d]
  | .spawnr d _ _ => [.g d]
  | .join d _ e => [.g d] ++ optR e
  | .touch d _ e => [.g d] ++ optR e
  | .touchq d _ e => [.g d] ++ [.q e]
  | .fstat d _ => [.g d]
  | .self d => [.g d]
  | .selfDup d => [.g d]
  | .ctrwait d _ _ _ => [.g d]
  | .ctrread d _ _ => [.g d]
  | .ctrdisarm d _ _ => [.g d]
  | .ctrwaitq d _ _ _ => [.q d]
  | .aadd d _ _ _ => [.g d]
  | .amin d _ _ _ => [.g d]
  | .amax d _ _ _ => [.g d]
  | .aminn d _ _ _ => [.g d]
  | .amaxn d _ _ _ => [.g d]
  | .aand d _ _ _ => [.g d]
  | .aor d _ _ _ => [.g d]
  | .axor d _ _ _ => [.g d]
  | .aswp d _ _ _ => [.g d]
  | .acas d _ _ _ => [.g d]
  | .afadd d _ _ _ => [.g d]
  | .afmin d _ _ _ => [.g d]
  | .afmax d _ _ _ => [.g d]
  | .qput d _ _ _ => [.q d]
  | .qget d _ b _ => [.q d] ++ vgR b
  | .msend d _ _ _ _ => [.g d]
  | .msendv d _ _ _ _ => [.g d]
  | .marg d _ => vgR d
  | .mid d => [.g d]
  | .capres d _ _ => [.g d]
  | .replayAll d => [.g d]
  | .replayResume d _ => [.g d]
  | .replayFail d _ => [.g d]
  | .ctxsave d _ _ => [.g d]
  | .ctxsaveT d _ _ => [.g d]
  | .ctxload d _ => [.g d]
  | .ctxloadT d _ _ => [.g d]
  | .ld d _ _ _ => [.g d]
  | .lda d _ _ _ => [.g d]
  | .vld d _ _ _ => [.v d]
  | .vgath d _ _ _ => [.v d]
  | .vbld d _ _ _ => [.v d]
  | .vlsl d _ _ _ => [.v d]
  | .vfill d _ _ _ => [.v d]
  | .tld d _ _ _ => [.g d]
  | .tcp d _ _ _ => [.g d]
  | .tshape d _ _ _ _ => [.g d]
  | .tstat d _ => [.g d]
  | .talloc d _ => [.g d]
  | .tldv d _ _ _ => [.v d]
  | .vadd d _ _ _ => [.v d]
  | .vsub d _ _ _ => [.v d]
  | .vmul d _ _ _ => [.v d]
  | .vfma d _ _ _ _ => [.v d]
  | .vfms d _ _ _ _ => [.v d]
  | .vmin d _ _ _ => [.v d]
  | .vmax d _ _ _ => [.v d]
  | .vabs d _ _ => [.v d]
  | .vneg d _ _ => [.v d]
  | .vdiv d _ _ _ => [.v d]
  | .vsqrt d _ _ => [.v d]
  | .vrcp d _ _ => [.v d]
  | .vrsq d _ _ => [.v d]
  | .vexp2 d _ _ => [.v d]
  | .vlog2 d _ _ => [.v d]
  | .viadd d _ _ _ => [.v d]
  | .visub d _ _ _ => [.v d]
  | .vimul d _ _ _ => [.v d]
  | .vimad d _ _ _ _ => [.v d]
  | .vimin d _ _ _ => [.v d]
  | .vimax d _ _ _ => [.v d]
  | .vand d _ _ _ => [.v d]
  | .vor d _ _ _ => [.v d]
  | .vxor d _ _ _ => [.v d]
  | .vshl d _ _ _ => [.v d]
  | .vshr d _ _ _ => [.v d]
  | .vsha d _ _ _ => [.v d]
  | .vcmp d _ _ _ => [.q d]
  | .vsel d _ _ _ _ => [.v d]
  | .vshuf d _ _ _ _ => [.v d]
  | .vbcast d _ _ => [.v d]
  | .vmov d _ _ => [.v d]
  | .viota d _ _ _ => [.v d]
  | .vext d _ _ _ => [.g d]
  | .vins d _ _ _ => [.v d]
  | .vcomp d _ _ x => [.v d] ++ optR x.mask
  | .vcvt d _ _ _ => [.v d]
  | .vred d _ _ _ => [.g d]
  | .vscan d _ _ _ => [.v d]
  | .vdot4 d _ _ _ => [.v d]
  | .vrng d _ _ _ => [.v d]
  | .vscale d _ _ => [.g d]
  | .mrdz d _ _ _ => [.v d]
  | .mstat d _ => [.g d]
  | .mstatSnapshot d => [.g d]
  | _ => []

/-- Results are ready at the next issue slot, or there are none: LA has no effect (R90, R127, R297). -/
def readyNext : Instr → Bool
  | .mul _ _ _ => false | .mulh _ _ _ => false | .mulhn _ _ _ => false | .muli _ _ _ => false
  | .div _ _ _ => false | .divn _ _ _ => false | .rem _ _ _ => false | .remn _ _ _ => false
  | .getmc _ => true
  | .setnud _ => true
  | .add _ _ _ => true
  | .sub _ _ _ => true
  | .and _ _ _ => true
  | .or _ _ _ => true
  | .xor _ _ _ => true
  | .andn _ _ _ => true
  | .shl _ _ _ => true
  | .shr _ _ _ => true
  | .sha _ _ _ => true
  | .addi _ _ _ => true
  | .andi _ _ _ => true
  | .ori _ _ _ => true
  | .xori _ _ _ => true
  | .shli _ _ _ => true
  | .shri _ _ _ => true
  | .shai _ _ _ => true
  | .ldi _ _ => true
  | .ldhi _ _ _ => true
  | .cmpi _ _ _ _ => true
  | .cmp _ _ _ _ => true
  | .sel _ _ _ => true
  | .min _ _ _ => true
  | .max _ _ _ => true
  | .minn _ _ _ => true
  | .maxn _ _ _ => true
  | .clz _ _ => true
  | .ctz _ _ => true
  | .popc _ _ => true
  | .bext _ _ _ _ _ => true
  | .bins _ _ _ _ => true
  | .abs _ _ => true
  | .sext _ _ _ => true
  | .zext _ _ _ => true
  | .lea _ _ _ _ => true
  | .lea2 _ _ _ _ => true
  | .getid _ _ => true
  | .pand _ _ _ => true
  | .por _ _ _ => true
  | .pxor _ _ _ => true
  | .pnot _ _ => true
  | .pmov _ _ => true
  | .qmov _ => true
  | .pany _ _ _ => true
  | .pall _ _ _ => true
  | .pset _ _ _ => true
  | .self _ => true
  | i => (writesOf i).isEmpty

end Sys2Proof.Machine
end

