-- ==== Sys2Proof/Machine/Issue.lean ====
section
/-!
DEFINITION. What the device does next: an event, the turn of a stream or the turn of a core, whose instruction is fetched, decoded
and checked (R84 to R90, R100, R105, R106, R124 to R126, R328, R358).
-/

namespace Sys2Proof.Machine

/-! ### Checks before issue -/

/-- A field of a word names only g0, g56 to g63, predicates and constants (R328). -/
def capsuleField (b : Byte) : Bool :=
  let n := b.toNat
  n = 0 || (56 ≤ n && n < 64) || (0x80 ≤ n && n < 0x88) || 0xC0 ≤ n

/-- Words that issue in capsule mode (R328). -/
def capsuleWord (maj min : Nat) : Bool :=
  maj = 1 || maj = 2 || maj = 3 || maj = 5 || (maj = 4 && min ≤ 1) || (maj = 6 && (min = 0 || min = 5)) || (maj = 0 && min = 1) ||
    (maj = 0x10 && min ≤ 1) || (maj = 0x0D && (min = 1 || min = 2))

/-- The restrictions of capsule mode on a word (R328). A nested CAPENTER does not issue, with the cause of its own first check (R331).
(DEDUCED, assumption 45) -/
def capsuleCause (t : Task) (f : Fields) : Option Cause :=
  if !t.capsule then none
  else if f.maj = 0x0D && f.min = 0 then some 0x0E4
  else if !capsuleWord f.maj f.min then some 0x0E0
  else if f.maj = 0x10 && (mx f.x f.h).space ≠ 0 then some 0x0E1
  else if !(capsuleField f.d && capsuleField f.a && capsuleField f.b) then some 0x0E2
  else if 16 ≤ t.cap.instrs then some 0x0D9
  else none

/-- The guard holds (R89). -/
def State.guardHolds (s : State) (h : Header) : Bool := s.cond h.guard != h.gneg

/-! ### Lookahead (R125) -/

/-- Registers that carry a result: g0 and q0 do not. -/
def carries (r : RegName) : Bool := r != .g 0 && r != .q 0

/-- The instruction has issued: violations of the open shadows, and its own shadow (R90, R125). (DEDUCED, assumption 23) -/
def State.noteShadow (s : State) (h : Header) (i : Instr) (ran : Bool) : State :=
  let rs := ((.q h.guard) :: if ran then readsOf i else []).filter carries
  let ws := (if ran then writesOf i else []).filter carries
  let hit := s.me.shadows.any fun sh => (rs ++ ws).any sh.regs.contains
  let slow := if readyNext i then [] else ws
  let open_ := (s.me.shadows.map fun sh => ({ left := sh.left - 1, regs := sh.regs ++ slow } : Shadow)).filter fun sh => sh.left != 0
  let mine : List Shadow := if h.la != 0 && !slow.isEmpty then [{ left := h.la.toNat, regs := slow }] else []
  s.onMe fun t => { t with
    shadows := open_ ++ mine, laviol := if hit && t.laviol != BitVec.allOnes 32 then t.laviol + 1 else t.laviol }

/-! ### Time (R119, R124; DESIGN CHOICE, assumption 4) -/

/-- A step on a core costs at least one cycle of its clock and of the running task's budget. -/
def State.tick (s : State) : State :=
  let n := 1 + Config.cycles s.freeCount
  { s with freeCount := s.freeCount + 1, clock := s.clock + n }.onMe fun t => { t with budget := t.budget - BitVec.ofNat 32 (Nat.min n t.budget.toNat) }

/-! ### Streams of cores (R105, R106) -/

/-- Members of the active core's stream that have not yet issued the leader's last word. (DESIGN CHOICE, assumption 46) -/
def State.laggard (s : State) : Option (BitVec 16) :=
  s.core.members.find? fun m => ((s.getTask (s.getCore m).running).pc != s.pc)

/-- A member whose next PC differs from its leader's leaves the stream (R106). -/
def State.checkMember (s : State) (leaderPc : Word) : State :=
  if s.core.leader.isSome && s.pc != leaderPc then s.breakStream else s

/-! ### The turn of a core -/

/-- What a turn comes to. -/
inductive Plan where
  /-- The turn is over. -/
  | settled (s : State)
  /-- An event or a command to carry out. -/
  | act (i : Instr) (s : State)
  /-- An instruction of the running task, decoded and checked. -/
  | issue (h : Header) (i : Instr) (s : State)
  deriving DecidableEq, Repr

/-- Fetch, decode and check a word at the PC (R100). -/
def issueWord (s : State) : Plan :=
  match fetchWord.run s with
  | .error e t => .settled (s.endStop t e)
  | .ok bs t =>
    let f := fields (wordOfBytes bs)
    if starred f.maj f.min && !t.privileged t.me then .settled (s.endStop t (.trap 0x028 t.pc))
    else
      match decode (wordOfBytes bs) with
      | .error e => .settled (s.endStop t (.trap e.cause t.pc))
      | .ok (h, i) =>
        match capsuleCause t.me f with
        | some c =>
          let w := t.freshWord
          .settled (s.endStop w.1 (.trap c w.2))
        | none => .issue h i t

/-! ### While matrix commands are queued (R182, R183, R198) -/

/-- Instructions that do not wait for the queue: they touch registers, the PC or the queue itself, or load. -/
def overlapWord (maj min : Nat) : Bool :=
  (1 ≤ maj && maj ≤ 5) || (maj = 6 && min ≤ 5) || (0x18 ≤ maj && maj ≤ 0x1C) || (maj = 0 && min = 1) || (maj = 0x10 && (min = 0 || min = 2)) ||
    (maj = 0x11 && (min = 0 || min = 2))

/-- Registers that queued commands will write. -/
def queuedWrites (q : List MCmd) : List RegName :=
  q.flatMap fun c => match c.instr with
    | .mrdz d _ _ _ => [.v d]
    | .mstat d _ => [.g d]
    | _ => []

/-- A word that may set FFLAGS stands behind an MSTAT in the queue (R151). -/
def behindMstat (f : Fields) (q : List MCmd) : Bool :=
  decide (0x18 ≤ f.maj) && decide (f.maj ≤ 0x1B) && q.any fun c => match c.instr with | .mstat _ _ => true | _ => false

/-- A word may issue while its task's commands are queued. -/
def overlapOk (f : Fields) (h : Header) (i : Instr) (t : State) : Bool :=
  let q := t.core.mx.queue
  overlapWord f.maj f.min && t.me.budget != 0 && !behindMstat f q &&
    ((.q h.guard) :: readsOf i ++ writesOf i).all fun r => !(queuedWrites q).contains r

/-- The word at the PC may issue while commands are queued. -/
def State.overlaps (s : State) (h : Header) (i : Instr) (t : State) : Bool :=
  match fetchWord.run s with
  | .ok bs _ => overlapOk (fields (wordOfBytes bs)) h i t
  | .error _ _ => false

/-- A turn with commands in the queue: the next of them runs, or the next word issues where it need not wait; the manual does not say
which comes first. (DESIGN CHOICE, assumption 30) -/
def queuedTurn (s : State) : Plan :=
  let t := { s with freeCount := s.freeCount + 1 }
  if Config.freeBit s.freeCount then .settled t.kickMatrix
  else
    match issueWord t with
    | .issue h i u => if t.overlaps h i u then .issue h i u else .settled t.kickMatrix
    | _ => .settled t.kickMatrix

/-! ### Before the word (R76, R196, R199, R335, R358, R364, R420) -/

/-- A held command of a refilled queue issues again (R199). A fault leaves it to be issued once more. -/
def State.reissueNext (s : State) (c : MCmd) (cs : List MCmd) : State :=
  let held := s.core.mx.held
  let back (t : State) : State := t.onMx fun m => { m with held := held }
  match (issueMatrix c.instr c.addr).run (s.onMx fun m => { m with held := none }) with
  | .ok _ t => (back t).onMe fun x => { x with reissue := cs }
  | .error (.trap k _) t => ((back t).onMe fun x => { x with reissue := cs }).stopWith (.trap k c.addr)
  | .error e t => (back t).stopWith e

/-- A spilled matrix state comes back; without room for the state that stands in its way the task parks and tries again. -/
def State.takeMatrix (s : State) : State :=
  let t := s.refillMatrix
  if t.me.mctx.isSome then
    let id := t.me.tid
    (t.parkMe 0x119 0 t.pc).wakeTail id
  else t

/-- A store of the running task that its target refused (R420). -/
def State.badStore (s : State) : Option (OutReq × Cause) :=
  s.outs.findSome? fun o =>
    if o.tid == s.me.tid && o.store && !o.lost then
      match o.reply with
      | some .key => some (o, 0x161)
      | some .targetFault => some (o, 0x162)
      | some .poisoned => some (o, 0x163)
      | _ => none
    else none

/-- The task's budget has run out, and its expiry is not already asked for (R78, R364). -/
def State.expires (s : State) (t : Task) (k : Core) : Bool :=
  t.tid != 0 && t.budget == 0 && !(t.det && (s.part t.pid).regs.detctl.getLsbD 0 && k.detReqs.contains (.expire t.tid) && !(s.part t.pid).stopping)

/-- What comes before the active core's next word, in the order of R358: a deferred matrix trap, a refused store, budget expiry. -/
def boundaryFirst (s : State) : Option Plan :=
  match s.core.mx.pendingTrap, s.badStore with
  | some (cause, at_), b =>
    if s.core.mx.bound = s.me.tid then
      some (.settled ((s.onCore fun k => { k with mx := { k.mx with pendingTrap := none } }).stopWith (.trap cause at_)))
    else refused s b
  | none, b => refused s b
where
  refused (s : State) (b : Option (OutReq × Cause)) : Option Plan :=
    match b with
    | some (o, c) =>
      let w := (s.dropOut o).freshWord
      some (.settled (w.1.stopWith (.trap c w.2)))
    | none => if s.expires s.me s.core then some (.act .budgetExpiry { s with ev := some (.budgetExpiry s.core.id) }) else none

/-- What the active core's task has to do before its next word. While matrix commands are queued the boundary is not yet reached. -/
def beforeWord (s : State) : Option Plan :=
  if s.me.capsule && s.me.cap.displaced then some (.settled (resumeCapsule s))
  else if s.me.mctx.isSome then some (.settled s.takeMatrix)
  else
    match s.me.reissue with
    | q :: qs => some (.settled (s.reissueNext q qs))
    | [] => if s.mxBusy then none else boundaryFirst s

/-- The next word of the active core. -/
def wordTurn (s : State) : Plan := if s.mxBusy then queuedTurn s else issueWord s

/-- A member of the active stream has something to do before the leader's next word (R105, R106). -/
def State.membersFirst (s : State) : Option Plan := s.core.members.findSome? fun m => beforeWord (s.activate m)

/-- The leader's word may not issue in a member yet, or is a breach there (R107, R183, R198, R328). -/
def memberHolds (f : Fields) (h : Header) (i : Instr) (u : State) : Option Plan :=
  match capsuleCause u.me f with
  | some c =>
    let w := u.freshWord
    some (.settled (u.endStop w.1 (.trap c w.2)))
  | none => if u.mxBusy && !overlapOk f h i u then some (.settled u.kickMatrix) else none

/-- The same over the members of a stream. -/
def State.membersHold (t : State) (f : Fields) (h : Header) (i : Instr) : Option Plan :=
  t.core.members.findSome? fun m => memberHolds f h i (t.activate m)

/-- The leader's next word: it issues once it may issue in every member. -/
def leaderTurn (s : State) : Plan :=
  match wordTurn s, fetchWord.run s with
  | .issue h i t, .ok bs _ => (t.membersHold (fields (wordOfBytes bs)) h i).getD (.issue h i t)
  | p, _ => p

/-- A core of the active stream has reached its quantum boundary with a task with DET set. -/
def State.streamAtBoundary (s : State) : Bool :=
  (s.core.id :: s.core.members).any fun c => (s.getTask (s.getCore c).running).det && (s.getCore c).boundary

/-- The stream stops with that core: the boundary of one is that of all (R78, R105). (DESIGN CHOICE, assumption 46) -/
def State.stopStream (s : State) : State :=
  (s.core.id :: s.core.members).foldl (fun s c => if (s.getTask (s.getCore c).running).det then s.onCoreId c fun k => { k with boundary := true } else s) s

/-- The turn of a core (R124, R358). -/
def coreTurn (s : State) (c : BitVec 16) : Plan :=
  let l := s.activate c
  let s := match l.laggard with | some m => l.activate m | none => l
  if !s.core.awake || s.core.halted || !(s.getCluster (clusterOf s.core.id)).awake then .settled s
  else if s.me.tid = 0 then .act .coreSelectWork { s with ev := some (.coreSelectWork c) }
  else if l.streamAtBoundary then .settled l.stopStream
  else
    match beforeWord s with
    | some p => p
    | none =>
      match s.membersFirst with
      | some p => p
      | none => leaderTurn s

/-! ### What comes next (DESIGN CHOICE, assumption 2) -/

/-- Cores that have something to do, ascending: a running task, a record of their own, a task of their cluster that resumes on them,
or, idle, a record elsewhere in their cluster. -/
def State.busyCores (s : State) : List (BitVec 16) :=
  let cs := s.allCores.foldl (fun acc c => putBy Core.key c acc) []
  let own := (cs.filter fun c => c.awake && !c.halted && c.leader.isNone && (c.running != 0 || c.dequeLen != 0 || !c.prep.isEmpty)).map Core.id
  let rich := (s.clusters.filter fun c => c.awake && (!c.ready.isEmpty || cs.any fun k => clusterOf k.id == c.id && k.dequeLen != 0)).map Cluster.id
  let idle := two.flatMap fun p =>
    if (s.part p).run then
      (rich.flatMap (s.partCores p)).filter fun c =>
        let k := s.getCore c
        k.awake && !k.halted && k.running == 0 && !own.contains c && ((s.readyFor p c).isSome || (s.findVictim p c).isSome)
    else []
  own ++ idle

/-- Streams that have a turn, by partition and number: those that run, that may resume, that poll a counter, or that owe their
status block. -/
def State.busyStreams (s : State) : List (BitVec 2 × BitVec 2) :=
  two.flatMap fun p =>
    if (s.part p).run && (s.part p).saveTo.isNone then
      (two.filter fun n =>
        let x := rd (s.part p).streams n
        x.desc.enable && (x.st == .run || x.st == .error || x.owed ||
          (x.st == .wait && match x.waiting with | some (.cmdWaitctr _ _ _) => true | _ => false))).map fun n => (p, n)
    else []

/-- Quanta that are over. -/
def State.overQuanta (s : State) : List (BitVec 2) := two.filter s.quantumOver

/-- Cores that run a task and may claim a record ahead (R69). -/
def State.aheadCores (s : State) : List (BitVec 16) :=
  ((s.allCores.foldl (fun acc c => putBy Core.key c acc) []).map Core.id).filter fun c =>
    let k := s.getCore c
    k.running != 0 &&
      (match s.corePid c with
      | none => false
      | some p => s.coreOpen p c && (s.freeSlotOf p c).isSome && k.prep.length < 2 &&
          (match s.readyFor p c, k.bottomRecord with
          | some r, some b => !s.readyFirst r b
          | none, some _ => true
          | some _, none => false
          | none, none => !(s.part p).regs.detctl.getLsbD 0 && (s.findVictim p c).isSome))

/-- The turns of one round. -/
def State.round (s : State) : List Turn :=
  s.busyCores.map Turn.core ++ (s.aheadCores.map fun c => Turn.poll (.coreSelectWork c)) ++ (s.busyStreams.map fun p => Turn.stream p.1 p.2) ++ s.waits.map Turn.poll ++ s.overQuanta.map fun p => Turn.poll (.quantumEnd p)

/-- The core that a cluster wakes for a ready task where none of the partition's is awake. -/
def State.coreToWake (s : State) : Option (BitVec 16) :=
  s.clusters.findSome? fun c =>
    if c.awake then
      match c.ready with
      | t :: _ =>
        let cs := s.partCores (s.getTask t).pid c.id
        if (s.part (s.getTask t).pid).run && cs.all fun k => !(s.getCore k).awake && !(s.getCore k).waking then cs.head? else none
      | [] => none
    else none

/-- A core or a cluster that has nothing to do is gated (R65, R66). (DESIGN CHOICE, assumption 31) -/
def State.toGate (s : State) : Option Ev :=
  match s.allCores.find? fun k => (s.corePid k.id).isSome && s.coreIdle k.id with
  | some k => some (.coreGate k.id)
  | none =>
    match s.clusters.find? fun c => s.clusterIdle c.id && (two.any fun p => (s.part p).run && s.clusterInPart p c.id) && c.futs.all fun f => s.hasSpill f.pid with
    | some c => some (.clusterGate c.id)
    | none => none

/-- Nothing has a turn: waiters of a lock look again, something is gated, or time passes. -/
def idleStep (s : State) : Plan :=
  match s.toGate with
  | some e => .act e.instr { s with ev := some e }
  | none =>
    match s.adoptIn with
    | some n => .settled { s with clock := s.clock + n }
    | none => .settled s

/-- A round in which no core has a turn: time passes, and an idle core or cluster is gated or not yet (R65, R66; DESIGN CHOICE,
assumptions 4 and 31). -/
def quietRound (s : State) : Plan :=
  let n := s.freeCount
  let t := { s with freeCount := n + 1, turns := s.round, clock := s.clock + 1 + Config.cycles n }
  match s.toGate with
  | some e => if Config.freeBit n then .act e.instr { t with ev := some e } else .settled t
  | none => .settled t

/-- A new round. -/
def newRound (s : State) : Plan :=
  match s.adoptDue with
  | some t => .act .capsuleAdoptTimer { s with ev := some (.capsuleAdoptTimer t) }
  | none =>
    match s.coreToWake with
    | some c => .settled (s.wakeCore c)
    | none =>
      if s.round.isEmpty then idleStep s
      else if s.busyCores.isEmpty then quietRound s
      else .settled { s with turns := s.round }

/-- One turn. -/
def oneTurn (s : State) (t : Turn) : Plan :=
  match t with
  | .core c => coreTurn s c
  | .stream p n =>
    match s.streamTurn p n with
    | (u, some i) => .act i u
    | (u, none) => .settled u
  | .poll e => .act e.instr { s with ev := some e }

/-- The device has stopped, and the next event is none that it still answers (R396). (DEDUCED, assumption 72) -/
def State.down (s : State) : Bool := s.stopped && !(match s.agenda with | e :: _ => mgmtEv e | [] => false)

/-- Only the management controller answers: the main side is down, or the device is in recovery (R425, R426). -/
def State.mgmtOnly (s : State) : Bool := s.recovery || s.power == 0

/-- What the device does next. -/
def plan (s : State) : Plan :=
  match s.agenda with
  | e :: es => if s.mgmtOnly && !mgmtEv e then .settled { s with agenda := es } else .act e.instr { s with agenda := es, ev := some e }
  | [] =>
    if s.mgmtOnly then .settled s
    else if s.power < 6 then .act .powerUp { s with ev := some .powerUp }
    else
      match s.turns with
      | [] => newRound s
      | t :: ts => oneTurn { s with turns := ts } t

/-! ### After a step (R70, R105, R106, R125) -/

/-- A core whose task has left it since `s` has a turn: it looks for work once, and a search that finds none ends (R69, R70).
(DEDUCED, assumption 44) -/
def State.ranDry (t s : State) : State :=
  let dry := s.allCores.filter fun k => k.running != 0 && (t.getCore k.id).running == 0
  { t with turns := t.turns ++ dry.map fun k => Turn.core k.id }

/-- The instruction retired, or its task left for good. -/
def retiredIn (t u : State) : Bool := u.me.tid != t.me.tid || u.me.retired != t.me.retired

/-- What follows an instruction on its core: time, and lookahead where it retired. -/
def State.after (t : State) (h : Header) (i : Instr) (u : State) : State :=
  let u := if u.me.tid = t.me.tid && u.me.retired != t.me.retired then u.noteShadow h i (t.guardHolds h) else u
  let u := match u.core.leader with
    | some l => if retiredIn t u then u.checkMember (u.getTask (u.getCore l).running).pc else u
    | none => u
  u.tick

end Sys2Proof.Machine
end

