-- ==== Sys2Proof/Machine/Step.lean ====
section
/-!
DEFINITION. One step of the device, and the placing of one instruction where a step fetches it.
-/

namespace Sys2Proof.Machine

/-- An instruction executes where its guard holds; else it only retires (R89). -/
def runGuarded (h : Header) (i : Instr) (s : State) : Host.Outcome State Fault Refusal :=
  if s.guardHolds h then exec i s else .next s.advance

/-- The word issues in each member of a stream, in core order (R105). -/
def runMembers (h : Header) (i : Instr) (leader : BitVec 16) : List (BitVec 16) → State → State
  | [], s => s.activate leader
  | m :: ms, s =>
    let t := s.activate m
    let u := match runGuarded h i t with
      | .next u => t.after h i u
      | _ => t
    runMembers h i leader ms (u.activate leader)

/-- The step. -/
def step (s : State) : Host.Outcome State Fault Refusal :=
  if s.down then .fault .deviceStopped
  else
    match plan s with
    | .settled t => .next (t.ranDry s)
    | .act i t =>
      match exec i t with
      | .next u => .next (u.ranDry s)
      | o => o
    | .issue h i t =>
      match runGuarded h i t with
      | .next u =>
        let v := t.after h i u
        .next ((if retiredIn t u then runMembers h i t.core.id t.core.members v else v).ranDry s)
      | o => o

/-! ### One instruction in place (DEDUCED, assumption 6) -/

/-- The address table entry, the tables and the leaf of 512 MiB that map the PC's region, and the word. -/
def placeWord (m : Memory) (astab asid pc w : Nat) : Memory :=
  let m := m.write (astab + 16 * asid) 16 (1 + 0x200000)
  let m := m.write (0x200000 + 8 * (pc / 2 ^ 55 % 512)) 8 (1 + 0x210000)
  let m := m.write (0x210000 + 8 * (pc / 2 ^ 42 % 8192)) 8 (1 + 0x220000)
  let m := m.write (0x220000 + 8 * (pc / 2 ^ 29 % 8192)) 8 (3 + 0x780 + 0x3000 + 2 ^ 29)
  m.write (2 ^ 29 + pc % 2 ^ 29) 12 w

/-- The instruction of `nbits` bits `w` stands where the next step fetches: a device that has come up runs a task with system
privilege whose PC names it. -/
def State.withFetchWord (s : State) (nbits w : Nat) : State :=
  let n : BitVec 32 := if s.nextTid = 0 then 1 else s.nextTid
  let t : Task := if s.me.tid = 0 then { tid := n, st := .running } else s.me
  let t := { t with budget := 0xFFFF, capsule := false, mctx := none, reissue := [] }
  { s with
    me := t
    nextTid := if s.me.tid = 0 then n + 1 else s.nextTid
    core := { s.core with
      running := t.tid, awake := true, halted := false, leader := none, members := [], icache := [], tlb := [], boundary := false, mx := s.core.mx.unbind }
    power := 6, stopped := false, recovery := false, agenda := [], turns := [.core s.core.id], outs := [], waits := []
    parts := wr s.parts t.pid { rd s.parts t.pid with run := true, sysasid := t.asid }
    clusters := [], slices := []
    mem := placeWord s.mem (rd s.parts t.pid).astab t.asid.toNat t.pc.toNat (w % 2 ^ Nat.min nbits 96) }

end Sys2Proof.Machine
end

