-- ==== Sys2Proof/Safety.lean ====
section
/-!
DEFINITION. The terms of the statements: well-formed memories, what one retired instruction changes beside its own effect, and an
instruction that completes.
-/

namespace Sys2Proof.Machine

/-- Every memory of the device is in its canonical form. -/
def State.memWf (s : State) : Prop := s.mem.wf = true ∧ s.cm.wf = true ∧ s.sp.wf = true ∧ s.ls.wf = true

/-- `t` is the state `u` after its running task has retired one instruction and goes on at `pc`; `k` is 1 for an instruction that
counts in MCLK and CCLK (R211). Nothing changes but the PC, the counts of retired instructions, MCLK and CCLK, the requests that the
task itself is done with, and events that stand behind those that stood before: the quantum's end of a DET task (R78) and the ageing
sweep (R214). -/
structure Retired (u t : State) (pc : Word) (k : Nat := 0) : Prop where
  me : t.me = { u.me with
    pc := pc, retired := u.me.retired + 1, mclk := u.me.mclk + BitVec.ofNat 48 k
    cap := if u.me.capsule then { u.me.cap with instrs := u.me.cap.instrs + 1 } else u.me.cap }
  core : t.core = { u.core with retiredDet := t.core.retiredDet, cclk := u.core.cclk + BitVec.ofNat 32 k }
  agenda : ∃ es, t.agenda = u.agenda ++ es ∧ (k = 0 → u.me.det = false → es = [])
  outs : t.outs.Sublist u.outs ∧ ∀ o ∈ u.outs, o.tid ≠ u.me.tid → o ∈ t.outs
  rest : t = { u with me := t.me, core := t.core, agenda := t.agenda, outs := t.outs }

/-- `i` completes: `exec` answers a next state, which is `u` (the state `s` with the instruction's own effect) after the instruction
has retired, and the task goes on at `pc`. -/
def Goes (i : Instr) (s u : State) (pc : Word) (k : Nat := 0) : Prop := ∃ t, exec i s = .next t ∧ Retired u t pc k

/-- `i` completes, its own effect is the state `u`, and the task goes on at the next word. -/
def Completes (i : Instr) (s u : State) (k : Nat := 0) : Prop := Goes i s u (s.pc + 12) k

/-! ### Hypotheses on the state -/

/-- The running task has nothing under way that an instruction would wait for or that would add to its effect: its matrix queue is
empty (R200), its matrix stores are visible (R198), it is not replayable (R252) and has staged nothing, not DET (R278), and no
collective or request to another device is outstanding (R276, R421). -/
structure State.Calm (s : State) : Prop where
  idle : s.mxBusy = false
  shade : s.core.mx.shade = []
  replayable : s.me.replayable = false
  det : s.me.det = false
  colls : s.colls = []
  outs : s.outs = []
  staged : s.me.staged = []

/-- The TLBs that the active core uses for a VA (R223). -/
def State.tlbsFor (s : State) (va : Word) : List TlbEnt :=
  let bank := s.getSlice (s.l3Bank s.me.asid va.toNat)
  (s.getCore s.core.id).tlb ++ (s.getCluster (clusterOf s.core.id)).tlb ++ (bank.tlb ++ bank.pins.map (·.1))

/-- The tables of the running task map `va` for the access by the leaf `l` (R220), no fault of the page is pending (R224), and every TLB
entry for it that admits the access says what the tables say (R223). -/
structure Mapped (s : State) (va : Word) (acc : Access) (l : Leaf) : Prop where
  quiet : s.pendingFault (clusterOf s.core.id) s.me.pid s.me.asid va = none
  walk : s.walk s.me.pid s.me.asid (s.privileged s.me) va acc = .ok l
  tlb : ∀ e ∈ s.tlbsFor va, e.pid = s.me.pid → e.asid = s.me.asid → e.page = va.toNat / 2 ^ e.log → entAllows e (s.privileged s.me) acc = true →
    l.place = e.place va

/-- The state after translation by the running task: what a walk reads and sets, and the TLBs (R217, R222, R223). -/
def State.translated (s : State) (va : Word) (acc : Access) : State :=
  (s.translateAs s.core.id s.me.pid s.me.asid (s.privileged s.me) va acc).1

/-- n bytes at a place whose home is reachable, and no line of them has an error (R230, R406). -/
structure Good (s : State) (p : Phys) (n : Nat) : Prop where
  home : s.lostHome p n = false
  lines : s.badLine p.key n = none

/-- No core holds a reduction copy or a partial of any line (R206), so that no access combines one. -/
def State.NoPartials (s : State) : Prop := s.core.ulines = [] ∧ ∀ k ∈ s.cores, k.ulines = []

/-- Nothing waits for a write of memory: no watch entry (R310), no lock waiter (R332). -/
def State.NoWatch (s : State) : Prop := s.capWaits = [] ∧ ∀ sl ∈ s.slices, sl.watch = [] ∧ sl.marks = []

/-- `t` is `s` but for what accesses leave behind in caches, directories and TLBs, the free choices of full directories, and events of their
counters behind those that stood before. -/
structure CacheOnly (s t : State) : Prop where
  rest : t = { s with core := t.core, cores := t.cores, clusters := t.clusters, slices := t.slices, agenda := t.agenda, freeCount := t.freeCount }
  agenda : ∃ es, t.agenda = s.agenda ++ es
  core : t.core = { s.core with l1d := t.core.l1d, ulines := t.core.ulines, tlb := t.core.tlb }
  cores : ∀ c, t.getCore c = { s.getCore c with l1d := (t.getCore c).l1d, ulines := (t.getCore c).ulines, tlb := (t.getCore c).tlb }
  cluster : ∀ c, t.getCluster c = { s.getCluster c with tlb := (t.getCluster c).tlb }
  slice : ∀ n, t.getSlice n = { s.getSlice n with
    served := (t.getSlice n).served, lines := (t.getSlice n).lines, hinted := (t.getSlice n).hinted, tlb := (t.getSlice n).tlb
    dir := (t.getSlice n).dir }
  noPartials : s.NoPartials → t.NoPartials
  noWatch : s.NoWatch → t.NoWatch

/-- n bytes of global memory at `va` within one page of this device, in a window that its layer's role gives (R219), mapped by the leaf
`l` whose A (and D) bits stand, that a calm task may access at once. -/
structure Reaches (s : State) (va : Word) (n : Nat) (acc : Access) (l : Leaf) : Prop where
  calm : s.Calm
  page : va.toNat % 65536 + n ≤ 65536
  some : 0 < n
  map : Mapped s va acc l
  used : l.marked acc = true
  noPartials : s.NoPartials
  here : l.place.kind ≠ 3 ∧ l.place.kind ≠ 4
  window : s.windowBad l.place = false

/-- n bytes written at a place: an error of a line that they cover whole is gone, any other stays (R230). -/
def State.put (s : State) (p : Phys) (n v : Nat) : State :=
  let whole (l : Nat) : Bool := decide (p.key ≤ l * 64 ∧ l * 64 + 64 ≤ p.key + n)
  { s with mem := s.mem.write p.key n v, poison := s.poison.filter (!whole ·), latent := s.latent.filter (!whole ·) }

/-- The state after a store of n bytes at a place; the copy engine may still see the old ones (R251). -/
def State.stored (s : State) (p : Phys) (n v : Nat) : State := (s.put p n v).noteStore p.key n (s.mem.read p.key n)

/-- n bytes at `ea` of a local space (1 scratchpad, 2 cluster memory, 3 lane slices) that a calm task may access at once (R227 to R229):
inside the space, aligned, and in READY tiles of the task. -/
structure Local (s : State) (space : BitVec 2) (ea : Word) (n align : Nat) : Prop where
  calm : s.Calm
  notGlobal : space ≠ 0
  bound : ea.toNat + n ≤ if space = 1 then 0x1C000 else if space = 2 then 0x800000 else 0x2000
  aligned : ea.toNat % align = 0
  reach : space = 2 → ∀ f, ea.toNat / 4096 ≤ f → f ≤ (ea.toNat + n - 1) / 4096 → ∃ t, s.ownTile f = some t ∧ t.failed = false ∧ t.st = .ready
  some : 0 < n

/-- No line of n bytes of a local space has an error. -/
def State.localGood (s : State) (space : BitVec 2) (ea : Word) (n : Nat) : Prop :=
  ∀ a ∈ localLines (localStore space) (s.localKey space ea) n, a ∉ s.localPoison ∧ a ∉ s.localLatent

/-- The memory that holds a local space, replaced. -/
def State.localPut (s : State) (space : BitVec 2) (m : Memory) : State :=
  if space = 1 then { s with sp := m } else if space = 2 then { s with cm := m } else { s with ls := m }

/-- The state after a store of n bytes in a local space none of whose lines has an error. -/
def State.localStored (s : State) (space : BitVec 2) (ea : Word) (n v : Nat) : State :=
  s.localPut space ((s.localMem space).write (s.localKey space ea) n v)

/-- After the translation of `va`, whose leaf is `l`, the TLBs translate `va'` as the tables do (by `l'`), where one of their entries
covers it (R223). -/
def State.Together (s : State) (va : Word) (l : Leaf) (va' : Word) (l' : Leaf) : Prop :=
  ∀ e ∈ l.ent :: s.tlbsFor va, e.pid = s.me.pid → e.asid = s.me.asid → e.page = va'.toNat / 2 ^ e.log → e.place va' = l'.place

/-- Every TLB entry used for a VA covers at least the 64 KiB page that it lies in (R220). -/
def State.Paged (s : State) (va : Word) : Prop := ∀ e ∈ s.tlbsFor va, 16 ≤ e.log

/-- The handle names the entry `f` of a future table of this device, whose cluster is awake (R31, R32, R285). -/
structure HasFut (s : State) (h : Word) (f : Fut) : Prop where
  ok : s.handleCause h = none
  dev : hDev h = s.deviceId
  entry : (s.getCluster (hCl h)).futs.find? (fun f => f.ent == hEnt h && f.gen == hGen h) = some f
  kept : f.free = false
  awake : (s.getCluster (hCl h)).awake = true

/-- The state after the entry of a handle was looked up and became `f`. -/
def State.withFut (s : State) (h : Word) (f : Fut) : State :=
  ({ s with stamp := s.stamp + 1 } : State).onCluster (hCl h) fun c =>
    { c with futs := c.futs.map fun x => if x.ent == hEnt h && x.gen == hGen h then { f with used := s.stamp } else x }

/-- The entry of a handle after an instruction. -/
def State.futOf (s : State) (h : Word) : Option Fut := (s.getCluster (hCl h)).futs.find? fun f => f.ent == hEnt h && f.gen == hGen h

/-- REC of a copy names no record, or one that the task may read and that R25 admits; TW5 is 0 in it (R246, R249). -/
def RecNamed (s : State) (r : GReg) (rec8 : Option (Vector Word 8)) : Prop :=
  r = 0 ∧ rec8 = none ∨
  r ≠ 0 ∧ (s.g r).toNat % 64 = 0 ∧ ∃ l, Reaches s (s.g r) 64 .read l ∧ Good s l.place 64 ∧
    let w : Vector Word 8 := Vector.ofFn fun i => BitVec.ofNat 64 (s.mem.read l.place.key 64 / 2 ^ (64 * i.val))
    recordCause w = none ∧ rec8 = some (w.set 5 0)

end Sys2Proof.Machine
end

