-- ==== Sys2Proof/Certificates/Slice0/Obligations.lean ====
section
/-!
DEFINITION. The statements for the provers. Each says what the manual's rule says of the machine, for every state and operand
that meets its hypotheses. `Completes i s u` says that `exec i s` answers the state `u` after the instruction has retired, so that
everything `u` does not change is unchanged: the frame stands in the equation.
-/

open Sys2Proof Sys2Proof.Machine

/-! ### Integer and predicate instructions -/

/-- R134: the results of the integer register group but its divisions. Each writes gd (g0 discards, see RegisterFiles), changes nothing else, and the task
goes on at the next word. R134, R136: the immediate group. -/
def Obligations.IntegerResults : Prop :=
  (∀ (s : State) (d : GReg) (a b : GK),
    Completes (.add d a b) s (s.setG d (s.gk a + s.gk b)) ∧
    Completes (.sub d a b) s (s.setG d (s.gk a - s.gk b)) ∧
    Completes (.mul d a b) s (s.setG d (s.gk a * s.gk b)) ∧
    Completes (.mulh d a b) s (s.setG d (BitVec.ofInt 64 (((s.gk a).toInt * (s.gk b).toInt) >>> (64 : Nat)))) ∧
    Completes (.mulhn d a b) s (s.setG d (BitVec.ofNat 64 (((s.gk a).toNat * (s.gk b).toNat) >>> 64))) ∧
    Completes (.and d a b) s (s.setG d (s.gk a &&& s.gk b)) ∧
    Completes (.or d a b) s (s.setG d (s.gk a ||| s.gk b)) ∧
    Completes (.xor d a b) s (s.setG d (s.gk a ^^^ s.gk b)) ∧
    Completes (.andn d a b) s (s.setG d (s.gk a &&& ~~~(s.gk b))) ∧
    Completes (.shl d a b) s (s.setG d (s.gk a <<< ((s.gk b).extractLsb' 0 6).toNat)) ∧
    Completes (.shr d a b) s (s.setG d (s.gk a >>> ((s.gk b).extractLsb' 0 6).toNat)) ∧
    Completes (.sha d a b) s (s.setG d ((s.gk a).sshiftRight ((s.gk b).extractLsb' 0 6).toNat))) ∧
  (∀ (s : State) (d : GReg) (q : QReg) (a : GK) (imm : BitVec 40) (sh : BitVec 6) (im : BitVec 36) (cc : BitVec 4),
    Completes (.addi d a imm) s (s.setG d (s.gk a + imm.signExtend 64)) ∧
    Completes (.muli d a imm) s (s.setG d (s.gk a * imm.signExtend 64)) ∧
    Completes (.andi d a imm) s (s.setG d (s.gk a &&& imm.signExtend 64)) ∧
    Completes (.ori d a imm) s (s.setG d (s.gk a ||| imm.signExtend 64)) ∧
    Completes (.xori d a imm) s (s.setG d (s.gk a ^^^ imm.signExtend 64)) ∧
    Completes (.shli d a sh) s (s.setG d (s.gk a <<< sh.toNat)) ∧
    Completes (.shri d a sh) s (s.setG d (s.gk a >>> sh.toNat)) ∧
    Completes (.shai d a sh) s (s.setG d ((s.gk a).sshiftRight sh.toNat)) ∧
    Completes (.ldi d imm) s (s.setG d (imm.signExtend 64)) ∧
    Completes (.ldhi d a imm) s (s.setG d ((imm.setWidth 64 <<< 24) ||| (s.gk a &&& 0xFFFFFF))) ∧
    (cc.toNat < 12 → Completes (.cmpi q a im cc) s (s.setQ q (cmpWord cc (s.gk a) (im.signExtend 64)))))

/-- R135: a division by 0 traps ARITH-I.divzero with TVAL = a and leaves gd (the next state is that of the trap); any other division completes with the
quotient truncated towards zero, or the remainder that has the sign of a; −2^63 by −1 gives −2^63 and 0. The high products of −1 and 2 are −1 and 1. -/
def Obligations.Divisions : Prop :=
  (∀ (s : State) (d : GReg) (a b : GK), s.gk b ≠ 0 →
    Completes (.div d a b) s (s.setG d (BitVec.ofInt 64 ((s.gk a).toInt.tdiv (s.gk b).toInt))) ∧
    Completes (.divn d a b) s (s.setG d (BitVec.ofNat 64 ((s.gk a).toNat / (s.gk b).toNat))) ∧
    Completes (.rem d a b) s (s.setG d (BitVec.ofInt 64 ((s.gk a).toInt.tmod (s.gk b).toInt))) ∧
    Completes (.remn d a b) s (s.setG d (BitVec.ofNat 64 ((s.gk a).toNat % (s.gk b).toNat)))) ∧
  (∀ (s : State) (d : GReg) (a b : GK), s.gk b = 0 → s.mxBusy = false →
    ∀ i ∈ [Instr.div d a b, .divn d a b, .rem d a b, .remn d a b], exec i s = .next (s.deliver 0x128 (s.gk a) s.pc)) ∧
  (∀ (s : State) (d : GReg) (a b : GK), s.gk a = 0x8000000000000000 → s.gk b = BitVec.allOnes 64 →
    Completes (.div d a b) s (s.setG d 0x8000000000000000) ∧ Completes (.rem d a b) s (s.setG d 0)) ∧
  (∀ (s : State) (d : GReg) (a b : GK), s.gk a = BitVec.allOnes 64 → s.gk b = 2 →
    Completes (.mulh d a b) s (s.setG d (BitVec.allOnes 64)) ∧ Completes (.mulhn d a b) s (s.setG d 1))

/-- R137: CMP sets every bit of qd to the truth of the condition that its cc names. R138: the other members of the compare and bit group. CLZ and CTZ are
said by what the counted bits are. R140: the predicate group. -/
def Obligations.CompareBitAndPredicateResults : Prop :=
  (∀ (s : State) (d : QReg) (a b : GK),
    let x := s.gk a
    let y := s.gk b
    let sets (cc : BitVec 4) (p : Bool) : Prop := Completes (.cmp d a b cc) s (s.setQ d (if p then BitVec.allOnes 64 else 0))
    sets 0 (x == y) ∧ sets 1 (x != y) ∧ sets 2 (decide (x.toInt < y.toInt)) ∧ sets 3 (decide (y.toInt ≤ x.toInt)) ∧
    sets 4 (decide (x.toNat < y.toNat)) ∧ sets 5 (decide (y.toNat ≤ x.toNat)) ∧ sets 6 (decide (y.toInt < x.toInt)) ∧
    sets 7 (decide (x.toInt ≤ y.toInt)) ∧ sets 8 (decide (y.toNat < x.toNat)) ∧ sets 9 (decide (x.toNat ≤ y.toNat)) ∧
    sets 10 (x &&& y == 0) ∧ sets 11 (x &&& y != 0)) ∧
  (∀ (s : State) (d : GReg) (a b : GK) (r : GReg) (pos len n : BitVec 6),
    Completes (.sel d a b) s (s.setG d ((s.gk a &&& s.g d) ||| (s.gk b &&& ~~~(s.g d)))) ∧
    Completes (.min d a b) s (s.setG d (if (s.gk a).toInt ≤ (s.gk b).toInt then s.gk a else s.gk b)) ∧
    Completes (.max d a b) s (s.setG d (if (s.gk b).toInt ≤ (s.gk a).toInt then s.gk a else s.gk b)) ∧
    Completes (.minn d a b) s (s.setG d (if (s.gk a).toNat ≤ (s.gk b).toNat then s.gk a else s.gk b)) ∧
    Completes (.maxn d a b) s (s.setG d (if (s.gk b).toNat ≤ (s.gk a).toNat then s.gk a else s.gk b)) ∧
    (∃ k : Nat, Completes (.clz d r) s (s.setG d (BitVec.ofNat 64 k)) ∧ k ≤ 64 ∧ (k = 64 ↔ s.g r = 0) ∧
      (∀ i < k, (s.g r).getLsbD (63 - i) = false) ∧ (k < 64 → (s.g r).getLsbD (63 - k) = true)) ∧
    (∃ k : Nat, Completes (.ctz d r) s (s.setG d (BitVec.ofNat 64 k)) ∧ k ≤ 64 ∧ (k = 64 ↔ s.g r = 0) ∧
      (∀ i < k, (s.g r).getLsbD i = false) ∧ (k < 64 → (s.g r).getLsbD k = true)) ∧
    Completes (.popc d r) s (s.setG d (BitVec.ofNat 64 ((List.range 64).countP fun i => (s.g r).getLsbD i))) ∧
    (∃ v : Word, Completes (.bext d r pos len false) s (s.setG d v) ∧
      ∀ i < 64, v.getLsbD i = (decide (i ≤ len.toNat) && (s.g r).getLsbD (pos.toNat + i))) ∧
    (∃ v : Word, Completes (.bext d r pos len true) s (s.setG d v) ∧
      ∀ i < 64, v.getLsbD i = (s.g r).getLsbD (pos.toNat + Nat.min i len.toNat)) ∧
    (∃ v : Word, Completes (.bins d a pos len) s (s.setG d v) ∧
      ∀ i < 64, v.getLsbD i = if pos.toNat ≤ i ∧ i ≤ pos.toNat + len.toNat then (s.gk a).getLsbD (i - pos.toNat) else (s.g d).getLsbD i) ∧
    Completes (.abs d r) s (s.setG d (if (s.g r).toInt < 0 then 0 - s.g r else s.g r)) ∧
    (∃ v : Word, Completes (.sext d r n) s (s.setG d v) ∧ ∀ i < 64, v.getLsbD i = (s.g r).getLsbD (Nat.min i n.toNat)) ∧
    (∃ v : Word, Completes (.zext d r n) s (s.setG d v) ∧ ∀ i < 64, v.getLsbD i = (decide (i ≤ n.toNat) && (s.g r).getLsbD i))) ∧
  (∀ (s : State) (d a b : QReg) (g : GReg) (k : GK) (imm : BitVec 40),
    Completes (.pand d a b) s (s.setQ d (s.q a &&& s.q b)) ∧
    Completes (.por d a b) s (s.setQ d (s.q a ||| s.q b)) ∧
    Completes (.pxor d a b) s (s.setQ d (s.q a ^^^ s.q b)) ∧
    Completes (.pnot d a) s (s.setQ d (~~~(s.q a))) ∧
    Completes (.pmov d a) s (s.setQ d (s.q a)) ∧
    Completes (.qmov (.toG g a)) s (s.setG g (s.q a)) ∧
    Completes (.qmov (.toQ d g)) s (s.setQ d (s.g g)) ∧
    Completes (.pany d a b) s (s.setQ d (if s.q a &&& s.q b ≠ 0 then BitVec.allOnes 64 else 0)) ∧
    Completes (.pall d a b) s (s.setQ d (if s.q a &&& s.q b = s.q b then BitVec.allOnes 64 else 0)) ∧
    (∃ v : Word, Completes (.pset d k imm) s (s.setQ d v) ∧
      ∀ i < 64, v.getLsbD i = decide ((i : Int) < (s.gk k).toInt + imm.toInt)))

/-- R139: LEA forms the effective address of R97, LEA2 one whose scale is its MOD field, and GETID reads the eight identities. R129, R132, R106: NOP has
no effect; GETMC reads MCLK; SETNUD writes NUDDEF, and code 0 brings the partition's default back; IFENCE discards the core's instruction lines of the
task's ASID and nothing else; LEAVE takes the core out of its stream. -/
def Obligations.AddressesAndMiscellaneous : Prop :=
  (∀ (s : State) (d : GReg) (a b : GK) (x : MX),
    Completes (.lea d a b x) s (s.setG d (s.gk a + (s.gk b <<< x.scale.toNat) + x.disp.signExtend 64)) ∧
    Completes (.lea2 d a b x) s (s.setG d (s.gk a + (s.gk b <<< x.mod.toNat) + x.disp.signExtend 64)) ∧
    Completes (.getid d 0) s (s.setG d (s.core.id.setWidth 64)) ∧
    Completes (.getid d 1) s (s.setG d ((s.core.id.extractLsb' 5 8).setWidth 64)) ∧
    Completes (.getid d 2) s (s.setG d ((s.core.id.extractLsb' 2 3).setWidth 64)) ∧
    Completes (.getid d 3) s (s.setG d (BitVec.ofNat 64 (s.logicalCore s.me.pid s.core.id))) ∧
    Completes (.getid d 4) s (s.setG d (s.me.pid.setWidth 64)) ∧
    Completes (.getid d 5) s (s.setG d (s.deviceId.setWidth 64)) ∧
    Completes (.getid d 6) s (s.setG d (s.me.asid.setWidth 64)) ∧
    Completes (.getid d 7) s (s.setG d (s.me.tid.setWidth 64))) ∧
  (∀ (s : State) (d : GReg) (c : BitVec 6),
    Completes .nop s s ∧
    Completes (.getmc d) s (s.setG d (s.me.mclk.setWidth 64)) ∧
    (c ≠ 0 → Completes (.setnud c) s { s with me := { s.me with nuddef := c } }) ∧
    Completes (.setnud 0) s { s with me := { s.me with nuddef := if (s.part s.me.pid).nuddef = 0 then 32 else (s.part s.me.pid).nuddef } } ∧
    Completes .ifence s { s with core := { s.core with icache := s.core.icache.filter fun l => l.asid != s.me.asid } } ∧
    Completes .leave s s.breakStream ∧ s.breakStream.core.members = [] ∧ s.breakStream.core.leader = none ∧ s.breakStream.me = s.me)

/-- R116: g0 reads 0 and q0 reads all ones, both discard writes; every other register reads what was written to it last, and a write changes no other
register and nothing else of the task. R2, R202: a memory gives back the bytes that were written to it last, a wider value in little-endian order, and
a write changes no other byte. -/
def Obligations.RegistersAndBytes : Prop :=
  ((∀ (s : State) (d r : GReg) (v : Word),
    s.g 0 = 0 ∧ s.setG 0 v = s ∧ (d ≠ 0 → (s.setG d v).g d = v) ∧ (r ≠ d → (s.setG d v).g r = s.g r) ∧
    (s.setG d v).me = { s.me with g := (s.setG d v).me.g } ∧ (s.setG d v) = { s with me := (s.setG d v).me }) ∧
  (∀ (s : State) (d r : QReg) (v : Word),
    s.q 0 = BitVec.allOnes 64 ∧ s.setQ 0 v = s ∧ (d ≠ 0 → (s.setQ d v).q d = v) ∧ (r ≠ d → (s.setQ d v).q r = s.q r) ∧
    (s.setQ d v).me = { s.me with q := (s.setQ d v).me.q } ∧ (s.setQ d v) = { s with me := (s.setQ d v).me }) ∧
  (∀ (s : State) (d r : VReg) (v : Vec),
    (s.setV d v).v d = v ∧ (r ≠ d → (s.setV d v).v r = s.v r) ∧
    (s.setV d v).me = { s.me with v := (s.setV d v).me.v } ∧ (s.setV d v) = { s with me := (s.setV d v).me })) ∧
  (∀ (m : Memory) (a n v x : Nat) (b : Byte), m.wf = true →
    (m.set a b).get a = b ∧ (x ≠ a → (m.set a b).get x = m.get x) ∧
    (m.write a n v).read a n = v % 2 ^ (8 * n) ∧
    (x < a ∨ a + n ≤ x → (m.write a n v).get x = m.get x) ∧
    (∀ i < n, m.read a n / 2 ^ (8 * i) % 256 = (m.get (a + i)).toNat))

/-! ### Control, traps and system registers -/

/-- R85, R141: where the control group goes. A register target whose bits [1:0] are not zero traps CONTROL.target-align with the target as TVAL, and
leaves PC and gd. LOOP with gd = 0 writes all ones and branches. -/
def Obligations.ControlTransfers : Prop :=
  ∀ (s : State) (d a : GReg) (disp : BitVec 40),
    let target := s.pc + 12 * disp.signExtend 64
    Goes (.bra disp) s s target ∧
    Goes (.call d disp) s (s.setG d (s.pc + 12)) target ∧
    ((s.g a).extractLsb' 0 2 = 0 →
      Goes (.jmp a) s s (s.g a) ∧ Goes (.ret a) s s (s.g a) ∧ Goes (.callr d a) s (s.setG d (s.pc + 12)) (s.g a)) ∧
    ((s.g a).extractLsb' 0 2 ≠ 0 → s.mxBusy = false →
      ∀ i ∈ [Instr.jmp a, .ret a, .callr d a], exec i s = .next (s.deliver 0x030 (s.g a) s.pc)) ∧
    Goes (.loop d disp) s (s.setG d (s.g d - 1)) (if s.g d - 1 = 0 then s.pc + 12 else target)

/-- R129, R100, R131, R133: ILL and a word whose encoding names no instruction trap at themselves, TRAP n and BRK after themselves, and ERET outside a
handler traps CONTROL.eret. A trap is taken once the task's queued matrix commands have completed (R200). R133: ERET in a handler clears INTRAP and
goes to TPC; CAUSE, TVAL and THANDLER stay. (A held matrix queue goes on as R196 sets: here none is held.) -/
def Obligations.TrapInstructions : Prop :=
  (∀ (s : State) (n : BitVec 3) (a : GK) (imm : BitVec 40), s.mxBusy = false →
    exec .ill s = .next (s.deliver 0x011 s.pc s.pc) ∧
    exec .unassignedEncoding s = .next (s.deliver 0x010 s.pc s.pc) ∧
    exec (.trap n a) s = .next (s.retire.deliver (n.setWidth 9) (s.gk a) (s.pc + 12)) ∧
    exec (.brk imm) s = .next (s.retire.deliver 0x008 (imm.setWidth 64) (s.pc + 12)) ∧
    (s.me.intrap = false → exec .eret s = .next (s.deliver 0x031 s.pc s.pc))) ∧
  (∀ (s : State), s.me.intrap = true → s.core.mx.held = none →
    ∃ t, exec .eret s = .next t ∧ t.me.intrap = false ∧ t.pc = s.me.tpc ∧ t.me.cause = s.me.cause ∧ t.me.tval = s.me.tval ∧
      t.me.thandler = s.me.thandler ∧ t.me.g = s.me.g ∧ t.me.q = s.me.q ∧ t.me.v = s.me.v ∧ t.mem = s.mem ∧ t.tasks = s.tasks ∧
      t.cores = s.cores ∧ t.clusters = s.clusters ∧ t.parts = s.parts)

/-- R357: a handleable trap of a task with a handler that is not in it, outside a capsule: CAUSE, TVAL and TPC are written, INTRAP is set, the PC is the
handler's, the core has left its stream, and nothing else changes. R357, R362: a trap that no handler takes, not of class MEMERR-U or MEMERR-P, in a
partition that holds such tasks (HOLD = 1): the task parks TRAPPED with its cause, TVAL and resume point, its registers stand, and its core is free. -/
def Obligations.TrapDelivery : Prop :=
  (∀ (s : State) (c : Cause) (v a : Word),
    s.me.isHandler = false → s.me.capsule = false → s.me.thandler ≠ 0 → s.me.intrap = false →
    c.toNat / 8 ∉ [8, 9, 11, 21, 40, 41, 45, 47] →
    let t := s.deliver c v a
    t.me = { s.me with cause := c, tval := v, tpc := a, intrap := true, pc := s.me.thandler } ∧
      t = { s.breakStream with me := t.me }) ∧
  (∀ (s : State) (c : Cause) (v a : Word),
    s.me.isHandler = false → (s.me.thandler = 0 ∨ s.me.intrap = true ∨ s.me.capsule = true) → s.me.tid ≠ 0 →
    c.toNat / 8 ≠ 15 → c.toNat / 8 ≠ 16 → s.hold s.me.pid = true →
    let t := s.deliver c v a
    t.core.running = 0 ∧ t.me.tid = 0 ∧
      ∃ x, t.findTask s.me.tid = some x ∧ x.st = .trapped ∧ x.parkCause = c ∧ x.trapTval = v ∧ x.pc = a ∧
        x.g = s.me.g ∧ x.q = s.me.q ∧ x.v = s.me.v ∧ x.intrap = s.me.intrap)

/-- R122, R119: SYSR reads the task-level registers; those of R121 need system privilege. R122: what SYSR refuses: an unassigned index, then a system-
level register without system privilege. -/
def Obligations.SystemRegisterReads : Prop :=
  (∀ (s : State) (d : GReg),
    let t := s.me
    let r := (s.part t.pid).regs
    let reads (idx : BitVec 12) (v : Word) : Prop := Completes (.sysr d idx) s (s.setG d v)
    reads 0x000 (t.tid.setWidth 64) ∧ reads 0x001 t.self ∧ reads 0x002 (t.mclk.setWidth 64) ∧ reads 0x003 (t.budget.setWidth 64) ∧
    reads 0x004 (t.spawned.setWidth 64) ∧ reads 0x005 (t.cause.setWidth 64) ∧ reads 0x006 t.tval ∧ reads 0x007 t.tpc ∧
    reads 0x008 t.thandler ∧ reads 0x009 (t.nuddef.setWidth 64) ∧ reads 0x00A (t.smiss.setWidth 64) ∧
    reads 0x00B (t.laviol.setWidth 64) ∧ reads 0x010 (s.core.id.setWidth 64) ∧ reads 0x012 (t.asid.setWidth 64) ∧
    reads 0x013 (s.deviceId.setWidth 64) ∧
    (t.asid = (s.part t.pid).sysasid →
      reads 0x100 r.ftlimit ∧ reads 0x101 r.fspill ∧ reads 0x102 r.trapring ∧ reads 0x103 r.faultring ∧ reads 0x104 r.quant ∧
      reads 0x105 r.detctl ∧ reads 0x106 r.maxmsg ∧ reads 0x107 r.classtab ∧ reads 0x108 r.adoptdly ∧ reads 0x109 r.tenscale ∧
      reads 0x10A r.tencap ∧ reads 0x10B s.core.redtree ∧ reads 0x10C r.lotseed ∧ reads 0x10D r.budgetmax ∧ reads 0x10E r.watcharea)) ∧
  (∀ (s : State) (d : GReg) (idx : BitVec 12), s.mxBusy = false →
    ((0x00D ≤ idx.toNat ∧ idx.toNat ≤ 0x00F) ∨ (0x014 ≤ idx.toNat ∧ idx.toNat ≤ 0x0FF) ∨ 0x10F ≤ idx.toNat →
      exec (.sysr d idx) s = .next (s.deliver 0x025 (idx.setWidth 64) s.pc)) ∧
    (0x100 ≤ idx.toNat → idx.toNat ≤ 0x10E → s.me.asid ≠ (s.part s.me.pid).sysasid →
      exec (.sysr d idx) s = .next (s.deliver 0x029 (idx.setWidth 64) s.pc)))

/-- R122, R119: SYSR with XCHG swaps a task-level register with A, its reserved bits cleared; gd takes the old value. R122, R121: SYSW by a task with
system privilege writes a system-level register, its reserved bits cleared, where the value meets the map's limits. A write of LOTSEED also seeds the
lottery's generator (0 becomes 0x9E37_79B9), and one of TENSCALE sets Kt of every tenant of the partition. R122: a starred instruction without system
privilege traps PRIV.instruction. -/
def Obligations.SystemRegisterWrites : Prop :=
  (∀ (s : State) (d : GReg) (a : GK),
    let v := s.gk a
    let swaps (idx : BitVec 12) (old : Word) (me : Task) : Prop := Completes (.sysrX d a idx) s ({ s with me := me }.setG d old)
    swaps 0x005 (s.me.cause.setWidth 64) { s.me with cause := v.extractLsb' 0 9 } ∧
    swaps 0x006 s.me.tval { s.me with tval := v } ∧
    swaps 0x007 s.me.tpc { s.me with tpc := v &&& 0xFFFFFFFFFFFFFFFC } ∧
    swaps 0x008 s.me.thandler { s.me with thandler := v &&& 0xFFFFFFFFFFFFFFFC } ∧
    (v.extractLsb' 0 6 ≠ 0 → swaps 0x009 (s.me.nuddef.setWidth 64) { s.me with nuddef := v.extractLsb' 0 6 }) ∧
    swaps 0x00A (s.me.smiss.setWidth 64) { s.me with smiss := v.extractLsb' 0 32 } ∧
    swaps 0x00B (s.me.laviol.setWidth 64) { s.me with laviol := v.extractLsb' 0 32 }) ∧
  (∀ (s : State) (a : GK), s.me.asid = (s.part s.me.pid).sysasid →
    let v := s.gk a
    let regs (f : SysRegs → SysRegs) : State := s.onPart s.me.pid fun p => { p with regs := f p.regs }
    let area (lo hi : Nat) : Prop := v &&& 0xFFFFFFFFFFFFF000 = 0 ∨ (lo ≤ v.toNat % 64 ∧ v.toNat % 64 ≤ hi)
    (1 ≤ (v &&& 0x3FF).toNat → (v &&& 0x3FF).toNat ≤ 512 →
      Completes (.sysw 0x100 a) s (regs fun r => { r with ftlimit := v &&& 0x3FF })) ∧
    (area 9 24 → Completes (.sysw 0x101 a) s (regs fun r => { r with fspill := v &&& 0xFFFFFFFFFFFFF03F })) ∧
    (area 6 20 → Completes (.sysw 0x102 a) s (regs fun r => { r with trapring := v &&& 0xFFFFFFFFFFFFF03F })) ∧
    (area 3 20 → Completes (.sysw 0x103 a) s (regs fun r => { r with faultring := v &&& 0xFFFFFFFFFFFFF03F })) ∧
    (area 6 20 → Completes (.sysw 0x10E a) s (regs fun r => { r with watcharea := v &&& 0xFFFFFFFFFFFFF03F })) ∧
    (1 ≤ (v &&& 0xFFFFFFFFFF).toNat / 2 ^ 32 → 17 ≤ (v &&& 0xFFFFFFFF).toNat →
      Completes (.sysw 0x10D a) s (regs fun r => { r with budgetmax := v &&& 0xFFFFFFFFFF })) ∧
    (v &&& 1 = 0 → Completes (.sysw 0x105 a) s (s.onPart s.me.pid fun p =>
      { p with regs := { p.regs with detctl := 0 }, detMem := none, detFuts := [] })) ∧
    (1 ≤ (v &&& 0xFFFFFFFF).toNat → (v &&& 0xFFFFFFFF).toNat ≤ 2 ^ 31 →
      Completes (.sysw 0x104 a) s (regs fun r => { r with quant := v &&& 0xFFFFFFFF })) ∧
    (1 ≤ (v &&& 7).toNat → (v &&& 7).toNat ≤ 4 → Completes (.sysw 0x106 a) s (regs fun r => { r with maxmsg := v &&& 7 })) ∧
    Completes (.sysw 0x108 a) s (regs fun r => { r with adoptdly := v &&& 0xFFFFFFFF }) ∧
    Completes (.sysw 0x10A a) s (regs fun r => { r with tencap := v &&& 0x0000FFFF00FFFFFF }) ∧
    Completes (.sysw 0x10B a) s { s with core := { s.core with redtree := v &&& 0x8000000003FFFFFF } } ∧
    Completes (.syswLotseed a) s (s.onPart s.me.pid fun p =>
      { p with
        regs := { p.regs with lotseed := v &&& 0xFFFFFFFF }
        x := if v.extractLsb' 0 32 = 0 then 0x9E3779B9 else v.extractLsb' 0 32 }) ∧
    (0x10 ≤ (v &&& 0xFFFF).toNat → (v &&& 0xFFFF).toNat ≤ 0x1000 →
      Completes (.syswTenscale a) s
        { regs (fun r => { r with tenscale := v &&& 0xFFFF }) with
          slices := s.slices.map fun sl => { sl with
            tenants := sl.tenants.map fun t => if t.pid = s.me.pid then { t with kt := v.extractLsb' 0 16, samples := 0, unused := 0 } else t } })) ∧
  (∀ (s : State) (d a b : GReg) (g : GK) (idx : BitVec 12) (asid : BitVec 16),
    s.mxBusy = false → s.me.asid ≠ (s.part s.me.pid).sysasid →
    ∀ i ∈ [Instr.sysw idx g, .syswClasstab g, .syswLotseed g, .syswTenscale g, .tlbinvPage a asid, .tlbinvRange a b asid, .tlbinvAsid asid,
        .tlbinvAsidg asid, .tlbinvAll, .replayAll d, .replayResume d b, .replayFail d b, .ctxsave d a b, .ctxsaveT d a b, .ctxload d a,
        .ctxloadT d a b],
      exec i s = .next (s.deliver 0x028 s.pc s.pc))

/-- R104, R107: FOLLOW on a core that leads or follows writes all ones (0 in a task with DET set); a leader whose mates of the same ASID all wait at its
address opens the stream with those that wait there. R130: YIELD parks the task at the next instruction with reason YIELD where no pre-emption is
pending, and the core is free. -/
def Obligations.FollowAndYield : Prop :=
  ((∀ (s : State) (d : QReg), s.core.members ≠ [] ∨ s.core.leader ≠ none →
    Completes (.follow d) s (s.setQ d (if s.me.det then 0 else BitVec.allOnes 64))) ∧
  (∀ (s : State) (d : QReg), s.core.members = [] → s.core.leader = none → s.core.id &&& 0xFFFC = s.core.id →
    (∀ m ∈ cellMates s.core.id, (s.getCore m).running = 0 ∨ (s.getTask (s.getCore m).running).asid ≠ s.me.asid ∨
      (s.getCore m).waitsAt s.pc = true) →
    Completes (.follow d) s (s.openStream d)) ∧
  (∀ (s : State) (d : QReg), d ≠ 0 → s.core.id &&& 0xFFFC = s.core.id →
    let t := s.openStream d
    let joined := (cellMates s.core.id).filter fun m => (s.getCore m).waitsAt s.pc && (s.getCore m).leader.isNone
    t.core.members = joined ∧ t.q d = if joined = [] ∨ s.me.det = true then 0 else BitVec.allOnes 64)) ∧
  (∀ (s : State), s.mxBusy = false → s.me.isHandler = false → (s.part s.me.pid).stopping = false →
    s.heldCore s.me.pid s.core.id = false →
    ∃ t, exec .yield s = .next t ∧ t.me.tid = 0 ∧ t.core.running = 0 ∧
      (s.me.tid ≠ 0 → ∃ x, t.findTask s.me.tid = some x ∧ x.st = .parked ∧ x.pc = s.pc + 12 ∧ x.parkCause = 0x14B ∧
        x.g = s.me.g ∧ x.q = s.me.q ∧ x.v = s.me.v))

/-! ### Memory instructions -/

/-- R231, R227, R230: LD and LDA of good bytes write gd with the bytes at the address, sign-extended where S is set and zero-extended otherwise, and count
as a memory instruction. Beside that an access leaves traces in caches and TLBs alone. LDA needs an address that is a multiple of its size. R230,
R391: a load that meets a line already poisoned traps MEMERR-P.load; one that meets an error not yet found poisons the line, has it recorded, and
traps MEMERR-U.load with the failing address. gd stands in both. R220, R355: a load or store whose page the tables refuse with a cause of XLATE-NP or
XLATE-PERM parks the task in FAULT with the cause and the address; the instruction has had no effect and issues again after replay. -/
def Obligations.ScalarLoads : Prop :=
  (∀ (s : State) (d : GReg) (a b : GK) (x : MX) (l : Leaf),
    let ea := s.ea a b x
    let n := x.bytes
    let value (v : Nat) : Word := if x.mod.getLsbD 0 then (BitVec.ofNat (8 * n) v).signExtend 64 else BitVec.ofNat 64 v
    ((Instr.ld d a b x).wf = true → s.me.capsule = false → x.space = 0 → Reaches s ea n .read l → Good s l.place n →
      ∃ t, CacheOnly s t ∧ Completes (.ld d a b x) s (t.setG d (value (s.mem.read l.place.key n))) 1) ∧
    ((Instr.lda d a b x).wf = true → ea.toNat % n = 0 → Reaches s ea n .read l → Good s l.place n →
      ∃ t, CacheOnly s t ∧ Completes (.lda d a b x) s (t.setG d (value (s.mem.read l.place.key n))) 1) ∧
    ((Instr.ld d a b x).wf = true → s.me.capsule = false → Local s x.space ea n n → s.localGood x.space ea n →
      Completes (.ld d a b x) s (s.setG d (value ((s.localMem x.space).read (s.localKey x.space ea) n))) 1)) ∧
  (∀ (s : State) (d : GReg) (a b : GK) (x : MX) (l : Leaf) (line : Nat),
    (Instr.ld d a b x).wf = true → s.me.capsule = false → x.space = 0 →
    let ea := s.ea a b x
    let n := x.bytes
    Reaches s ea n .read l →
    (s.badLine l.place.key n = some (line, false) → ∃ t v, CacheOnly s t ∧
      exec (.ld d a b x) s = .next (({ t with freeCount := t.freeCount + 1 } : State).deliver 0x080 v s.pc)) ∧
    (s.badLine l.place.key n = some (line, true) → ∃ t, CacheOnly s t ∧
      exec (.ld d a b x) s = .next ((t.findError line).deliver 0x07B (firstIn ea l.place.key line) s.pc) ∧ line ∈ (t.findError line).poison)) ∧
  (∀ (s : State) (d : GReg) (a b : GK) (x : MX) (c : Cause), s.Calm → s.NoPartials → s.me.capsule = false → s.me.tid ≠ 0 → s.me.isHandler = false →
    x.space = 0 →
    let ea := s.ea a b x
    ea.toNat % 65536 + x.bytes ≤ 65536 → s.pendingFault (clusterOf s.core.id) s.me.pid s.me.asid ea = none → s.tlbsFor ea = [] →
    c.toNat / 8 = 8 ∨ c.toNat / 8 = 9 →
    (let parks (i : Instr) : Prop := ∃ t, exec i s = .next t ∧ t.core.running = 0 ∧ t.me.tid = 0 ∧ t.mem = s.mem ∧
        ∃ y, t.findTask s.me.tid = some y ∧ y.st = .fault ∧ y.parkCause = c ∧ y.parkArg = ea ∧ y.pc = s.pc ∧ y.g = s.me.g ∧ y.retired = s.me.retired
     ((s.part s.me.pid).regs.faultring = 0 →
      (s.walk s.me.pid s.me.asid (s.privileged s.me) ea .read = .error c → parks (.ld d a b x)) ∧
      (s.walk s.me.pid s.me.asid (s.privileged s.me) ea .write = .error c → parks (.st d a b x)))))

/-- R231, R227, R230: ST and STL write the low bytes of gd at the address, and nothing else but traces in caches and TLBs. A store that covers a whole
poisoned line clears it. STL needs an address that is a multiple of its size. R231, R227, R229: what scalar accesses refuse. LDA and STL at an address
that is no multiple of their size trap ALIGN.ordered with the address; an access of a local space traps OPERAND.space with the address beyond its
bound, and only then ALIGN.space (its TVAL is free); one of cluster memory outside the task's tiles traps TILE.reach with the address. R232: PREF and
DCWB change no value that an agent reads: caches and TLBs alone (and the A bit of the page, which stands set here). Where a fault of the page is
pending they do nothing at all. -/
def Obligations.ScalarStores : Prop :=
  (∀ (s : State) (d : GReg) (a b : GK) (x : MX) (l : Leaf),
    let ea := s.ea a b x
    let n := x.bytes
    let v := (s.g d).toNat % 2 ^ (8 * n)
    ((Instr.st d a b x).wf = true → s.me.capsule = false → x.space = 0 → Reaches s ea n .write l → s.NoWatch →
      ∃ t, CacheOnly s t ∧ Completes (.st d a b x) s (t.stored l.place n v) 1) ∧
    ((Instr.stl d a b x).wf = true → ea.toNat % n = 0 → Reaches s ea n .write l → s.NoWatch →
      ∃ t, CacheOnly s t ∧ Completes (.stl d a b x) s (t.stored l.place n v) 1) ∧
    ((Instr.st d a b x).wf = true → s.me.capsule = false → Local s x.space ea n n → s.localGood x.space ea n →
      Completes (.st d a b x) s (s.localStored x.space ea n v) 1)) ∧
  (∀ (s : State) (d : GReg) (a b : GK) (x : MX), s.mxBusy = false → s.me.capsule = false →
    let ea := s.ea a b x
    let n := x.bytes
    (ea.toNat % n ≠ 0 →
      exec (.lda d a b x) s = .next (s.deliver 0x039 ea s.pc) ∧ exec (.stl d a b x) s = .next (s.deliver 0x039 ea s.pc)) ∧
    (x.space ≠ 0 → ∀ i ∈ [Instr.ld d a b x, .st d a b x],
      let limit := if x.space = 1 then 0x1C000 else if x.space = 2 then 0x800000 else 0x2000
      (limit < ea.toNat + n → exec i s = .next (s.deliver 0x01C ea s.pc)) ∧
      (ea.toNat + n ≤ limit → ea.toNat % n ≠ 0 →
        ∃ v, exec i s = .next (({ s with freeCount := s.freeCount + 1 } : State).deliver 0x03A v s.pc)) ∧
      (x.space = 2 → ea.toNat + n ≤ limit → ea.toNat % n = 0 → n ≤ 8 → s.ownTile (ea.toNat / 4096) = none →
        exec i s = .next (s.deliver 0x064 ea s.pc)))) ∧
  (∀ (s : State) (a b : GK) (x : MX),
    let ea := s.ea a b x
    (s.pendingFault (clusterOf s.core.id) s.me.pid s.me.asid ea ≠ none → Completes (.pref a b x) s s 1 ∧ Completes (.dcwb a b x) s s 1) ∧
    (s.NoPartials → (∀ l, s.walk s.me.pid s.me.asid (s.privileged s.me) ea .read = .ok l → l.marked .read = true) →
      (∃ t, CacheOnly s t ∧ Completes (.pref a b x) s t 1) ∧ (∃ t, CacheOnly s t ∧ Completes (.dcwb a b x) s t 1)))

/-- R233, R158: VLD writes the active elements of vd, those of its SIZE bytes from memory and those beyond them with 0; VBLD reads one element and writes
it to every active element. Inactive elements stand. R233: VST writes its SIZE bytes of vd where every element is active, and otherwise the active
elements alone. (In global memory a TLB entry covers at least a page of 64 KiB, as R220 has it.) -/
def Obligations.VectorAccesses : Prop :=
  (∀ (s : State) (d : VReg) (a b : GK) (x : MX) (l : Leaf),
    let ea := s.ea a b x
    let n := x.bytes
    let ew := 2 ^ (x.mod.extractLsb' 4 2).toNat
    let on (i : Nat) : Bool := if x.mod.getLsbD 3 then (s.q (x.mod.extractLsb' 0 3)).getLsbD i else true
    let loaded (m : Memory) (k : Nat) (w : Vec) : Prop :=
      ∀ i < 64 / ew, elem (8 * ew) w i = if on i then (if i < n / ew then m.read (k + i * ew) ew else 0) else elem (8 * ew) (s.v d) i
    let spread (m : Memory) (k : Nat) (w : Vec) : Prop :=
      ∀ i < 64 / ew, elem (8 * ew) w i = if on i then m.read k ew else elem (8 * ew) (s.v d) i
    ((Instr.vld d a b x).wf = true → x.space = 0 → Reaches s ea n .read l → s.Paged ea → Good s l.place n →
      ∃ t w, CacheOnly s t ∧ Completes (.vld d a b x) s (t.setV d w) 1 ∧ loaded s.mem l.place.key w) ∧
    ((Instr.vld d a b x).wf = true → Local s x.space ea n ew → s.localGood x.space ea n →
      ∃ w, Completes (.vld d a b x) s (s.setV d w) 1 ∧ loaded (s.localMem x.space) (s.localKey x.space ea) w) ∧
    ((Instr.vbld d a b x).wf = true → x.space = 0 → Reaches s ea n .read l → Good s l.place n →
      ∃ t w, CacheOnly s t ∧ Completes (.vbld d a b x) s (t.setV d w) 1 ∧ spread s.mem l.place.key w) ∧
    ((Instr.vbld d a b x).wf = true → Local s x.space ea n n → s.localGood x.space ea n →
      ∃ w, Completes (.vbld d a b x) s (s.setV d w) 1 ∧ spread (s.localMem x.space) (s.localKey x.space ea) w)) ∧
  (∀ (s : State) (d : VReg) (a b : GK) (x : MX) (l : Leaf), (Instr.vst d a b x).wf = true →
    let ea := s.ea a b x
    let n := x.bytes
    let ew := 2 ^ (x.mod.extractLsb' 4 2).toNat
    let on (i : Nat) : Bool := if x.mod.getLsbD 3 then (s.q (x.mod.extractLsb' 0 3)).getLsbD i else true
    let full := ∀ i < n / ew, on i = true
    let bytes (m : Memory) (k : Nat) : Memory :=
      (List.range (n / ew)).foldl (fun m i => if on i then m.write (k + i * ew) ew (elem (8 * ew) (s.v d) i) else m) m
    let parts (t : State) : State :=
      (List.range (n / ew)).foldl (fun t i => if on i then t.stored { l.place with pa := l.place.pa + i * ew } ew (elem (8 * ew) (s.v d) i) else t) t
    (x.space = 0 → Reaches s ea n .write l → s.Paged ea → s.NoWatch → full →
      ∃ t, CacheOnly s t ∧ Completes (.vst d a b x) s (t.stored l.place n ((s.v d).toNat % 2 ^ (8 * n))) 1) ∧
    (x.space = 0 → Reaches s ea n .write l → s.Paged ea → s.NoWatch → ¬full →
      ∃ t, CacheOnly s t ∧ Completes (.vst d a b x) s (parts t) 1) ∧
    (Local s x.space ea n ew → s.localGood x.space ea n →
      Completes (.vst d a b x) s (s.localPut x.space (bytes (s.localMem x.space) (s.localKey x.space ea))) 1))

/-- R234: VGATH reads, and VSCAT writes, each active element at its own address, which adds the element of vb, sign-extended and scaled, to ga. The lowest
active element that fails decides the trap, with its address as TVAL (here ALIGN.space of a local space). (Where an entry of the TLBs covers several
of the addresses, as that of a contiguous group does, it says of each what the tables say: R220, R223.) -/
def Obligations.GatherScatter : Prop :=
  ∀ (s : State) (d : VReg) (a : GReg) (b : VReg) (x : MX) (l : Nat → Leaf),
    let ew := 2 ^ (x.mod.extractLsb' 4 2).toNat
    let on (i : Nat) : Bool := if x.mod.getLsbD 3 then (s.q (x.mod.extractLsb' 0 3)).getLsbD i else true
    let at_ (i : Nat) : Word := s.g a + ((BitVec.ofNat (8 * ew) (elem (8 * ew) (s.v b) i)).signExtend 64 <<< x.scale.toNat) + x.disp.signExtend 64
    let gathered (r : Nat → Nat) (w : Vec) : Prop :=
      ∀ i < 64 / ew, elem (8 * ew) w i = if on i then r i else elem (8 * ew) (s.v d) i
    let together : Prop := ∀ i < 64 / ew, ∀ j < 64 / ew, on i = true → on j = true → s.Together (at_ i) (l i) (at_ j) (l j)
    let stored (t : State) : State :=
      (List.range (64 / ew)).foldl (fun t i => if on i then t.stored (l i).place ew (elem (8 * ew) (s.v d) i) else t) t
    let scattered (k : Nat → Nat) (m : Memory) : Memory :=
      (List.range (64 / ew)).foldl (fun m i => if on i then m.write (k i) ew (elem (8 * ew) (s.v d) i) else m) m
    ((Instr.vgath d a b x).wf = true → x.space = 0 →
      (∀ i < 64 / ew, on i = true → Reaches s (at_ i) ew .read (l i) ∧ Good s (l i).place ew) → together → s.Calm →
      ∃ t w, CacheOnly s t ∧ Completes (.vgath d a b x) s (t.setV d w) 1 ∧ gathered (fun i => s.mem.read (l i).place.key ew) w) ∧
    ((Instr.vgath d a b x).wf = true → x.space ≠ 0 →
      (∀ i < 64 / ew, on i = true → Local s x.space (at_ i) ew ew ∧ s.localGood x.space (at_ i) ew) → s.Calm →
      ∃ w, Completes (.vgath d a b x) s (s.setV d w) 1 ∧ gathered (fun i => (s.localMem x.space).read (s.localKey x.space (at_ i)) ew) w) ∧
    ((Instr.vscat d a b x).wf = true → x.space = 0 → s.NoWatch →
      (∀ i < 64 / ew, on i = true → Reaches s (at_ i) ew .write (l i)) → together → s.Calm →
      ∃ t, CacheOnly s t ∧ Completes (.vscat d a b x) s (stored t) 1) ∧
    ((Instr.vscat d a b x).wf = true → x.space ≠ 0 →
      (∀ i < 64 / ew, on i = true → Local s x.space (at_ i) ew ew ∧ s.localGood x.space (at_ i) ew) → s.Calm →
      Completes (.vscat d a b x) s (s.localPut x.space (scattered (fun i => s.localKey x.space (at_ i)) (s.localMem x.space))) 1) ∧
    (x.space ≠ 0 → s.Calm → ∀ i < 64 / ew, on i = true → (∀ j < i, on j = true → Local s x.space (at_ j) ew ew ∧ s.localGood x.space (at_ j) ew) →
      (at_ i).toNat + ew ≤ (if x.space = 1 then 0x1C000 else if x.space = 2 then 0x800000 else 0x2000) → (at_ i).toNat % ew ≠ 0 →
      ∀ k ∈ [Instr.vgath d a b x, .vscat d a b x],
        exec k s = .next (({ s with freeCount := s.freeCount + 1 } : State).deliver 0x03A (at_ i) s.pc))

/-- R235: VLSL and VLSS access the eight lane slices of the core, lane j's at 1,024 × j, each active lane at the same offset; outside the lane they trap
OPERAND.space, and at an address that is no multiple of the size ALIGN.space. R236, R237: VSPILL keeps a vector under an entry 0 to 63 of the task's
spill map, VFILL brings it back (an EMPTY entry gives 0), and an entry above 63 traps VECTOR.spill with the address. A spill leaves what every other
entry holds. -/
def Obligations.LaneSlicesAndSpills : Prop :=
  (∀ (s : State) (d : VReg) (a b : GK) (x : MX),
    let ea := s.ea a b x
    let n := x.bytes
    let on (j : Nat) : Bool := if x.mod.getLsbD 3 then (s.q (x.mod.extractLsb' 0 3)).getLsbD j else true
    let key (j : Nat) : Nat := 2 ^ 13 * s.core.id.toNat + 1024 * j + ea.toNat
    (s.Calm → ea.toNat < 1024 → ea.toNat % n = 0 → (∀ j < 8, on j = true → s.localGood 3 (BitVec.ofNat 64 (1024 * j) + ea) n) →
      ((Instr.vlsl d a b x).wf = true → ∃ w, Completes (.vlsl d a b x) s (s.setV d w) 1 ∧
        ∀ j < 8, elem 64 w j = if on j then s.ls.read (key j) n else elem 64 (s.v d) j) ∧
      ((Instr.vlss d a b x).wf = true → Completes (.vlss d a b x) s { s with
        ls := (List.range 8).foldl (fun m j => if on j then m.write (key j) n (elem 64 (s.v d) j) else m) s.ls } 1)) ∧
    (s.mxBusy = false → 1024 ≤ ea.toNat → ∀ i ∈ [Instr.vlsl d a b x, .vlss d a b x], exec i s = .next (s.deliver 0x01C ea s.pc)) ∧
    (s.mxBusy = false → ea.toNat < 1024 → ea.toNat % n ≠ 0 → ∀ i ∈ [Instr.vlsl d a b x, .vlss d a b x],
      ∃ v, exec i s = .next (({ s with freeCount := s.freeCount + 1 } : State).deliver 0x03A v s.pc))) ∧
  (∀ (s : State) (d : VReg) (a b : GK) (x : MX),
    let e := (s.ea a b x).toNat
    (e ≤ 63 → Completes (.vspill d a b x) s (s.vspill e (s.v d)) 1 ∧ Completes (.vfill d a b x) s (s.setV d (s.spilled e)) 1) ∧
    (63 < e → s.mxBusy = false →
      ∀ i ∈ [Instr.vspill d a b x, .vfill d a b x], exec i s = .next (s.deliver 0x121 (s.ea a b x) s.pc)) ∧
    (s.me.spillEnt e = none → s.spilled e = 0) ∧
    (e ≤ 63 → s.me.tid ≠ 0 → s.me.slot.isSome = true → s.core.mx.img.wf = true → s.sp.wf = true →
      (s.vspill e (s.v d)).spilled e = s.v d ∧
      ∀ e' ≤ 63, e' ≠ e → (∀ r, s.me.spillEnt e' = some (.row r) → s.me.spillEnt e ≠ some (.row r)) →
        (s.vspill e (s.v d)).spilled e' = s.spilled e'))

/-! ### Futures and tasks -/

/-- R34, R35, R295: FDUP and FDROP change the reference count of the entry alone (and its stamp of use); a count that would leave its
range stands and traps FUTURE-H.refcount; an entry that nothing names any more is gone. SELF writes the task's own handle, and with DUP
counts it. R292: FSTAT writes the reference count, generation, state code, LIVE and cause of the entry; of a terminal one it is an acquire
(R269). R32, R284: a handle that is malformed, or whose device is neither this one nor a reachable peer, is refused before anything else
(the TVAL is free); and what makes it so. Otherwise each completes. -/
def Obligations.FutureReferences : Prop :=
  (∀ (s : State) (d a : GReg) (f : Fut), s.me.replayable = false →
    (HasFut s (s.g a) f →
      (f.refs ≠ BitVec.allOnes 32 → Completes (.fdup a) s (s.withFut (s.g a) { f with refs := f.refs + 1 })) ∧
      (f.refs ≠ 0 → Fut.free { f with refs := f.refs - 1 } = false →
        Completes (.fdrop a) s (s.withFut (s.g a) { f with refs := f.refs - 1 })) ∧
      (f.refs ≠ 0 → Fut.free { f with refs := f.refs - 1 } = true → ∃ t, Completes (.fdrop a) s t ∧ t.futOf (s.g a) = none ∧ t.mem = s.mem) ∧
      (s.mxBusy = false → f.refs = BitVec.allOnes 32 → ∃ v, exec (.fdup a) s =
        .next (({ s.withFut (s.g a) f with freeCount := s.freeCount + 1 } : State).deliver 0x09B v s.pc)) ∧
      (s.mxBusy = false → f.refs = 0 → ∃ v, exec (.fdrop a) s =
        .next (({ s.withFut (s.g a) f with freeCount := s.freeCount + 1 } : State).deliver 0x09B v s.pc))) ∧
    Completes (.self d) s (s.setG d s.me.self) ∧
    (s.me.self = 0 → Completes (.selfDup d) s (s.setG d 0)) ∧
    (s.me.self ≠ 0 → HasFut s s.me.self f → f.refs ≠ BitVec.allOnes 32 →
      Completes (.selfDup d) s ((s.withFut s.me.self { f with refs := f.refs + 1 }).setG d s.me.self))) ∧
  (∀ (s : State) (d a : GReg) (f : Fut), s.me.det = false → HasFut s (s.g a) f →
    let code : BitVec 3 := match f.st with | .empty => 0 | .resolved => 1 | .poisoned => 2 | .cancelPending => 3 | .cancelled => 4
    let cause : BitVec 9 := if f.st = .poisoned ∨ f.st = .cancelled then f.val.extractLsb' 0 9 else 0
    let u := s.withFut (s.g a) f
    Completes (.fstat d a) s ((if f.terminal then u.acquired else u).setG d
      (f.refs ++ f.gen ++ (0 : BitVec 1) ++ code ++ (if f.live then 1 else 0 : BitVec 1) ++ (0 : BitVec 2) ++ cause))) ∧
  ((∀ (s : State) (h : Word) (l : BitVec 2), l = h.extractLsb' 50 2 →
    (h.extractLsb' 62 2 ≠ 2 ∨ h.extractLsb' 0 19 ≠ 0 ∨ 47 < (h.extractLsb' 44 6).toNat ∨
      (s.role l ≠ .compute ∧ ∀ c ∈ s.clusters, c.standing = false) → s.handleCause h = some 0x098) ∧
    (h.extractLsb' 62 2 = 2 → h.extractLsb' 0 19 = 0 → (h.extractLsb' 44 6).toNat ≤ 47 → s.role l = .compute →
      s.handleCause h = if h.extractLsb' 52 10 = s.deviceId ∨ s.reachable (h.extractLsb' 52 10) = true then none else some 0x09A)) ∧
  (∀ (s : State) (d a : GReg) (b : GK) (q : QReg) (c : Cause), s.mxBusy = false → s.outs = [] → s.handleCause (s.g a) = some c →
    ∀ i ∈ [Instr.join d a none, .touch d a none, .touchq d a q, .resolve a b, .poison a b, .cancel a, .fstat d a, .fdup a, .fdrop a],
      ∃ v, exec i s = .next (({ s with freeCount := s.freeCount + 1 } : State).deliver c v s.pc)))

/-- R34, R293, R294: RESOLVE and POISON make an EMPTY entry terminal with the value or cause, and leave its counts. A first value stands: on a RESOLVED or
POISONED entry they trap FUTURE-S.duplicate (its TVAL is free), on a CANCELLED one or one whose cancellation is pending they do nothing. CANCEL of a
started producer makes the entry CANCEL_PENDING, and does nothing to a terminal one. R34, R294: CANCEL of a producer that has not started removes its
record and makes the entry CANCELLED with cause JOIN.cancelled. -/
def Obligations.FutureSettlement : Prop :=
  (∀ (s : State) (a : GReg) (b : GK) (f : Fut), s.Calm → HasFut s (s.g a) f →
    (f.st = .empty → f.live = true → f.waiters = [] → (∀ x, s.findTask f.producer = some x → x.launched = none) →
      (∃ t g, Completes (.resolve a b) s t ∧ t.futOf (s.g a) = some g ∧ g = { f with st := .resolved, val := s.gk b, used := g.used } ∧
        t.mem = s.mem) ∧
      ((s.gk b).toNat ≤ 0x17F → ∃ t g, Completes (.poison a b) s t ∧ t.futOf (s.g a) = some g ∧
        g = { f with st := .poisoned, val := (s.gk b).extractLsb' 0 9 |>.setWidth 64, used := g.used } ∧ t.mem = s.mem)) ∧
    (f.st = .cancelled ∨ f.st = .cancelPending → Completes (.resolve a b) s (s.withFut (s.g a) f) ∧
      ((s.gk b).toNat ≤ 0x17F → Completes (.poison a b) s (s.withFut (s.g a) f))) ∧
    (f.st = .resolved ∨ f.st = .poisoned → s.mxBusy = false → ∀ i ∈ [Instr.resolve a b, .poison a b],
      (i = .resolve a b ∨ (s.gk b).toNat ≤ 0x17F) →
      ∃ v, exec i s = .next (({ s.withFut (s.g a) f with freeCount := s.freeCount + 1 } : State).deliver 0x0A0 v s.pc)) ∧
    (0x17F < (s.gk b).toNat → ∃ v, exec (.poison a b) s = .next (({ s with freeCount := s.freeCount + 1 } : State).deliver 0x01B v s.pc)) ∧
    (f.st = .empty → s.hasStarted f.producer = true → Completes (.cancel a) s (s.withFut (s.g a) { f with st := .cancelPending })) ∧
    (f.st ≠ .empty → Completes (.cancel a) s (s.withFut (s.g a) f))) ∧
  (∀ (s : State) (a : GReg) (f : Fut) (x : Task), s.Calm → HasFut s (s.g a) f → f.st = .empty → f.waiters = [] → f.refs ≠ 0 →
    s.findTask f.producer = some x → x.st = .queued → x.launched = none → x.tw[6] = 0 → s.me.tid ≠ f.producer →
    ∃ t g, Completes (.cancel a) s t ∧ t.findTask f.producer = none ∧ t.futOf (s.g a) = some g ∧
      g = { f with st := .cancelled, val := 0x0B9, live := false, used := g.used })

/-- R291: what TOUCH, JOIN and TOUCHQ find. A RESOLVED entry gives its value; JOIN drops a reference in the same event; a POISONED or CANCELLED one gives
its cause where a predicate is asked for, and otherwise traps JOIN.poisoned or JOIN.cancelled with the handle; TOUCHQ does not wait. R291, R33, R355:
TOUCH or JOIN of an entry that is not terminal adds the task to the entry's waiters and parks it with the handle; it issues again when it is woken.
The producer itself traps JOIN.self. -/
def Obligations.FutureResults : Prop :=
  (∀ (s : State) (d a : GReg) (q : QReg) (f : Fut), s.Calm → HasFut s (s.g a) f →
    let h := s.g a
    let u := s.withFut h f
    let cause := (f.val.extractLsb' 0 9).setWidth 64
    let dropped (v : State) : State := v.withFut h { f with refs := f.refs - 1 }
    (f.st = .resolved →
      Completes (.touch d a none) s (u.setG d f.val) ∧
      Completes (.touch d a (some q)) s ((u.setG d f.val).setQ q (BitVec.allOnes 64)) ∧
      Completes (.touchq d a q) s ((u.setG d f.val).setQ q (BitVec.allOnes 64)) ∧
      (f.refs ≠ 0 → Fut.free { f with refs := f.refs - 1 } = false →
        Completes (.join d a none) s (dropped (u.setG d f.val)) ∧
        Completes (.join d a (some q)) s (dropped ((u.setG d f.val).setQ q (BitVec.allOnes 64)))) ∧
      (f.refs ≠ 0 → Fut.free { f with refs := f.refs - 1 } = true → ∃ t, Completes (.join d a none) s t ∧ t.futOf h = none ∧
        t.g d = (s.setG d f.val).g d ∧ t.mem = s.mem)) ∧
    (f.st = .poisoned ∨ f.st = .cancelled →
      Completes (.touch d a (some q)) s ((u.setG d cause).setQ q 0) ∧
      Completes (.touchq d a q) s ((u.setG d cause).setQ q 0) ∧
      (f.refs ≠ 0 → Fut.free { f with refs := f.refs - 1 } = false →
        Completes (.join d a (some q)) s (dropped ((u.setG d cause).setQ q 0))) ∧
      (∀ i ∈ [Instr.touch d a none, .join d a none], exec i s =
        .next ((u.onMe fun t => { t with parkArg := f.val }).deliver (if f.st = .poisoned then 0x0B8 else 0x0B9) h s.pc))) ∧
    (f.terminal = false → Completes (.touchq d a q) s ((u.setG d (BitVec.allOnes 64)).setQ q 0))) ∧
  (∀ (s : State) (d a : GReg) (q : Option QReg) (f : Fut), s.Calm → HasFut s (s.g a) f → f.terminal = false →
    ∀ i ∈ [Instr.touch d a q, .join d a q],
      (f.producer = s.me.tid → exec i s = .next ((s.withFut (s.g a) f).deliver 0x0BA (s.g a) s.pc)) ∧
      (f.producer ≠ s.me.tid → s.me.isHandler = false → s.me.tid ≠ 0 → f.waiters = [] →
        ∃ t x g, exec i s = .next t ∧ t.core.running = 0 ∧ t.findTask s.me.tid = some x ∧ x.st = .parked ∧ x.parkCause = 0x0AA ∧
          x.parkArg = s.g a ∧ x.pc = s.pc ∧ x.g = s.me.g ∧ t.futOf (s.g a) = some g ∧
          g = { f with waiters := [{ dev := s.deviceId, tid := s.me.tid }], used := g.used }))

/-- R286, R288, R33: SPAWNR of a record that passes R25, with room in the table and the deque, makes a QUEUED task of the record with TW5 its handle and
TW6 the counter, an EMPTY entry with one reference that the task produces, and puts the task at the bottom of the core's deque; gd takes the handle,
and SPAWNED counts where a counter is named. (Here no partition has a spill area, and no entry of the table has the free slot's next tag.) SPAWN does the same with the record at ga. R286, R25: what SPAWN and SPAWNR refuse: a record VA that is
not aligned, a register number outside 1 to 56, and a counter address that is no multiple of 8, with that address. R142, R34, R385: EXIT of a task
with nothing under way resolves its future with A, frees its core, its context slot and its matrix claims, and the task is gone (here: no done-counter
and no tiles, whose steps go on after it). -/
def Obligations.SpawnAndExit : Prop :=
  (∀ (s : State) (d a b : GReg) (rec : Vector Word 8) (l : Leaf), s.Calm → recordCause rec = none → (b = 0 ∨ (s.g b).toNat % 8 = 0) →
    s.tableFull s.me.pid (clusterOf s.core.id) = false → s.core.deque.length < 32 → s.nextTid ≠ 0 → s.findTask s.nextTid = none →
    (∀ p, s.hasSpill p = false) →
    let c := s.getCluster (clusterOf s.core.id)
    (∀ f ∈ c.futs, f.ent = c.freeSlot → f.gen ≠ ((c.gens.find? fun g => g.1 == c.freeSlot.toNat).map (·.2)).getD 0) →
    let spawns (i : Instr) : Prop := ∃ t h x f, Completes i s t ∧
      t.me = { s.me with spawned := if b = 0 then s.me.spawned else s.me.spawned + 1 }.writeG d h ∧ t.mem = s.mem ∧
      t.findTask s.nextTid = some x ∧ x.st = .queued ∧ x.tw = (rec.set 5 h).set 6 (if b = 0 then 0 else s.g b) ∧ x.self = h ∧
      x.asid = s.me.asid ∧ x.pid = s.me.pid ∧ t.core.deque = s.nextTid :: s.core.deque ∧
      f ∈ (t.getCluster (clusterOf s.core.id)).futs ∧ h = handleOf s.deviceId (clusterOf s.core.id) f.ent f.gen ∧
      f.st = .empty ∧ f.refs = 1 ∧ f.live = true ∧ f.producer = s.nextTid ∧ f.waiters = []
    (1 ≤ a.toNat → a.toNat ≤ 56 → (∀ i : Fin 8, rec[i] = s.g (a + BitVec.ofNat 6 i)) → spawns (.spawnr d a b)) ∧
    ((s.g a).toNat % 64 = 0 → Reaches s (s.g a) 64 .read l → Good s l.place 64 →
      (∀ i : Fin 8, rec[i] = BitVec.ofNat 64 (s.mem.read (l.place.key + 8 * i) 8)) → spawns (.spawn d a b))) ∧
  (∀ (s : State) (d a b : GReg), s.mxBusy = false →
    ((s.g a).toNat % 64 ≠ 0 → ∃ v, exec (.spawn d a b) s = .next (({ s with freeCount := s.freeCount + 1 } : State).deliver 0x0B3 v s.pc)) ∧
    (a.toNat = 0 ∨ 56 < a.toNat → ∃ v, exec (.spawnr d a b) s = .next (({ s with freeCount := s.freeCount + 1 } : State).deliver 0x01B v s.pc)) ∧
    (1 ≤ a.toNat → a.toNat ≤ 56 → recordCause (Vector.ofFn fun i : Fin 8 => s.g (a + BitVec.ofNat 6 i.val)) = none → b ≠ 0 → (s.g b).toNat % 8 ≠ 0 →
      exec (.spawnr d a b) s = .next (s.deliver 0x0B5 (s.g b) s.pc))) ∧
  (∀ (s : State) (a : GK), s.Calm → s.me.tid ≠ 0 → s.opsOf s.me.tid = [] → s.me.sends = [] → s.me.tw[6] = 0 → s.me.launched = none →
    (s.getCluster (hCl s.me.self)).intAcc = [] → (∀ c ∈ s.clusters, ∀ y ∈ c.tiles, y.owner ≠ s.me.tid) →
    (s.me.self = 0 ∨ ∃ f, HasFut s s.me.self f ∧ f.st = .empty ∧ f.waiters = [] ∧ f.producer = s.me.tid) →
    ∃ t, exec (.exit a) s = .next t ∧ t.core.running = 0 ∧ t.me.tid = 0 ∧ t.findTask s.me.tid = none ∧ t.mem = s.mem ∧
      t.core.mx.bound ≠ s.me.tid ∧ (∀ y ∈ t.core.slots.toList, y ≠ s.me.tid) ∧
      (∀ f, HasFut s s.me.self f → f.refs ≠ 0 → ∃ g, t.futOf s.me.self = some g ∧
        g = { f with st := .resolved, val := s.gk a, live := false, used := g.used }))

/-! ### Atomics, counters, queues and messages -/

/-- R299: f(old, b) of the integer atomics at operand width w. R299: AFADD rounds old + b to nearest even in FP64, FP32, FP16 or BF16, AFMIN and AFMAX act
as VMIN and VMAX, and the flags go to FFLAGS. R299 to R301, R278: what atomics refuse. A misaligned address traps ALIGN.atomic with it; spaces 01 and
11, ATOMIC.space; space 10 with SCOPE CORE, ATOMIC.space with the address. A poisoned line leaves memory alone, gives gd the poison marker, and traps
MEMERR-P.atomic with the address. In a DET task ACAS and ASWP trap at themselves. -/
def Obligations.Atomics : Prop :=
  (∀ (s : State) (d a : GReg) (k : GK) (x : MX) (l : Leaf), s.NoWatch →
    let ea := s.eaA a x
    let n := x.bytes
    let w := 8 * n
    let b := (s.gk k).toNat % 2 ^ w
    let int (v : Nat) : Int := (BitVec.ofNat w v).toInt
    let f : List (Instr × (Nat → Nat)) :=
      [(.aadd d a k x, fun old => (old + b) % 2 ^ w), (.amin d a k x, fun old => if int b < int old then b else old),
       (.amax d a k x, fun old => if int old < int b then b else old), (.aminn d a k x, fun old => if b < old then b else old),
       (.amaxn d a k x, fun old => if old < b then b else old), (.aand d a k x, fun old => old &&& b), (.aor d a k x, fun old => old ||| b),
       (.axor d a k x, fun old => old ^^^ b), (.aswp d a k x, fun _ => b),
       (.acas d a k x, fun old => if old = (s.g d).toNat % 2 ^ w then b else old)]
    ∀ p ∈ f, p.1.wf = true → ea.toNat % n = 0 →
      (x.space = 0 → Reaches s ea n .atomic l → Good s l.place n →
        ∃ t, CacheOnly s t ∧ Completes p.1 s
          (({ t with mem := s.mem.write l.place.key n (p.2 (s.mem.read l.place.key n)) } : State).setG d (BitVec.ofNat 64 (s.mem.read l.place.key n))) 1) ∧
      (x.space = 2 → x.scope ≠ 1 → Local s 2 ea n 1 → s.localGood 2 ea n →
        let key := s.localKey 2 ea
        Completes p.1 s (({ s with cm := s.cm.write key n (p.2 (s.cm.read key n)) } : State).setG d (BitVec.ofNat 64 (s.cm.read key n))) 1)) ∧
  (∀ (s : State) (d a : GReg) (k : GK) (x : MX) (l : Leaf), s.NoWatch →
    let ea := s.eaA a x
    let n := x.bytes
    let b := (s.gk k).toNat % 2 ^ (8 * n)
    let fmt := if n = 8 then 0 else if n = 4 then 1 else if x.mod.getLsbD 0 then 3 else 2
    let old := s.mem.read l.place.key n
    Reaches s ea n .atomic l → Good s l.place n → ea.toNat % n = 0 → x.space = 0 →
    ∀ p ∈ [(Instr.afadd d a k x, fAdd fmt .rne false old b), (Instr.afmin d a k x, fMinMax false fmt false old b),
        (Instr.afmax d a k x, fMinMax true fmt false old b)], p.1.wf = true →
      ∃ t, CacheOnly s t ∧ Completes p.1 s ((({ t with mem := s.mem.write l.place.key n p.2.1 } : State).setG d (BitVec.ofNat 64 old)).onMe fun m =>
        { m with fflags := m.fflags ||| p.2.2 }) 1) ∧
  (∀ (s : State) (d a : GReg) (k : GK) (x : MX) (l : Leaf), s.mxBusy = false →
    let ea := s.eaA a x
    let n := x.bytes
    let plain : List Instr := [.aadd d a k x, .amin d a k x, .amax d a k x, .aminn d a k x, .amaxn d a k x, .aand d a k x, .aor d a k x,
      .axor d a k x, .afadd d a k x, .afmin d a k x, .afmax d a k x]
    (∀ i ∈ plain, ea.toNat % n ≠ 0 → exec i s = .next (s.deliver 0x03B ea s.pc)) ∧
    (∀ i ∈ plain, ea.toNat % n = 0 → x.space = 1 ∨ x.space = 3 → exec i s = .next (s.deliver 0x088 ea s.pc)) ∧
    (∀ i ∈ plain, ea.toNat % n = 0 → x.space = 2 → x.scope = 1 → exec i s = .next (s.deliver 0x088 ea s.pc)) ∧
    (∀ i ∈ plain, i.wf = true → ea.toNat % n = 0 → x.space = 0 → Reaches s ea n .atomic l → ∀ line, s.badLine l.place.key n = some (line, false) →
      let marker : Word := if n = 8 then 0x7FF0000000000001 else if n = 4 then 0x7F800001 else if x.mod.getLsbD 0 then 0x7F81 else 0x7C01
      ∃ t, CacheOnly s t ∧ exec i s = .next ((t.setG d marker).deliver 0x081 ea s.pc)) ∧
    (s.me.det = true → exec (.acas d a k x) s = .next (s.deliver 0x159 s.pc s.pc) ∧ exec (.aswp d a k x) s = .next (s.deliver 0x15A s.pc s.pc)))

/-- R303, R304: a contribution with L1P 00 or 01 is performed at the home; with L1P 10 it enters a U line of the core, and memory stands. RDFLUSH leaves
memory as its readers see it. R306, R271: a FENCE of kind 0 to 3 and scope 1 to 5, with nothing outstanding, completes and changes nothing; other
constants trap OPERAND.value. -/
def Obligations.ReductionsAndFences : Prop :=
  (∀ (s : State) (a : GReg) (k : GK) (x : MX) (l : Leaf),
    let ea := s.eaA a x
    let n := x.bytes
    let w := 8 * n
    let b := (s.gk k).toNat % 2 ^ w
    let uns := x.mod.getLsbD 0
    let int (v : Nat) : Int := if uns then (v : Int) else (BitVec.ofNat w v).toInt
    let fmt := if n = 8 then 0 else if n = 4 then 1 else if x.mod.getLsbD 0 then 3 else 2
    let f : List (Instr × (Nat → Nat) × Nat) :=
      [(.rdadd a k x, fun old => (old + b) % 2 ^ w, 0),
       (.rdmin a k x, fun old => if int b < int old then b else old, if uns then 2 ^ w - 1 else 2 ^ (w - 1) - 1),
       (.rdmax a k x, fun old => if int old < int b then b else old, if uns then 0 else 2 ^ (w - 1)),
       (.rdor a k x, fun old => old ||| b, 0),
       (.rdfadd a k x, fun old => (fAdd fmt .rne false old b).1, 2 ^ (w - 1))]
    (∀ p ∈ f, p.1.wf = true → ea.toNat % n = 0 → Reaches s ea n .atomic l → Good s l.place n →
      (x.hint.l1p ≠ 2 → s.NoWatch → ∃ t, CacheOnly s t ∧
        Completes p.1 s { t with mem := s.mem.write l.place.key n (p.2.1 (s.mem.read l.place.key n)) } 1) ∧
      (x.hint.l1p = 2 → s.stagedWays s.core.id (l1Set l.place.line) = [] → ∃ t, Completes p.1 s t 1 ∧ t.mem = s.mem ∧ t.me = s.me ∧
        ∃ u ∈ t.core.ulines, u.line = l.place.line ∧ u.live = true ∧
          u.data.toNat / 2 ^ (8 * (l.place.key % 64)) % 2 ^ w = p.2.1 p.2.2)) ∧
    (∀ p ∈ f, ea.toNat % n ≠ 0 → s.mxBusy = false → exec p.1 s = .next (s.deliver 0x03B ea s.pc)) ∧
    ((Instr.rdflush a x).wf = true → Reaches s ea 1 .read l → Good s l.place 1 → ∃ t, CacheOnly s t ∧ Completes (.rdflush a x) s t 1)) ∧
  (∀ (s : State) (k c : BitVec 6),
    (s.Calm → k.toNat ≤ 3 → 1 ≤ c.toNat → c.toNat ≤ 5 → Completes (.fence k c) s s) ∧
    (s.mxBusy = false → 3 < k.toNat ∨ c.toNat < 1 ∨ 5 < c.toNat →
      ∃ v, exec (.fence k c) s = .next (({ s with freeCount := s.freeCount + 1 } : State).deliver 0x01B v s.pc)))

/-- R308: CTRADD adds at the counter's home; a sum above 2^64 − 1 leaves 2^64 − 1 and traps COUNTER.overflow after the instruction, with its address.
R309: CTRREAD and CTRWAITQ read a counter; CTRWAIT writes the value where it has reached T, with EX traps COUNTER.overshoot after the instruction
where it lies above, and otherwise enters a WAIT entry and parks. -/
def Obligations.Counters : Prop :=
  (∀ (s : State) (a : GReg) (b : GK) (x : MX) (l : Leaf), (Instr.ctradd a b x).wf = true →
    let ea := s.eaA a x
    let v := s.mem.read l.place.key 8
    let n := (s.gk b).toNat
    Reaches s ea 8 .atomic l → Good s l.place 8 → ea.toNat % 8 = 0 → s.NoWatch → (∀ c, b = .k c → c.msb = false) →
    (v + n < 2 ^ 64 → ∃ t, CacheOnly s t ∧ Completes (.ctradd a b x) s { t with mem := s.mem.write l.place.key 8 (v + n) } 1) ∧
    (2 ^ 64 ≤ v + n → ∃ t, CacheOnly s t ∧ exec (.ctradd a b x) s =
      .next (({ t with mem := s.mem.write l.place.key 8 (2 ^ 64 - 1) } : State).countMem.retire.deliver 0x090 ea (s.pc + 12)))) ∧
  (∀ (s : State) (d a : GReg) (q : QReg) (b : GK) (x : MX) (l : Leaf),
    let ea := s.eaA a x
    let v := BitVec.ofNat 64 (s.mem.read l.place.key 8)
    let t := s.gk b
    Reaches s ea 8 .read l → Good s l.place 8 → ea.toNat % 8 = 0 → (∀ c, b = .k c → c.msb = false) →
    (∃ u, CacheOnly s u ∧ Completes (.ctrread d a x) s (u.setG d v) 1) ∧
    (∃ u, CacheOnly s u ∧ Completes (.ctrwaitq q a b x) s (u.setQ q (if t.toNat ≤ v.toNat then BitVec.allOnes 64 else 0)) 1) ∧
    (t.toNat = v.toNat ∨ (t.toNat < v.toNat ∧ x.mod.getLsbD 0 = false) → ∃ u, CacheOnly s u ∧ Completes (.ctrwait d a b x) s (u.setG d v) 1) ∧
    (t.toNat < v.toNat → x.mod.getLsbD 0 = true → ∃ u, CacheOnly s u ∧
      exec (.ctrwait d a b x) s = .next ((u.setG d v).countMem.retire.deliver 0x092 v (s.pc + 12))) ∧
    (v.toNat < t.toNat → s.NoWatch → s.me.isHandler = false → s.me.tid ≠ 0 → ∃ u y w, exec (.ctrwait d a b x) s = .next u ∧ u.core.running = 0 ∧
      u.findTask s.me.tid = some y ∧ y.st = .parked ∧ y.parkCause = 0x095 ∧ y.parkArg = ea ∧ y.pc = s.pc ∧ y.g = s.me.g ∧ u.mem = s.mem ∧
      (u.getSlice (s.homeSlice (l.place.key / 64))).watch = [w] ∧ w.key = l.place.key ∧ w.t = t ∧ w.act = .wait s.me.tid))

/-- R311: CTRARM of a record that passes R25, for a cluster of the partition, enters an ARM entry where the counter lies below T.
CTRDISARM removes the entries of its word, address space and record VA, and counts them. R310: after a write of a counter word at its
home, a WAIT entry whose T the value has reached is gone and its parked task stands at the head of its cluster's ready queue; one whose T
lies above stands. (Here the task is no DET task of a partition that keeps determinism, and the entry is the word's only one. CTRARM reads
the record and the counter through TLBs whose entries say what the tables say.) Both complete. -/
def Obligations.CounterArming : Prop :=
  (∀ (s : State) (d a : GReg) (b : GK) (x : MX) (l lr : Leaf) (rec : Vector Word 8),
    let ea := s.eaA a x
    let home := s.homeSlice (l.place.key / 64)
    let target := s.g (d + 1)
    Reaches s ea 8 .read l → ea.toNat % 8 = 0 → 1 ≤ d.toNat →
    (d.toNat ≤ 62 → (∀ c, b = .k c → c.msb = false) → (s.g d).toNat % 64 = 0 → s.NoWatch → Reaches s (s.g d) 64 .read lr → Good s lr.place 64 →
      s.Together (s.g d) lr ea l → s.Together ea l (s.g d) lr → (∀ i : Fin 8, rec[i] = BitVec.ofNat 64 (s.mem.read (lr.place.key + 8 * i) 8)) → recordCause rec = none →
      s.targetOk target = true → s.mem.read l.place.key 8 < (s.gk b).toNat →
      ∃ t w, Completes (.ctrarm d a b x) s t 1 ∧ t.mem = s.mem ∧ t.me = s.me ∧ (t.getSlice home).watch = [w] ∧ w.key = l.place.key ∧
        w.t = s.gk b ∧ w.act = .arm s.me.asid (target.extractLsb' 5 8) (s.g d) rec) ∧
    ((s.getSlice home).marks = [] →
      let hit (w : Watch) : Bool := w.pid == s.me.pid && w.armedAs l.place.key s.me.asid (s.g d)
      ∃ t, Completes (.ctrdisarm d a x) s t 1 ∧ t.mem = s.mem ∧
        t.me = s.me.writeG d (BitVec.ofNat 64 ((s.getSlice home).watch.countP hit)) ∧
        (t.getSlice home).watch = (s.getSlice home).watch.filter fun w => !hit w)) ∧
  (∀ (s : State) (key : Nat) (w : Watch) (t : BitVec 32) (x : Task),
    let home := s.homeSlice (key / 64)
    (s.getSlice home).watch = [w] → (s.getSlice home).marks = [] → w.key = key → w.act = .wait t → s.findTask t = some x → x.det = false →
    x.st = .parked →
    (w.t.toNat ≤ s.mem.read key 8 → ((s.evalWatch key).getSlice home).watch = [] ∧ (s.evalWatch key).mem = s.mem ∧
      ∃ r, ((s.evalWatch key).getCluster x.cl).ready = t :: ((s.getCluster x.cl).ready.filter (· != t)) ++ r) ∧
    (s.mem.read key 8 < w.t.toNat → s.evalWatch key = s))

/-- R313: QPUT writes the entry at TAIL and adds 1 to TAIL, QGET reads the entry at HEAD and adds 1 to HEAD, both with qd all ones; a full
or an empty ring gives 0 and stands. (The ring is no host ring here, and nothing watches it.) R312, R313: what QPUT and QGET refuse of a
control block, in order: its alignment, its reserved fields, an entry size or a register class that does not match, and a TAIL too far
from HEAD; each with the address. Otherwise each completes. -/
def Obligations.Queues : Prop :=
  (∀ (s : State) (d : QReg) (a : GReg) (b : VG) (x : MX) (l e : Leaf), s.NoWatch →
    let ea := s.eaA a x
    let key := l.place.key
    let r := rcbOf (s.mem.read key 64)
    Reaches s ea 64 .atomic l → Good s l.place 64 → ea.toNat % 64 = 0 →
    r.ok = true → x.bytes = r.esize → (match b with | .g _ => r.esize = 8 | .v _ => r.esize ≠ 8) → r.used ≤ 2 ^ r.log → r.hostvis = false →
    let v : Nat := match b with | .g g => (s.g g).toNat | .v w => (s.v w).toNat
    (r.used = 2 ^ r.log → ∃ t, CacheOnly s t ∧ Completes (.qput d a b x) s (t.setQ d 0) 1) ∧
    (r.used = 0 → ∃ t, CacheOnly s t ∧ Completes (.qget d a b x) s (t.setQ d 0) 1) ∧
    (r.used ≠ 2 ^ r.log → Reaches s (r.entry r.tail) r.esize .write e → s.Together ea l (r.entry r.tail) e → ∃ t, CacheOnly s t ∧ Completes (.qput d a b x) s
      (({ t with mem := (s.mem.write e.place.key r.esize v).write (key + 16) 8 (r.tail + 1) } : State).setQ d (BitVec.allOnes 64)) 1) ∧
    (r.used ≠ 0 → Reaches s (r.entry r.head) r.esize .read e → s.Together ea l (r.entry r.head) e → Good s e.place r.esize →
      let got := s.mem.read e.place.key r.esize
      ∃ t, CacheOnly s t ∧
        let u : State := { t with mem := s.mem.write (key + 8) 8 (r.head + 1) }
        Completes (.qget d a b x) s ((match b with | .g g => u.setG g (BitVec.ofNat 64 got) | .v w => u.setV w (BitVec.ofNat 512 got)).setQ d
          (BitVec.allOnes 64)) 1)) ∧
  (∀ (s : State) (d : QReg) (a : GReg) (b : VG) (x : MX) (l : Leaf), s.mxBusy = false →
    let ea := s.eaA a x
    let r := rcbOf (s.mem.read l.place.key 64)
    let matched := match b with | .g _ => r.esize = 8 | .v _ => r.esize ≠ 8
    ∀ i ∈ [Instr.qput d a b x, .qget d a b x],
      (ea.toNat % 64 ≠ 0 → exec i s = .next (s.deliver 0x0C0 ea s.pc)) ∧
      (ea.toNat % 64 = 0 → Reaches s ea 64 .atomic l → Good s l.place 64 →
        (r.ok = false → ∃ t, CacheOnly s t ∧ exec i s = .next (t.deliver 0x0C2 ea s.pc)) ∧
        (r.ok = true → x.bytes ≠ r.esize ∨ ¬matched → ∃ t, CacheOnly s t ∧ exec i s = .next (t.deliver 0x0C1 ea s.pc)) ∧
        (r.ok = true → x.bytes = r.esize → matched → 2 ^ r.log < r.used → ∃ t, CacheOnly s t ∧ exec i s = .next (t.deliver 0x0C2 ea s.pc))))

/-- R315, R316, R318: MSEND and MSENDV send a message of the class, to a cluster of this device or over the fabric, with the core's next message id,
which gd takes; a handler task buffers it. Where the cluster's router holds messages back (R317) the task waits and nothing changes. What they refuse, in order: class 15, more flits than MAXMSG, a bad destination, a class that is not enabled. -/
def Obligations.MessageSends : Prop :=
  ∀ (s : State) (d a b : GReg) (v : VReg) (cls n : BitVec 4), s.Calm →
    let flits : List (Instr × List (BitVec 512)) :=
      [(.msend d a b cls n, if n = 0 then [] else [BitVec.ofNat 512 (wordsNat ((List.range n.toNat).map fun i => s.g (b + BitVec.ofNat 6 i)))]),
       (.msendv d a v cls n, (List.range n.toNat).map fun i => s.v (v + BitVec.ofNat 5 i))]
    (n = 0 → b = 0) → (n ≠ 0 → b.toNat + n.toNat ≤ 64) → v.toNat + n.toNat ≤ 32 →
    ∀ p ∈ flits, p.1.wf = true →
      let most := (s.part s.me.pid).regs.maxmsg.toNat
      let on := (rd (s.getCluster (clusterOf s.core.id)).classTab cls).enable
      let refused (c : Cause) : Prop := ∃ w, exec p.1 s = .next (({ s with freeCount := s.freeCount + 1 } : State).deliver c w s.pc)
      let id : BitVec 32 := s.core.id ++ s.core.msgSeq
      let m : Message := { id := id, srcDev := s.deviceId, srcCore := s.core.id, cls := cls, flits := BitVec.ofNat 3 (1 + p.2.length), payload := p.2 }
      let counted : State := s.onCore fun c => { c with msgSeq := c.msgSeq + 1 }
      (cls = 15 → refused 0x0CB) ∧
      (cls ≠ 15 → most < 1 + p.2.length → refused 0x0CA) ∧
      (cls ≠ 15 → 1 + p.2.length ≤ most → s.destOk (s.g a) = false → refused 0x0C9) ∧
      (cls ≠ 15 → 1 + p.2.length ≤ most → s.destOk (s.g a) = true → on = false → refused 0x0CC) ∧
      (cls ≠ 15 → 1 + p.2.length ≤ most → s.destOk (s.g a) = true → on = true → (s.g a).extractLsb' 16 10 = s.deviceId → s.me.isHandler = false →
        s.msgsHeld ((s.g a).extractLsb' 5 8) = [] →
        Completes p.1 s ((counted.push (.messageArrive ((s.g a).extractLsb' 5 8) m)).setG d (id.setWidth 64))) ∧
      (cls ≠ 15 → 1 + p.2.length ≤ most → s.destOk (s.g a) = true → on = true → (s.g a).extractLsb' 16 10 = s.deviceId → s.me.isHandler = false →
        s.msgsHeld ((s.g a).extractLsb' 5 8) ≠ [] → exec p.1 s = .next s) ∧
      (cls ≠ 15 → 1 + p.2.length ≤ most → s.destOk (s.g a) = true → on = true → (s.g a).extractLsb' 16 10 ≠ s.deviceId → s.me.isHandler = false →
        Completes p.1 s (({ counted with
          fabricOut := s.fabricOut ++ [((s.g a).extractLsb' 16 10, .message ((s.g a).extractLsb' 5 8) m)] } : State).setG d (id.setWidth 64))) ∧
      (cls ≠ 15 → 1 + p.2.length ≤ most → s.destOk (s.g a) = true → on = true → s.me.isHandler = true → s.me.sends.length < 8 →
        Completes p.1 s ((counted.onMe fun t => { t with sends := t.sends ++ [{ dest := s.g a, msg := m }] }).setG d (id.setWidth 64)))

/-- R317, R319: MMASK and MUNMASK set and clear bits of the cluster's mask (here no message is queued, and no frame holds one); MARG reads a doubleword or a flit of the handler's
message, and MID its id; outside a handler both trap HANDLER.not-handler at themselves. R39, R317: a message that reaches an awake cluster of an
enabled, unmasked class starts a handler task whose record R39 lays out; of a masked class it is queued, in a system frame of the cluster. (Here the
cluster's router holds nothing back, and a system frame and room in a deque are free.) -/
def Obligations.MessageRegistersAndHandlers : Prop :=
  (∀ (s : State) (m : BitVec 16) (d : GReg) (v : VReg) (b : GK), s.me.det = false →
    let cl := clusterOf s.core.id
    let i := (s.gk b).toNat
    Completes (.mmask m) s (s.onCluster cl fun c => { c with live := c.live ||| m }) ∧
    ((s.getCluster cl).msgs = [] → (s.getCluster cl).msgFrames = [] → Completes (.munmask m) s (s.onCluster cl fun c => { c with live := c.live &&& ~~~m })) ∧
    (∀ x, s.me.msg = some x → s.me.isHandler = true →
      Completes (.mid d) s (s.setG d (x.id.setWidth 64)) ∧
      (i ≤ 23 → Completes (.marg (.g d) b) s (s.setG d ((x.payload.getD (i / 8) 0).extractLsb' (64 * (i % 8)) 64))) ∧
      (i ≤ 2 → Completes (.marg (.v v) b) s (s.setV v (x.payload.getD i 0)))) ∧
    (s.me.msg = none → s.mxBusy = false → ∀ k ∈ [Instr.mid d, .marg (.g d) b, .marg (.v v) b], exec k s = .next (s.deliver 0x0D0 s.pc s.pc))) ∧
  (∀ (s : State) (cl : BitVec 8) (m : Message), s.ev = some (.messageArrive cl m) → (s.getCluster cl).awake = true →
    let e := rd (s.getCluster cl).classTab m.cls
    e.enable = true → (s.getCluster cl).msgs = [] → s.msgsHeld cl = [] → (s.getCluster cl).msgFrames = [] →
    (∀ a, (s.getCluster cl).live.getLsbD m.cls.toNat = true → fitRun (s.getCluster cl).sysFrames sysFrameCount 1 = some a →
      exec .messageArrive s = .next (s.onCluster cl fun c =>
        { c with msgs := [m], msgFrames := [sysFrameBase + a], sysFrames := { at_ := a, len := 1 } :: c.sysFrames })) ∧
    ((s.getCluster cl).live.getLsbD m.cls.toNat = false → s.nextTid ≠ 0 → s.me.tid ≠ s.nextTid → (∀ c ∈ s.allCores, c.deque.length < 32) →
      ∃ t x, exec .messageArrive s = .next t ∧ t.findTask s.nextTid = some x ∧ x.st = .queued ∧ x.msg = some m ∧ x.self = 0 ∧
        x.tw[0] = e.entry ∧ x.tw[1] = m.id.setWidth 64 ∧ x.tw[7] = (0x20000 ||| (e.prio.setWidth 64 <<< 8) ||| e.budget.setWidth 64 : Word) ∧
        (t.getCluster cl).msgs = [] ∧ t.mem = s.mem))

/-! ### Capsules, collectives and system instructions -/

/-- R331, R332, R334: CAPENTER takes a FREE or DONE lock; adopts the capsule of a parked task of the same address space that has been descheduled for
ADOPTDLY, or of one whose cluster knows it no more; waits for one that has not been, or that runs; and traps for another address space. (The block
lies in a strong page without an error and its fields are well formed.) -/
def Obligations.CapsuleEntry : Prop :=
  ∀ (s : State) (a : GReg) (x : MX) (l : Leaf), s.me.capsule = false → s.me.tid ≠ 0 → s.me.isHandler = false → s.NoWatch → s.mem.wf = true →
    let ea := s.eaA a x
    let k := l.place.key
    let b := blockAt s.mem k
    let due (y : Task) : Prop := (s.part s.me.pid).regs.adoptdly.toNat ≤
      if s.slow.getLsbD (layerOf y.cl).toNat then (s.clock - y.desched) * 3 / 4 else s.clock - y.desched
    let runs := ∃ c, (s.getCore c).running = b.watched.1 ∧ b.watched.1 ≠ 0 ∧ (s.getCore c).awake = true ∧ (s.getCore c).halted = false
    Reaches s ea 128 .atomic l → Good s l.place 128 → ea.toNat % 128 = 0 → l.ent.ord = 1 → l.ent.kind = 0 ∨ l.ent.kind = 1 →
    b.formOk = true → footOk b.foot ea = true →
    (lockState b.lock = 0 ∨ lockState b.lock = 3 → ∃ t w m, CacheOnly s t ∧
      exec (.capenter a x) s = .next (w.onMe fun y => { y with capsule := true, cap := { block := ea, foot := b.foot, ret := s.pc + 12 } }) ∧
      Retired (({ t with mem := m } : State).onMe fun y => { y with ret := {}, q := Vector.replicate 8 0 }) w b.code 1 ∧
      m.word k = lockWord s.me.tid s.me.pid (clusterOf s.core.id) 1 ∧ m.word (k + 8) = 0 ∧
      (∀ i < 8, m.word (k + 16 + 8 * i) = s.g (BitVec.ofNat 6 (56 + i))) ∧ m.word (k + 120) = s.me.asid.setWidth 64 <<< 48 ∧
      ∀ x, x < k ∨ k + 128 ≤ x ∨ (k + 80 ≤ x ∧ x < k + 120) → m.get x = s.mem.get x) ∧
    (lockState b.lock = 1 ∨ lockState b.lock = 2 →
      (adoptAsid b.adoptw ≠ s.me.asid → ∃ t, CacheOnly s t ∧ exec (.capenter a x) s = .next (t.deliver 0x0E9 ea s.pc)) ∧
      (adoptAsid b.adoptw = s.me.asid → (∀ y, s.findTask b.watched.1 = some y → y.cl = b.watched.2 → y.st = .parked ∧ due y) →
        ∃ t w m, CacheOnly s t ∧
        exec (.capenter a x) s = .next (w.onMe fun y => { y with
          capsule := true, cap := { block := ea, foot := b.foot, ret := s.pc, expected := stepOf b.stepw, adopting := true, save := s.capRegs } }) ∧
        Retired ((({ t with mem := m } : State).onMe fun y => { y with q := Vector.replicate 8 0 }).setCapRegs b.ckpt) w
          (b.code + BitVec.ofNat 64 (12 * rofsOf b.stepw)) 1 ∧
        lockState (m.word k) = 2 ∧ lockOwner (m.word k) = lockOwner b.lock ∧ adopterOf (m.word (k + 120)) = s.me.tid ∧
        adoptAsid (m.word (k + 120)) = s.me.asid ∧ ∀ x, x < k ∨ (k + 8 ≤ x ∧ x < k + 120) ∨ k + 128 ≤ x → m.get x = s.mem.get x) ∧
      (adoptAsid b.adoptw = s.me.asid → (∃ y, s.findTask b.watched.1 = some y ∧ y.cl = b.watched.2 ∧ ((y.st = .parked ∧ ¬due y) ∨ (y.st = .running ∧ runs))) →
        ∃ t z, exec (.capenter a x) s = .next t ∧ t.core.running = 0 ∧ t.findTask s.me.tid = some z ∧ z.st = .parked ∧ z.parkCause = 0x0E6 ∧
          z.parkArg = ea ∧ z.pc = s.pc ∧ z.g = s.me.g ∧ t.mem.get k = s.mem.get k ||| 4 ∧ (∀ x, x ≠ k → t.mem.get x = s.mem.get x) ∧
          t.capWaits = [(k, s.me.tid)]))

/-- R328, R333, R336, R337, R339, R335: what a commit of the lock's holder does. CAPSTEP writes the checkpoint and the step word, with the step's pending
store; CAPEXIT writes the results, frees the lock and leaves for CRET. Neither writes a register but those named. A holder whose capsule another task
has brought to its end leaves for CRET; CAPRES reads the return record. R329, R328: in capsule mode a store waits for its step's commit, a load sees
it over memory, and a second store of a step, or one outside the footprint, traps. -/
def Obligations.CapsuleCommits : Prop :=
  ((∀ (s : State) (h : Hint) (l : Leaf), s.me.capsule = true → s.NoWatch → s.mem.wf = true →
    let c := s.me.cap
    let k := l.place.key
    let b := blockAt s.mem k
    Reaches s c.block 128 .atomic l → Good s l.place 128 → c.block.toNat % 128 = 0 → l.ent.ord = 1 → l.ent.kind = 0 ∨ l.ent.kind = 1 →
    l.pa < 2 ^ 52 → l.pa % 4096 = c.block.toNat % 4096 → lockState b.lock = 1 → lockOwner b.lock = s.me.tid → c.adopting = false →
    ∀ m0 : Memory,
    ((c.pending = none ∧ m0 = s.mem) ∨ ∃ va n v, c.pending = some (va, n, v) ∧ 0 < n ∧ n ≤ 8 ∧ va.toNat % 64 + n ≤ 64 ∧
      va.toNat % 4096 / 128 ≠ c.block.toNat % 4096 / 128 ∧ m0 = s.mem.write (k - c.block.toNat % 4096 + va.toNat % 4096) n v.toNat) →
    (∀ r, stepOf b.stepw = c.expected → c.expected < 64 → (s.pc + 12 - b.code).toNat = 12 * r → 1 ≤ r → r ≤ 65535 →
      ∃ t u, CacheOnly s u ∧ exec (.capstep h) s = .next t ∧
        t.me = { s.me with
          pc := s.pc + 12, retired := s.me.retired + 1, mclk := s.me.mclk + 1, q := Vector.replicate 8 0
          cap := { c with expected := c.expected + 1, pending := none, instrs := 0, stores := 0 } } ∧
        t = { u with me := t.me, mem := t.mem, agenda := t.agenda, core := { u.core with cclk := u.core.cclk + 1 } } ∧
        t.mem.word (k + 8) = stepWord r (c.expected + 1) ∧ (∀ i < 8, t.mem.word (k + 16 + 8 * i) = s.g (BitVec.ofNat 6 (56 + i))) ∧
        ∀ x, x < k + 8 ∨ k + 80 ≤ x → t.mem.get x = m0.get x) ∧
    (stepOf b.stepw = c.expected → c.expected < 64 →
      ∃ t u, CacheOnly s u ∧ exec (.capexit h) s = .next t ∧
        t.me = { s.me with
          pc := c.ret, retired := s.me.retired + 1, mclk := s.me.mclk + 1, capsule := false, cap := t.me.cap
          ret := { res0 := s.g 56, res1 := s.g 57, res2 := s.g 58, how := 1, steps := BitVec.ofNat 7 (c.expected + 1) } } ∧
        t = { u with me := t.me, mem := t.mem, agenda := t.agenda, core := { u.core with cclk := u.core.cclk + 1 } } ∧
        t.mem.word k = 0 ∧ t.mem.word (k + 8) = stepWord 0 (c.expected + 1) ∧ t.mem.word (k + 96) = s.g 56 ∧ t.mem.word (k + 104) = s.g 57 ∧
        t.mem.word (k + 112) = s.g 58 ∧ t.mem.word (k + 120) = 0 ∧
        ∀ x, x < k ∨ (k + 16 ≤ x ∧ x < k + 96) ∨ k + 128 ≤ x → t.mem.get x = m0.get x)) ∧
  (∀ (s : State) (h : Hint) (l : Leaf), s.me.capsule = true →
    Reaches s s.me.cap.block 128 .atomic l → Good s l.place 128 → l.ent.ord = 1 → l.ent.kind = 0 ∨ l.ent.kind = 1 →
    lockState (blockAt s.mem l.place.key).lock = 0 → s.me.cap.adopting = false → s.me.ret.how = 2 →
    ∃ u, CacheOnly s u ∧ exec (.capexit h) s = .next (u.leaveCapsule s.me.cap.ret)) ∧
  (∀ (s : State) (d : GReg) (h : Hint), s.Calm → s.me.capsule = false →
    Completes (.capres d 0 h) s (s.setG d s.me.ret.res0) 1 ∧ Completes (.capres d 1 h) s (s.setG d s.me.ret.res1) 1 ∧
    Completes (.capres d 2 h) s (s.setG d s.me.ret.res2) 1 ∧
    Completes (.capres d 3 h) s (s.setG d ((0 : BitVec 25) ++ s.me.ret.steps ++ (0 : BitVec 30) ++ s.me.ret.how)) 1) ∧
  (∀ (s : State) (k : Word), s.ev = some (.capsuleDeliveryAck k) → s.NoWatch → s.mem.wf = true →
    ∃ m, exec .capsuleDeliveryAck s = .next { s with mem := m } ∧ lockState (m.word k.toNat) = 3 ∧
      lockOwner (m.word k.toNat) = lockOwner (s.mem.word k.toNat) ∧ ∀ x, x < k.toNat ∨ k.toNat + 8 ≤ x → m.get x = s.mem.get x) ∧
  (∀ (s : State) (t : BitVec 32), s.ev = some (.capsuleAdoptTimer t) →
    ∃ u, exec .capsuleAdoptTimer s = .next u ∧ u.mem = s.mem ∧
      u.capWaits = s.capWaits.filter fun w => !(!(s.getTask w.2).capsule && (s.lockWatched w.1).1 == t &&
        s.adoptable (s.getTask w.2).pid (s.lockWatched w.1)))) ∧
  (∀ (s : State) (d : GReg) (a b : GK) (x : MX), s.me.capsule = true → s.mxBusy = false → x.space = 0 →
    let ea := s.ea a b x
    let c := s.me.cap
    let inside := ea.toNat / 4096 = c.block.toNat / 4096 ∧ c.foot.getLsbD (ea.toNat % 4096 / 64) = true ∧ ea.toNat % x.bytes = 0
    (c.stores = 0 → inside →
      Completes (.st d a b x) s (s.onMe fun t => { t with cap := { t.cap with pending := some (ea, x.bytes, s.g d), stores := t.cap.stores + 1 } }) 1) ∧
    (c.stores ≠ 0 → ∃ v, exec (.st d a b x) s = .next (({ s with freeCount := s.freeCount + 1 } : State).deliver 0x0DB v s.pc)) ∧
    (c.stores = 0 → ¬inside → ∃ v, exec (.st d a b x) s = .next (({ s with freeCount := s.freeCount + 1 } : State).deliver 0x0DA v s.pc)) ∧
    (∀ l w, (Instr.ld d a b x).wf = true → Reaches s ea x.bytes .read l → x.mod.getLsbD 0 = false →
      c.pending = some (ea, x.bytes, w) → ∃ t, CacheOnly s t ∧
        Completes (.ld d a b x) s (t.setG d (BitVec.ofNat 64 (w.toNat % 2 ^ (8 * x.bytes)))) 1))

/-- R320, R321: a COLL of any of the five operations, whose descriptor, group and shape records pass the checks, completes: the collective is outstanding
with the descriptor's fields and the device's rank, and one of this device alone has nothing to wait for, so that its completion is an event. COLLWAIT
completes for a finished collective and takes it out, parks for one that runs, and traps COLL.none where there is none. What COLL refuses. (The
descriptor, the group's ids and the records lie each in one page, and the TLBs' entries say what the tables say.) -/
def Obligations.Collectives : Prop :=
  (∀ (s : State) (a : GReg) (l lg ls ld : Leaf), s.Calm →
    let va := s.g a
    let x := s.mem.read l.place.key 64
    let word (o : Nat) : Word := BitVec.ofNat 64 (x / 2 ^ o)
    let gva := word 128
    let op := x / 2 ^ 192 % 256
    let n := s.mem.read lg.place.key 4
    let ids := (List.range n).map fun i => BitVec.ofNat 16 (s.mem.read (lg.place.key + 8 + 2 * i) 2)
    let record (r : Leaf) : List Word := (List.range 8).map fun i => BitVec.ofNat 64 (s.mem.read (r.place.key + 8 * i) 8)
    let shape (v : Word) (r : Leaf) : Prop := v.toNat % 64 = 0 ∧ Reaches s v 64 .read r ∧ Good s r.place 64 ∧
      (tsrOf (record r)).formCause = none ∧ (op ≤ 1 → (tsrOf (record r)).fmt ∈ [0, 1, 2, 3, 9, 10])
    let named : List (Word × Leaf) := if op = 4 then [] else (word 0, ls) :: if word 64 = 0 then [] else [(word 64, ld)]
    va.toNat % 64 = 0 → Reaches s va 64 .read l → s.Paged va → Good s l.place 64 →
    op ≤ 4 → x / 2 ^ 200 % 256 ≤ 2 → x / 2 ^ 224 % 2 ^ 32 = 0 → x / 2 ^ 384 = 0 →
    gva.toNat % 64 = 0 → Reaches s gva (8 + 2 * n) .read lg → s.Paged gva → Good s lg.place (8 + 2 * n) →
    1 ≤ n → n ≤ 1024 → s.mem.read (lg.place.key + 4) 4 = 0 → (op = 3 → x / 2 ^ 208 % 2 ^ 16 < n) →
    s.memberId ∈ ids → ids.Nodup → (∀ r ∈ named, shape r.1 r.2) →
    (∀ p ∈ (va, l) :: (gva, lg) :: named, ∀ q ∈ (va, l) :: (gva, lg) :: named, s.Together p.1 p.2 q.1 q.2) →
    ∃ t p, CacheOnly s t ∧
      (let u : State := { t with colls := [p], nextOp := s.nextOp + 1 }
       Completes (.coll a) s (if n = 1 then u.push (.collectiveComplete s.nextOp) else u)) ∧
      p.tid = s.me.tid ∧ p.desc = va ∧ p.id = s.nextOp ∧ p.op = op ∧ p.rop = x / 2 ^ 200 % 256 ∧ p.root = x / 2 ^ 208 % 2 ^ 16 ∧ p.group = ids ∧
      ids[p.rank]? = some s.memberId ∧ p.ctag = word 256 ∧ p.ctr = word 320 ∧ (op ≠ 4 → p.src = record ls) ∧
      (op ≠ 4 → word 64 ≠ 0 → p.dst = record ld) ∧ p.finished = false) ∧
  (∀ (s : State) (a : GReg), s.mxBusy = false → s.me.replayable = false → (s.g a).toNat % 64 ≠ 0 →
    ∃ v, exec (.coll a) s = .next (({ s with freeCount := s.freeCount + 1 } : State).deliver 0x100 v s.pc)) ∧
  (∀ (s : State) (a : GReg), s.mxBusy = false →
    let mine := s.colls.find? fun c => c.tid == s.me.tid && c.desc == s.g a
    (mine = none → exec (.collwait a) s = .next (s.deliver 0x105 (s.g a) s.pc)) ∧
    (∀ c, mine = some c → c.finished = true → c.outcome = none →
      Completes (.collwait a) s { s with colls := s.colls.filter fun x => x.id != c.id }) ∧
    (∀ c e, mine = some c → c.finished = true → c.outcome = some e →
      ∃ v, exec (.collwait a) s = .next (({ s with colls := s.colls.filter fun x => x.id != c.id, freeCount := s.freeCount + 1 } : State).deliver e v s.pc)) ∧
    (∀ c, mine = some c → c.finished = false → s.me.isHandler = false → s.me.tid ≠ 0 →
      ∃ t y, exec (.collwait a) s = .next t ∧ t.core.running = 0 ∧ t.findTask s.me.tid = some y ∧ y.st = .parked ∧ y.pc = s.pc ∧ y.g = s.me.g ∧
        t.mem = s.mem)) ∧
  (∀ (s : State) (id : BitVec 32) (p : CollPart) (y : Task), s.ev = some (.collectiveComplete id) → s.colls = [p] → p.id = id → p.finished = false →
    s.findTask p.tid = some y → p.op = 4 → p.group = [s.memberId] → s.pod.fenced.getLsbD s.memberId.toNat = false → p.ctr = 0 → p.waiting = false →
    p.spoiled = [] → p.moved = false → s.outs = [] → s.waits = [] →
    exec .collectiveComplete s = .next { s with colls := [{ p with finished := true, outcome := none, paused := false }] }) ∧
  (∀ (s : State) (c : BitVec 16) (id : BitVec 32), s.ev = some (.reductionPartialSum c id) →
    let r := (s.getCore c).redtree
    (r.getLsbD 63 = true → r.extractLsb' 16 10 = s.deviceId →
      exec .reductionPartialSum s = .next (s.push (.reductionPartialSum (r.extractLsb' 0 16) id))) ∧
    (r.getLsbD 63 = true → r.extractLsb' 16 10 ≠ s.deviceId →
      exec .reductionPartialSum s = .next { s with fabricOut := s.fabricOut ++ [(r.extractLsb' 16 10, .partialSum (r.extractLsb' 0 16) id)] }) ∧
    (r.getLsbD 63 = false → s.agenda = [] →
      exec .reductionPartialSum s = .next (s.push (.collectiveComplete id))))

/-- R373, R86: TLBINV drops, in every TLB of the device, the entries of the task's partition that its kind names, and the instruction
lines with them; it drops no other entry, and it changes nothing else. Each of the five kinds completes where no queued matrix access and
no outstanding request uses what it drops. -/
def Obligations.TlbInvalidations : Prop :=
  ∀ (s : State) (a b : GReg) (asid : BitVec 16), s.Calm → s.me.asid = (s.part s.me.pid).sysasid →
    (∀ c ∈ s.allCores, c.mx.queue = []) →
    let pid := s.me.pid
    Completes (.tlbinvPage a asid) s (s.tlbinv pid (.page (s.g a) asid)) ∧
    Completes (.tlbinvRange a b asid) s (s.tlbinv pid (.range (s.g a) (s.g b) asid)) ∧
    Completes (.tlbinvAsid asid) s (s.tlbinv pid (.asid asid)) ∧
    Completes (.tlbinvAsidg asid) s (s.tlbinv pid (.asidg asid)) ∧
    Completes .tlbinvAll s (s.tlbinv pid .all) ∧
    ∀ (k : InvKind) (e : TlbEnt),
      let lo := e.page * 2 ^ e.log
      let hi := lo + 2 ^ e.log
      let named : Prop := e.pid = pid ∧
        match k with
        | .page v y => e.asid = y ∧ lo ≤ v.toNat ∧ v.toNat < hi
        | .range v n y => e.asid = y ∧ n ≠ 0 ∧ lo < v.toNat + n.toNat ∧ v.toNat < hi
        | .asid y => e.asid = y ∧ permG e.perms = false
        | .asidg y => e.asid = y
        | .all => True
      (∀ c, e ∈ ((s.tlbinv pid k).getCore c).tlb ↔ e ∈ (s.getCore c).tlb ∧ ¬named) ∧
      (∀ c, e ∈ ((s.tlbinv pid k).getCluster c).tlb ↔ e ∈ (s.getCluster c).tlb ∧ ¬named) ∧
      (∀ n, e ∈ ((s.tlbinv pid k).getSlice n).tlb ↔ e ∈ (s.getSlice n).tlb ∧ ¬named)

/-- R370: REPLAY.RESUME lets a TRAPPED task of the partition go on with INTRAP clear, and REPLAY.FAIL fails it with its cause; both write
1. For any other number they write 0 and do nothing. REPLAY.ALL counts the FAULT tasks that it resumes. R371, R372: CTXSAVE.T writes the
debug image of a TRAPPED task of the partition, in which g0 reads 0, and CTXLOAD.T replaces its registers and its PC; both write 1. For
any other number they write 0 and do nothing. An image whose PC is no multiple of 4 traps CONTROL.target-align. Each of these forms
completes. -/
def Obligations.ReplaysAndDebugImages : Prop :=
  (∀ (s : State) (d b : GReg), s.Calm → s.me.asid = (s.part s.me.pid).sysasid → (∀ c ∈ s.clusters, c.intAcc = []) →
    let named := s.findTask ((s.g b).extractLsb' 0 32)
    let ok (t : Task) : Prop := (s.g b).extractLsb' 32 32 = 0 ∧ named = some t ∧ t.st = .trapped ∧ t.pid = s.me.pid
    ((¬∃ t, ok t) → Completes (.replayResume d b) s (s.setG d 0) ∧ Completes (.replayFail d b) s (s.setG d 0)) ∧
    (∀ t, ok t → t.tid ≠ 0 → t.tid = (s.g b).extractLsb' 0 32 → t.tid ≠ s.me.tid →
      (∃ (u : State) (y : Task), Completes (.replayResume d b) s (u.setG d 1) ∧ u.findTask t.tid = some y ∧ y = { t with intrap := false, st := .parked } ∧
        t.tid ∈ (u.getCluster t.cl).ready ∧ u.mem = s.mem ∧ u.me = s.me) ∧
      Completes (.replayFail d b) s ((s.failTask t.tid t.parkCause).setG d 1)) ∧
    Completes (.replayAll d) s ((s.replayAll s.me.pid).1.setG d (BitVec.ofNat 64 (s.allTasks.countP fun t => t.pid == s.me.pid && t.st == .fault)))) ∧
  (∀ (s : State) (d a b : GReg) (l : Leaf), s.Calm → s.me.asid = (s.part s.me.pid).sysasid →
    let ok (t : Task) : Prop := (s.g b).extractLsb' 32 32 = 0 ∧ s.findTask ((s.g b).extractLsb' 0 32) = some t ∧ t.st = .trapped ∧ t.pid = s.me.pid
    ((¬∃ t, ok t) → Completes (.ctxsaveT d a b) s (s.setG d 0) ∧ Completes (.ctxloadT d a b) s (s.setG d 0)) ∧
    (∀ t, ok t → Reaches s (s.g a) 4096 .write l → s.NoWatch →
      ∃ u v, CacheOnly s u ∧ Completes (.ctxsaveT d a b) s ((u.stored l.place 4096 v).setG d 1) ∧ v % 2 ^ 64 = 0 ∧
        (∀ i : Fin 64, i ≠ 0 → v / 2 ^ (64 * i.val) % 2 ^ 64 = t.g[i].toNat) ∧
        (∀ i : Fin 32, v / 2 ^ (8 * (512 + 64 * i.val)) % 2 ^ 512 = t.v[i].toNat) ∧ v / 2 ^ (8 * 2624) % 2 ^ 64 = t.pc.toNat) ∧
    (∀ t, ok t → t.tid ≠ s.me.tid → Reaches s (s.g a) 4096 .read l → Good s l.place 4096 →
      let x := s.mem.read l.place.key 4096
      let pc := BitVec.ofNat 64 (x / 2 ^ (8 * 2624))
      (pc.extractLsb' 0 2 = 0 → ∃ (u : State) (y : Task), CacheOnly s u ∧ Completes (.ctxloadT d a b) s ((u.putTask y).setG d 1) ∧ y.pc = pc ∧ y.tid = t.tid ∧
        (∀ i : Fin 64, y.g[i] = BitVec.ofNat 64 (x / 2 ^ (64 * i.val))) ∧
        ∀ i : Fin 32, y.v[i] = BitVec.ofNat 512 (x / 2 ^ (8 * (512 + 64 * i.val)))) ∧
      (pc.extractLsb' 0 2 ≠ 0 → ∃ u, CacheOnly s u ∧ exec (.ctxloadT d a b) s = .next (u.deliver 0x030 pc s.pc))))

/-- R371, R367: CTXSAVE of the partition whose area is too small writes the size (whose value the device chooses, see assumption 19) and
does nothing else; with an area that takes the image, and whose pages take writes, the switch begins, and the issuing task parks after it
with gd = 0. R372: CTXLOAD refuses an image of another device or other cells, or a partition that is not alone, with SYSTEM.context-busy,
and restores one that this device holds with the bytes of the area. Both complete so. -/
def Obligations.PartitionImages : Prop :=
  (∀ (s : State) (d a b : GReg), s.Calm → s.me.asid = (s.part s.me.pid).sysasid →
    let u : State := { s with freeCount := s.freeCount + 1 }
    let size := imageSize s.freeCount
    ((s.g b).toNat < size → Completes (.ctxsave d a b) s (u.setG d (BitVec.ofNat 64 size))) ∧
    (∀ f : Word → Leaf, size ≤ (s.g b).toNat → s.me.tid ≠ 0 → s.me.isHandler = false →
      (∀ q ∈ areaParts (s.g a) size, Reaches u q.1 q.2 .write (f q.1)) →
      (∀ q ∈ areaParts (s.g a) size, ∀ r ∈ areaParts (s.g a) size, u.Together q.1 (f q.1) r.1 (f r.1)) →
      ∃ (w : State) (y : Task), exec (.ctxsave d a b) s = .next w ∧ w.core.running = 0 ∧ w.mem = s.mem ∧ (w.part s.me.pid).stopping = true ∧
        (w.part s.me.pid).saveTo = some { asid := s.me.asid, va := s.g a, phys := false, key := s.freeCount } ∧
        w.findTask s.me.tid = some y ∧ y.st = .parked ∧ y.pc = s.pc + 12 ∧ y.readG d = 0)) ∧
  (∀ (s : State) (d a : GReg) (l : Leaf), s.Calm → s.me.asid = (s.part s.me.pid).sysasid → Reaches s (s.g a) 256 .read l → Good s l.place 256 →
    let h := s.mem.read l.place.key 256
    let mine := h / 2 ^ 82 % 2 ^ 10 = s.deviceId.toNat ∧ h / 2 ^ 128 % 2 ^ 1536 = (s.part s.me.pid).cells.toNat ∧ s.alone = true
    (¬mine → ∃ t v, CacheOnly s t ∧ exec (.ctxload d a) s = .next (({ t with freeCount := t.freeCount + 1 } : State).deliver 0x16F v s.pc)) ∧
    (mine → h / 2 ^ 64 % 2 ^ 16 ≠ Config.stepping.toNat → ∃ t v, CacheOnly s t ∧
      exec (.ctxload d a) s = .next (({ t with freeCount := t.freeCount + 1 } : State).deliver 0x16E v s.pc)) ∧
    (∀ (i i0 : Image) (f : Word → Leaf), mine → h / 2 ^ 64 % 2 ^ 16 = Config.stepping.toNat →
      s.images.find? (fun i => i.size == h % 2 ^ 64) = some i0 →
      (∀ q ∈ areaParts (s.g a) i0.size, Reaches s q.1 q.2 .read (f q.1) ∧ Good s (f q.1).place q.2 ∧ s.Together (s.g a) l q.1 (f q.1)) →
      (∀ q ∈ areaParts (s.g a) i0.size, ∀ r ∈ areaParts (s.g a) i0.size, s.Together q.1 (f q.1) r.1 (f r.1)) →
      let bytes := (areaParts (s.g a) i0.size).flatMap fun q => natBytes q.2 (s.mem.read (f q.1).place.key q.2)
      s.images.find? (fun i => i.size == i0.size && imageMatches bytes i) = some i → s.roomFor i = true →
      (∀ x ∈ i.tasks, x.tid ≠ s.me.tid) → i.watch = [] →
      ∃ t, CacheOnly s t ∧ Completes (.ctxload d a) s ((t.restore i).setG d 0)))

/-- R424, R423, R367, R406: a partition that runs ignores a start; a record that fails a check leaves PCAUSE and the place of the field, and the partition
stopped; a good one starts it with the record's fields. A stop asks every core to stop and, once all have, leaves the partition stopped; a restart
then starts it. A switch keeps the partition's image. The loss of an engine stops its partition with MACHINE.internal. R38, R121: SYSW of CLASSTAB
reads the table at the value and loads its entries 0 to 14 into every cluster of the partition, entry 15 disabled; a table that fails a check traps
MSG.classtab. -/
def Obligations.PartitionLifecycle : Prop :=
  (∀ (s : State) (pid : BitVec 2),
    let p := s.part pid
    let x := s.hbmRead p.prec.toNat 512
    let r : PartRec := { bytes := x.2 }
    let u := x.1.takeRecord pid r
    (s.ev = some (.partitionStart pid) →
      (p.run = true → exec .partitionStart s = .next s) ∧
      (∀ a, p.run = false → u.startCause pid r = some a →
        exec .partitionStart s = .next (x.1.onPart pid fun q => { q with cause := 0x16D, va := BitVec.ofNat 64 a })) ∧
      (∀ c, p.run = false → u.startCause pid r = none → u.layersCause pid r = some c →
        exec .partitionStart s = .next (x.1.onPart pid fun q => { q with cause := c, va := BitVec.ofNat 64 (p.prec.toNat + 16) })) ∧
      (p.run = false → s.NoPartials → u.startCause pid r = none → u.layersCause pid r = none → u.changedLayers r = [] →
        (∀ n < 4, n < r.nstream → (descOf (s.mem.read (r.dw (64 + 8 * n)) 64)).enable = false) → (∀ c ∈ s.clusters, c.msgs = []) →
        ∃ t, exec .partitionStart s = .next t ∧ t.mem = s.mem ∧
          let q := t.part pid
          q.run = true ∧ q.cause = 0 ∧ q.cells = r.cells ∧ q.sysasid = r.sysasid ∧ q.astab = r.dw 24 ∧ q.quantum = 0 ∧ q.stopping = false)) ∧
    (s.ev = some (.partitionStop pid) →
      (p.run = false → exec .partitionStop s = .next (s.unwait (.partitionStop pid))) ∧
      (p.run = true → (s.askStop pid).quiet pid = false → exec .partitionStop s = .next ((s.askStop pid).wait (.partitionStop pid))) ∧
      (p.run = true → (s.askStop pid).quiet pid = true → ∃ t, exec .partitionStop s = .next t ∧ t = (s.askStop pid).stopNow pid ∧
        (t.part pid).run = false ∧ (t.part pid).stopping = false)) ∧
    (s.ev = some (.partitionRestart pid) →
      (p.run = false → exec .partitionRestart s = .next ((s.unwait (.partitionRestart pid)).push (.partitionStart pid))) ∧
      (p.run = true → (s.askStop pid).quiet pid = false → exec .partitionRestart s = .next ((s.askStop pid).wait (.partitionRestart pid))) ∧
      (p.run = true → (s.askStop pid).quiet pid = true → ∃ t es, exec .partitionRestart s = .next t ∧ (t.part pid).run = false ∧
        t.agenda = es ++ [.partitionStart pid])) ∧
    (s.ev = some (.rootControllerContextSwitch pid) →
      (p.run = false → exec .rootControllerContextSwitch s = .next (s.unwait (.rootControllerContextSwitch pid))) ∧
      (p.run = true → p.saveTo = none → ∃ t, exec .rootControllerContextSwitch s = .next t ∧ t.mem = s.mem ∧ (t.part pid).stopping = true ∧
        (t.part pid).saveTo = some { phys := true, key := s.freeCount }) ∧
      (∀ a, p.run = true → p.saveTo = some a → s.switchReady pid = false →
        exec .rootControllerContextSwitch s = .next (s.wait (.rootControllerContextSwitch pid))) ∧
      (∀ a, p.run = true → p.saveTo = some a → s.switchReady pid = true → a.phys = false →
        ∃ t i is, exec .rootControllerContextSwitch s = .next t ∧ t.images = i :: is ∧ i.pid = pid ∧ i.key = a.key ∧ (t.part pid).run = false)) ∧
    (∀ (e : BaseEngine) (m : BitVec 4), s.ev = some (.engineWatchdogTimeout e m) → p.run = true →
      (∀ q : BitVec 2, m.getLsbD q.toNat = true ∧ (s.part q).run = true ↔ q = pid) →
      ∃ t, exec .engineWatchdogTimeout s = .next t ∧ (t.part pid).run = false ∧ (t.part pid).cause = 0x17B)) ∧
  (∀ (s : State) (a : GK) (l : Leaf), s.Calm → s.me.asid = (s.part s.me.pid).sysasid →
    let v := s.gk a &&& 0xFFFFFFFFFFFFFFC0
    let word (i : Nat) : Word := BitVec.ofNat 64 (s.mem.read (l.place.key + 8 * i) 8)
    let fine (i : Nat) : Prop := (word (2 * i + 1)).toNat < 2 ^ 16 ∧ (word (2 * i + 1)).getLsbD 5 = false ∧ (word (2 * i + 1)).getLsbD 2 = false ∧
      ((word (2 * i + 1)).getLsbD 4 = true → (word (2 * i + 1)).extractLsb' 0 2 ≠ 3 ∧ (word (2 * i)).extractLsb' 0 2 = 0)
    Reaches s v 256 .read l → Good s l.place 256 →
    ((∀ i < 15, fine i) → (∀ c ∈ s.clusters, c.msgs = [] ∧ c.msgFrames = []) → ∃ t, Completes (.syswClasstab a) s t ∧ t.mem = s.mem ∧ t.me = s.me ∧ (t.part s.me.pid).regs.classtab = v ∧
      ∀ c, s.clusterInPart s.me.pid c = true → c.toNat % 64 < 48 →
        (∀ i : Fin 16, i.val < 15 → ((t.getCluster c).classTab[i]).entry = word (2 * i.val) ∧
          ((t.getCluster c).classTab[i]).enable = (word (2 * i.val + 1)).getLsbD 4 ∧
          (t.getCluster c).live.getLsbD i.val = (word (2 * i.val + 1)).getLsbD 3) ∧
        (t.getCluster c).live.getLsbD 15 = false ∧ ((t.getCluster c).classTab[(15 : Fin 16)]).enable = false) ∧
    ((∃ i < 15, ¬fine i) → ∃ t w, CacheOnly s t ∧
      exec (.syswClasstab a) s = .next (({ t with freeCount := t.freeCount + 1 } : State).deliver 0x0C8 w s.pc)))

/-! ### Tiles -/

/-- R240, R228: TLD, TSV, TLDV and TSVV access a tile of the task at an offset inside its frames: EA is the start of its first frame and
the offset. Beyond the frames they trap TILE.reach, and an id that names no tile of the task traps TILE.id with the id. Otherwise each
completes. -/
def Obligations.TileAccesses : Prop :=
  ∀ (s : State) (a : GReg) (b : GK) (x : MX),
    let off := s.tileOff b x
    let n := x.bytes
    let ew := 2 ^ (x.mod.extractLsb' 4 2).toNat
    let on (i : Nat) : Bool := if x.mod.getLsbD 3 then (s.q (x.mod.extractLsb' 0 3)).getLsbD i else true
    (∀ t, s.myTile (s.g a) = some t → t.failed = false → t.st = .ready → off.toNat + n ≤ t.frames * 4096 →
      let ea := BitVec.ofNat 64 (t.frame * 4096) + off
      let k := s.localKey 2 ea
      s.localGood 2 ea n →
      (∀ d, (Instr.tld d a b x).wf = true → Local s 2 ea n n →
        Completes (.tld d a b x) s (s.setG d (if x.mod.getLsbD 0 then (BitVec.ofNat (8 * n) (s.cm.read k n)).signExtend 64 else BitVec.ofNat 64 (s.cm.read k n))) 1) ∧
      (∀ d, (Instr.tsv d a b x).wf = true → Local s 2 ea n n →
        Completes (.tsv d a b x) s { s with cm := s.cm.write k n ((s.g d).toNat % 2 ^ (8 * n)) } 1) ∧
      (∀ d, (Instr.tldv d a b x).wf = true → Local s 2 ea n ew → ∃ w, Completes (.tldv d a b x) s (s.setV d w) 1 ∧
        ∀ i < 64 / ew, elem (8 * ew) w i = if on i then (if i < n / ew then s.cm.read (k + i * ew) ew else 0) else elem (8 * ew) (s.v d) i) ∧
      (∀ d, (Instr.tsvv d a b x).wf = true → Local s 2 ea n ew → Completes (.tsvv d a b x) s { s with
        cm := (List.range (n / ew)).foldl (fun m i => if on i then m.write (k + i * ew) ew (elem (8 * ew) (s.v d) i) else m) s.cm } 1)) ∧
    (s.mxBusy = false → ∀ d v, ∀ i ∈ [Instr.tld d a b x, .tsv d a b x, .tldv v a b x, .tsvv v a b x],
      (s.myTile (s.g a) = none → exec i s = .next (s.deliver 0x065 (s.g a) s.pc)) ∧
      (∀ t, s.myTile (s.g a) = some t → t.failed = false → t.st ≠ .draining → t.frames * 4096 < off.toNat + n →
        exec i s = .next (s.deliver 0x064 (BitVec.ofNat 64 (t.frame * 4096) + off) s.pc)))

/-- R246, R247, R249: TCP and TSHAPE queue a copy, whose completion is an event; the bytes move then. TCP's size lies in 1 to 2^32 and its
ranges may not overlap in one space; TSHAPE takes its runs from the shape record (here one that the record cache holds, R30). Both
complete where the cluster's engine has room. -/
def Obligations.TileCopies : Prop :=
  ∀ (s : State) (d a b : GReg) (x : TX) (rec8 : Option (Vector Word 8)), s.Calm →
    let cl := clusterOf s.core.id
    let queued (t : State) (runs : List (Place × Place × Nat)) (bytes : Nat) : State :=
      let o : EngOp :=
        { id := s.nextOp, tid := s.me.tid, pid := s.me.pid, asid := s.me.asid, runs := runs, bytes := bytes, push := rec8, code := x.cnud
          ctr := if x.ctr = 0 then none else some (s.g x.ctr), amt := if x.amt = 0 then BitVec.ofNat 64 bytes else s.g x.amt }
      (({ t with nextOp := s.nextOp + 1 } : State).onCluster cl fun c => { c with ops := c.ops ++ [o] }).push (.copyEngineComplete cl s.nextOp)
    let n := (s.g b).toNat
    let free (c : Cause) : Prop := ∃ v, exec (.tcp d a b x) s = .next (({ s with freeCount := s.freeCount + 1 } : State).deliver c v s.pc)
    (n = 0 ∨ 2 ^ 32 < n → free 0x069) ∧
    (0 < n → n ≤ 2 ^ 32 → x.sk = x.dk → overlaps (s.g a) (s.g d) n = true → free 0x068) ∧
    (RecNamed s x.recp rec8 → (s.getCluster cl).ops.length < 64 → 0 < n → n ≤ 2 ^ 32 → (x.sk = x.dk → overlaps (s.g a) (s.g d) n = false) →
      (x.sk = true → Local s 2 (s.g a) n 1) → (x.dk = true → Local s 2 (s.g d) n 1) →
      ∃ t, CacheOnly s t ∧ Completes (.tcp d a b x) s (queued t
        [(if x.sk then .cm (s.g a).toNat else .va (s.g a), if x.dk then .cm (s.g d).toNat else .va (s.g d), n)] n) 1) ∧
    (∀ (st : Bool) (e : RcEnt) (y : Tile), RecNamed s x.recp rec8 → (s.getCluster cl).ops.length < 64 → (s.g a).toNat % 64 = 0 → b ≠ 63 →
      (s.getCluster cl).rcache.find? (fun e => e.asid == s.me.asid && e.va == s.g a) = some e → (tsrOf e.words).cause = none →
      s.myTile (s.g d) = some y → y.failed = false → y.st = .ready →
      let c := s.coords b
      (tsrOf e.words).coordsOk c.1 c.2.1 c.2.2.1 c.2.2.2 = true → (tsrOf e.words).size ≤ y.frames * 4096 →
      let runs := ((tsrOf e.words).segs c).map fun g =>
        if st then (.cm (y.frame * 4096 + g.off), .va g.va, g.len) else (Place.va g.va, Place.cm (y.frame * 4096 + g.off), g.len)
      ∃ t, CacheOnly (s.onCluster cl fun k => { k with rcache := e :: k.rcache.filter fun q => !(q.asid == s.me.asid && q.va == s.g a) }) t ∧
        Completes (.tshape d a b st x) s (queued t runs ((runs.map fun r => r.2.2).sum)))

/-- R244, R245, R248, R242, R243: TWAIT completes where nothing that it names is under way, and parks for a FILLING tile; TSTAT reads a tile's state and the
count of the task's operations; RCFENCE empties the record cache, and the engine sees the task's stores from there on; TALLOC takes the lowest free
run of frames, or writes 0; TFREE frees an IN or SCRATCH tile at once, and starts the drain of another as an operation of the engine, whose tile
TFREE and TWAIT name no more. -/
def Obligations.TileStates : Prop :=
  (∀ (s : State) (a : GReg) (x : TX) (y : Tile), s.Calm → s.myTile (s.g a) = some y → y.failed = false →
    let cl := clusterOf s.core.id
    (a ≠ 0 → y.st = .ready → Completes (.twait a) s s) ∧
    (a ≠ 0 → y.st = .filling → exec (.twait a) s = .next (s.parkMe 0x066 (BitVec.ofNat 64 y.frame) s.pc)) ∧
    (y.st = .draining → exec (.tfree a x) s = .next (s.deliver 0x065 (s.g a) s.pc) ∧
      (a ≠ 0 → exec (.twait a) s = .next (s.deliver 0x065 (s.g a) s.pc))) ∧
    (y.st = .ready → y.frames ≠ 0 → s.opsOf s.me.tid = [] → x.recp = 0 → x.ctr = 0 →
      (∀ o ∈ (s.getCluster cl).ops, o.tid ≠ s.me.tid ∧ o.id ≠ s.nextOp) → s.me.st = .running → (∀ z ∈ s.tasks, z.tid ≠ s.me.tid) →
      (y.mode = .inp ∨ y.mode = .scratch → ∃ u, Completes (.tfree a x) s u ∧ u.me = s.me ∧ u.mem = s.mem ∧
        (u.getCluster cl).tiles = (s.getCluster cl).tiles.filter (fun z => z.frame != y.frame || z.frames == 0) ∧
        (u.getCluster cl).ops = (s.getCluster cl).ops) ∧
      (y.mode = .out ∨ y.mode = .inout → (s.getCluster cl).ops.length < 64 → ∃ u o, Completes (.tfree a x) s u ∧ u.me = s.me ∧ u.mem = s.mem ∧
        .tileDrainComplete cl (BitVec.ofNat 11 y.frame) ∈ u.agenda ∧ (u.getCluster cl).ops = (s.getCluster cl).ops ++ [o] ∧
        o.id = s.nextOp ∧ o.tid = s.me.tid ∧ o.drain = some y.frame ∧
        ∀ z ∈ (u.getCluster cl).tiles, z.frame = y.frame → z.frames ≠ 0 → z.st = .draining))) ∧
  (∀ s : State, s.opsOf s.me.tid = [] → Completes (.twait 0) s s) ∧
  (∀ s : State, s.Calm → Completes .rcfence s ((s.onMe fun t => { t with unseen := [] }).onCluster (clusterOf s.core.id) fun c => { c with rcache := [] })) ∧
  (∀ (s : State) (d a : GReg), let n := 2 ^ 48 * min (s.opsOf s.me.tid).length 65535
    let mode (t : Tile) : Nat := match t.mode with | .inp => 1 | .out => 2 | .inout => 3 | .scratch => 4
    (a = 0 ∨ s.myTile (s.g a) = none → Completes (.tstat d a) s (s.setG d (BitVec.ofNat 64 n))) ∧
    ∀ t, a ≠ 0 → s.myTile (s.g a) = some t → Completes (.tstat d a) s (s.setG d (BitVec.ofNat 64 (n + 2 ^ 31 + 2 ^ 8 * mode t +
      if t.failed then 2 ^ 30 else 2 ^ 16 * t.frames + match t.st with | .filling => 1 | .ready => 2 | .draining => 3)))) ∧
  (∀ (s base : State) (d a : GReg) (l : Leaf) (segs : List Seg) (n : Nat) (shape : Option Tsr), (s.g a).toNat % 16 = 0 → Reaches s (s.g a) 16 .read l → Good s l.place 16 →
    let cl := clusterOf s.core.id
    let v := s.mem.read l.place.key 16
    let e := tileArgOf (v % 2 ^ 64) (v / 2 ^ 64)
    let room := s.framesOf cl s.me.tid + e.frames ≤ 64
    let at_ : Word := s.g a - BitVec.ofNat 64 ((s.g a).toNat % 64) + BitVec.ofNat 64 (64 * e.sri)
    (e.sri = 0 ∨ e.mode = 4) ∧ shape = none ∧ base = s ∨
      e.sri ≠ 0 ∧ e.mode ≠ 4 ∧ ∃ q, (s.getCluster cl).rcache.find? (fun q => q.asid == s.me.asid && q.va == at_) = some q ∧
        shape = some (tsrOf q.words) ∧
        base = (s.onCluster cl fun c => { c with rcache := q :: c.rcache.filter fun p => !(p.asid == s.me.asid && p.va == at_) }) →
    e.check shape true = .ok (segs, n) →
    (¬room ∨ (s.getCluster cl).freeRun e.frames = none → ∃ t, CacheOnly base t ∧ Completes (.talloc d a) s (t.setG d 0)) ∧
    ∀ f, room → (s.getCluster cl).freeRun e.frames = some f → e.mode = 4 ∨ s.pinsFull cl s.me.pid s.me.asid (tileModeOf e.mode) segs = false →
      ∃ t, CacheOnly base t ∧ Completes (.talloc d a) s ((t.allocTile cl t.me f e segs n false).setG d (BitVec.ofNat 64 (f + if e.mode = 2 ∨ e.mode = 3 then 0x8000 else 0))))

/-! ### Vectors -/

/-- R152, R145, R146: a value that a format represents is its own rounding in every mode, and raises no flag. -/
def Obligations.RoundingExact : Prop :=
  ∀ (f c : Nat) (mode : Rnd) (nanp : Bool), f ≤ 8 → c < 2 ^ widthOf f → (decFloat f c).isNan = false → roundTo f mode nanp (decFloat f c) = (c, 0)

/-- R157 to R164, R151, R174: a vector float instruction writes the active elements of vd, each with one rounding of the exact result; inactive elements
stand, FFLAGS take the flags that active elements raise, and nothing else changes. Where the shadow unit's result of an element that it checks
differs from the element, nothing is written: the instruction traps SHADOW.vector-sign or SHADOW.vector-magnitude with the element; where it does not
differ, the instruction completes. -/
def Obligations.VectorFloat : Prop :=
  ∀ (s : State) (d a : VReg) (b : VGK) (c : VG) (x : FX), fmtVFloat x.fmt = true →
    let f := x.fmt.toNat
    let m := x.mode
    let p := x.nanp
    let W := widthOf f
    let on (i : Nat) : Bool := match x.mask with | none => true | some q => (s.q q).getLsbD i
    let A (i : Nat) : Nat := elem W (s.v a) i
    let B (i : Nat) : Nat := s.vgk f b i
    let C (i : Nat) : Nat := s.vg f c i
    let gives (k : Instr) (r : Nat → Nat × Fl) : Prop := ∃ w,
      Completes k s ((s.setV d w).orFlags (((List.range (512 / W)).filter on).foldl (fun fl i => fl ||| (r i).2) 0)) ∧
      ∀ i < 512 / W, elem W w i = if on i then (r i).1 % 2 ^ W else elem W (s.v d) i
    let one (op : Val → Val × Fl) (i : Nat) : Nat × Fl := roundRes f m p (withNan [val f (A i)] (op (val f (A i))))
    let two (op : Val → Val → Val × Fl) (i : Nat) : Nat × Fl := roundRes f m p (withNan [val f (A i), val f (B i)] (op (val f (A i)) (val f (B i))))
    (s.core.shadowErr = [] →
      gives (.vadd d a b x) (two (addV m)) ∧ gives (.vsub d a b x) (two fun u v => addV m u v.negate) ∧
      gives (.vmul d a b x) (two mulV) ∧ gives (.vdiv d a b x) (two divV) ∧
      gives (.vfma d a b c x) (fun i => fFma f m p false (A i) (B i) (C i)) ∧ gives (.vfms d a b c x) (fun i => fFma f m p true (A i) (B i) (C i)) ∧
      gives (.vmin d a b x) (fun i => fMinMax false f p (A i) (B i)) ∧ gives (.vmax d a b x) (fun i => fMinMax true f p (A i) (B i)) ∧
      gives (.vabs d a x) (fun i => (A i % 2 ^ (W - 1), 0)) ∧ gives (.vneg d a x) (fun i => ((A i + 2 ^ (W - 1)) % 2 ^ W, 0)) ∧
      gives (.vsqrt d a x) (one sqrtV) ∧ gives (.vrcp d a x) (one (divV (.num false 1 0 false))) ∧ gives (.vrsq d a x) (one rsqrtV) ∧
      gives (.vexp2 d a x) (one exp2V) ∧ gives (.vlog2 d a x) (one log2V)) ∧
    (∀ i < 512 / W, ∀ v : ShadowVal, s.mxBusy = false → s.core.shadowErr = [(i, v)] → on i = true →
      let r := fAdd f m p (A i) (B i)
      let passed := s.onCore fun k => { k with shadowErr := [] }
      shadowChecked f r = true →
      (∀ sign, shadowDiffers f r.1 v = some sign →
        exec (.vadd d a b x) s = .next ((passed.shadowRecord W i).deliver (if sign then 0x138 else 0x139) (BitVec.ofNat 64 i) s.pc)) ∧
      (shadowDiffers f r.1 v = none → ∃ w fl, Completes (.vadd d a b x) s ((passed.setV d w).orFlags fl)))

/-- R157 to R159, R165: a vector integer instruction writes the active elements of vd. Arithmetic is exact and then wraps, or clamps where SAT is set; a
shift takes its amount modulo the width. No flag and nothing else changes. -/
def Obligations.VectorInteger : Prop :=
  ∀ (s : State) (d a : VReg) (b : VGK) (c : VG) (x : FX), fmtVInt x.fmt = true →
    let W := widthOf x.fmt.toNat
    let on (i : Nat) : Bool := match x.mask with | none => true | some q => (s.q q).getLsbD i
    let A (i : Nat) : Nat := elem W (s.v a) i
    let B (i : Nat) : Nat := s.vgk x.fmt.toNat b i % 2 ^ W
    let C (i : Nat) : Nat := s.vg x.fmt.toNat c i
    let signed (n : Nat) : Int := if n < 2 ^ (W - 1) then n else (n : Int) - 2 ^ W
    let num (n : Nat) : Int := if x.opm.getLsbD 0 then n else signed n
    let lo : Int := if x.opm.getLsbD 0 then 0 else -(2 ^ (W - 1))
    let hi : Int := if x.opm.getLsbD 0 then 2 ^ W - 1 else 2 ^ (W - 1) - 1
    let fits (z : Int) : Nat := ((if x.sat then max lo (min hi z) else z) % 2 ^ W).toNat
    let gives (k : Instr) (r : Nat → Nat) : Prop := ∃ w, Completes k s (s.setV d w) ∧ ∀ i < 512 / W, elem W w i = if on i then r i else elem W (s.v d) i
    gives (.viadd d a b x) (fun i => fits (num (A i) + num (B i))) ∧ gives (.visub d a b x) (fun i => fits (num (A i) - num (B i))) ∧
    gives (.vimul d a b x) (fun i => fits (num (A i) * num (B i))) ∧ gives (.vimad d a b c x) (fun i => fits (num (A i) * num (B i) + num (C i))) ∧
    gives (.vimin d a b x) (fun i => if num (A i) ≤ num (B i) then A i else B i) ∧ gives (.vimax d a b x) (fun i => if num (B i) ≤ num (A i) then A i else B i) ∧
    gives (.vand d a b x) (fun i => A i &&& B i) ∧ gives (.vor d a b x) (fun i => A i ||| B i) ∧ gives (.vxor d a b x) (fun i => A i ^^^ B i) ∧
    gives (.vshl d a b x) (fun i => A i * 2 ^ (B i % W) % 2 ^ W) ∧ gives (.vshr d a b x) (fun i => A i / 2 ^ (B i % W)) ∧
    gives (.vsha d a b x) (fun i => ((signed (A i) / 2 ^ (B i % W)) % 2 ^ W).toNat)

/-- R166, R167, R168: VCMP writes every bit of a predicate, VSEL, VSHUF, VBCAST, VMOV and VIOTA the active elements of vd; VEXT and VINS move the element
of an index, and trap VECTOR.index past the last; VCOMP packs up to eight non-zero active elements with their numbers, and leaves in its mask the
elements that it has not reached. -/
def Obligations.VectorPermutations : Prop :=
  ∀ (s : State) (d a : VReg) (b : VGK) (u v : GK) (r t : VReg) (p : QReg) (e : GReg) (x : FX), fmtWidthSet x.fmt = true →
    let f := x.fmt.toNat
    let W := widthOf f
    let n := 512 / W
    let on (i : Nat) : Bool := match x.mask with | none => true | some q => (s.q q).getLsbD i
    let A (i : Nat) : Nat := elem W (s.v a) i
    let B (i : Nat) : Nat := s.vgk f b i % 2 ^ W
    let gives (k : Instr) (r : Nat → Nat) : Prop := ∃ w, Completes k s (s.setV d w) ∧ ∀ i < n, elem W w i = if on i then r i else elem W (s.v d) i
    (∃ m, Completes (.vcmp p a b x) s ((s.setQ p m).orFlags (((List.range n).filter on).foldl (fun fl i => fl ||| if isFloat f then (condFloat x.opm.toNat f (A i) (s.vgk f b i)).2 else 0) 0)) ∧
      ∀ i < 64, m.getLsbD i = (decide (i < n) && on i && if isFloat f then (condFloat x.opm.toNat f (A i) (s.vgk f b i)).1 else condInt x.opm.toNat W (A i) (s.vgk f b i))) ∧
    gives (.vsel d a b p x) (fun i => if (s.q p).getLsbD i then A i else B i) ∧
    gives (.vshuf d a r t x) (fun i => let k := elem W (s.v r) i % (2 * n); if k < n then A k else elem W (s.v t) (k - n)) ∧
    gives (.vbcast d b x) (fun _ => s.vgk f b (match b with | .v _ => x.opm.toNat | _ => 0) % 2 ^ W) ∧ gives (.vmov d a x) A ∧
    gives (.viota d u v x) (fun i => ((s.gk u).toNat + i * (s.gk v).toNat) % 2 ^ W) ∧
    ((s.gk v).toNat < n → Completes (.vext e a v x) s (s.setG e (if 9 ≤ f ∧ f ≤ 12 then (BitVec.ofNat W (A (s.gk v).toNat)).signExtend 64 else BitVec.ofNat 64 (A (s.gk v).toNat))) ∧
      ∃ w, Completes (.vins d u v x) s (s.setV d w) ∧
        ∀ i < n, elem W w i = if i = (s.gk v).toNat then s.vgk f u.src 0 % 2 ^ W else elem W (s.v d) i) ∧
    (n ≤ (s.gk v).toNat → s.mxBusy = false → exec (.vext e a v x) s = .next (s.deliver 0x120 (s.gk v) s.pc) ∧
      exec (.vins d u v x) s = .next (s.deliver 0x120 (s.gk v) s.pc)) ∧
    (∀ q, x.mask = some q → q ≠ 0 → W ≤ 32 →
      let keep (i : Nat) : Bool := !(if isFloat f then (val f (A i)).isZero else A i == 0)
      let word (i : Nat) : Nat := ((s.gk v).toNat + i) % 2 ^ 32 * 2 ^ 32 + A i
      ∃ (seen rest : List Nat) (w : Vec) (m : Word), (List.range n).filter on = seen ++ rest ∧ (seen.filter keep).length ≤ 8 ∧
        (rest ≠ [] → (seen.filter keep).length = 8 ∧ ∀ i ∈ seen.getLast?, keep i = true) ∧
        Completes (.vcomp d a v x) s ((s.setV d w).setQ q m) ∧
        (∀ j < 8, elem 64 w j = (((seen.filter keep)[j]?).map word).getD 0xFFFF_FFFF_0000_0000) ∧
        (rest = [] → m = 0) ∧ (rest ≠ [] → ∀ i < 64, m.getLsbD i = ((s.q q).getLsbD i && !seen.contains i)))

/-- R169 to R173: VCVT converts active elements in one part of the wider register; VSCALE writes a scale byte for each block of 16 elements; VRED and
VSCAN combine active elements in ascending order; VDOT4 adds four products to each element; VRNG writes the counter's random numbers. -/
def Obligations.VectorConversions : Prop :=
  ∀ (s : State) (d a b : VReg) (e c : GReg) (u : GK) (x : FX), s.core.shadowErr = [] →
    let f := x.fmt.toNat
    let W := widthOf f
    let on (i : Nat) : Bool := match x.mask with | none => true | some q => (s.q q).getLsbD i
    let act (n : Nat) : List Nat := (List.range n).filter on
    let flags (n : Nat) (r : Nat → Nat × Fl) : Fl := (act n).foldl (fun fl i => fl ||| (r i).2) 0
    ((Instr.vcvt d a c x).wf = true →
      let V := widthOf x.fmt2.toNat
      let n := 512 / max W V
      let from_ (i : Nat) : Nat := if V < W then x.opm.toNat * n + i else i
      let to_ (i : Nat) : Nat := if W < V then x.opm.toNat * n + i else i
      let r (i : Nat) : Nat × Fl := cvtElem x (s.g c) (s.v a).toNat i (from_ i)
      ∃ w, Completes (.vcvt d a c x) s ((s.setV d w).orFlags (flags n r)) ∧ (∀ i ∈ act n, elem W w (to_ i) = (r i).1 % 2 ^ W) ∧
        ∀ k < 512, (∀ i ∈ act n, k < W * to_ i ∨ W * (to_ i + 1) ≤ k) → w.getLsbD k = (s.v d).getLsbD k) ∧
    ((Instr.vscale e a x).wf = true →
      let V := widthOf x.fmt2.toNat
      let n := 512 / V
      ∃ g, Completes (.vscale e a x) s (s.setG e g) ∧ g.toNat < 2 ^ (8 * (n / 16)) ∧ ∀ b < n / 16, g.toNat / 2 ^ (8 * b) % 256 =
        blockScale f (((act n).filter fun i => i / 16 = b).map fun i => val x.fmt2.toNat (elem V (s.v a) i))) ∧
    ((Instr.vred e a u x).wf = true → (Instr.vscan d a u x).wf = true →
      let step (z y : Nat) : Nat × Fl :=
        let sg (k : Nat) : Int := if k < 2 ^ (W - 1) then k else (k : Int) - 2 ^ W
        if isFloat f then (match x.opm.toNat with | 0 => fAdd f x.mode x.nanp z y | 1 => fMinMax false f x.nanp z y | _ => fMinMax true f x.nanp z y)
        else (match x.opm.toNat with
          | 0 => (z + y) % 2 ^ W | 1 => if sg y < sg z then y else z | 2 => if sg z < sg y then y else z | 3 => min z y | 4 => max z y
          | 5 => z &&& y | 6 => z ||| y | _ => z ^^^ y, 0)
      let upTo (n : Nat) : Nat × Fl := (act n).foldl (fun z i => let r := step z.1 (elem W (s.v a) i); (r.1, z.2 ||| r.2)) (s.vgk f u.src 0, 0)
      let all := upTo (512 / W)
      Completes (.vred e a u x) s ((s.setG e (if 9 ≤ f ∧ f ≤ 12 then BitVec.ofInt 64 (sgn W all.1) else BitVec.ofNat 64 all.1)).orFlags all.2) ∧
      ∃ w, Completes (.vscan d a u x) s ((s.setV d w).orFlags all.2) ∧
        ∀ i < 512 / W, elem W w i = if on i then (upTo (i + 1)).1 % 2 ^ W else elem W (s.v d) i) ∧
    ((Instr.vdot4 d a b x).wf = true →
      let r (i : Nat) : Nat × Fl :=
        let z := elem 32 (s.v d) i
        let sg (w k : Nat) : Int := if k < 2 ^ (w - 1) then k else (k : Int) - 2 ^ w
        let byte (v : Vec) (j : Nat) : Int := if f = 0x0D then elem 8 v (4 * i + j) else sg 8 (elem 8 v (4 * i + j))
        if x.fmt2 = 0x0A then
          let t : Int := sg 32 z + ((List.range 4).map fun j => byte (s.v a) j * byte (s.v b) j).sum
          let k : Int := max (-(2 ^ 31)) (min (2 ^ 31 - 1) t)
          ((k % 2 ^ 32).toNat, if k = t then 0 else 2)
        else accumulate 0x01 x.mode z (blockSum x.mode ((List.range 4).map fun j => (val f (elem 8 (s.v a) (4 * i + j)), val f (elem 8 (s.v b) (4 * i + j)))))
      ∃ w, Completes (.vdot4 d a b x) s ((s.setV d w).orFlags (flags 16 r)) ∧ ∀ i < 16, elem 32 w i = if on i then (r i).1 % 2 ^ 32 else elem 32 (s.v d) i) ∧
    ((Instr.vrng d e c x).wf = true →
      let F (z : Word) : Word :=
        let z := z + 0x9E37_79B9_7F4A_7C15
        let z := (z ^^^ (z >>> 30)) * 0xBF58_476D_1CE4_E5B9
        let z := (z ^^^ (z >>> 27)) * 0x94D0_49BB_1331_11EB
        z ^^^ (z >>> 31)
      let k := s.g e
      let word (i : Nat) : Word := F (F ((s.g c + BitVec.ofNat 64 i) ^^^ k) ^^^ ((k <<< 32) ||| (k >>> 32)))
      ∃ w, Completes (.vrng d e c x) s (s.setV d w) ∧ ∀ i < 512 / W, elem W w i = if on i then
        (if f = 0x0A then (word i).toNat % 2 ^ 32 else if f = 0x09 then (word i).toNat
          else if f = 0 then (roundTo 0 .rne false (.num false ((word i).toNat / 2 ^ 11) (-53) false)).1
          else (roundTo 1 .rne false (.num false ((word i).toNat / 2 ^ 40) (-24) false)).1) else elem W (s.v d) i)

/-! ### The matrix unit -/

/-- R182, R183, R185, R177: MCLAIM of a unit that no other task is bound to adds to the task's claims in the issue view and enters the
queue; what it newly claims is EMPTY, or FP32, with bytes 0 where no queued command still uses it, and what the task had stands. Of a unit
that another task is bound to, with nothing queued, that task's state is spilled first. MREL gives claims back in the issue view and
enters the queue; once the last of them has left the queue the unit is unbound. Neither does anything to another task's unit that it does
not claim of. Both complete. -/
def Obligations.MatrixClaims : Prop :=
  ∀ (s : State) (sm zm : BitVec 16), s.me.tid ≠ 0 → s.core.mx.held = none →
    let mx := s.core.mx
    let isOpen : Prop := mx.bound = 0 ∨ mx.bound = s.me.tid
    let newS (n : Nat) : Bool := sm.getLsbD n && !mx.sclaim.getLsbD n
    let newZ (n : Nat) : Bool := zm.getLsbD n && !mx.zclaim.getLsbD n
    (isOpen → mx.queue.length < 16 → mx.img.undef = [] →
      ∃ u, Completes (.mclaim sm zm) s u ∧
        u.core.mx.bound = s.me.tid ∧ u.core.mx.sclaim = mx.sclaim ||| sm ∧ u.core.mx.zclaim = mx.zclaim ||| zm ∧
        u.core.mx.queue = mx.queue ++ [{ instr := .mclaim sm zm, addr := s.pc }] ∧ u.mem = s.mem ∧ u.me = { s.me with spill := u.me.spill } ∧
        (∀ n : SReg, rd u.core.mx.sIssue n = if newS n.toNat then {} else rd mx.sIssue n) ∧
        (∀ n : ZReg, rd u.core.mx.zIssue n = if newZ n.toNat then .fp32 else rd mx.zIssue n) ∧
        (∀ n k : Nat, n < 16 → k < 4096 → u.core.mx.img.get (4096 * n + k) = if newS n && !mx.sHas.getLsbD n then 0 else mx.img.get (4096 * n + k)) ∧
        (∀ n k : Nat, n < 16 → k < 2048 → u.core.mx.img.get (65536 + 2048 * n + k) =
          if newZ n && !mx.zHas.getLsbD n then 0 else mx.img.get (65536 + 2048 * n + k))) ∧
    (¬isOpen → sm = 0 → zm = 0 → Completes (.mclaim sm zm) s s) ∧
    (∀ t, ¬isOpen → sm ≠ 0 ∨ zm ≠ 0 → mx.queue = [] → s.spillMatrix = some t →
      ∃ u, Completes (.mclaim sm zm) s u ∧ u.core.mx.bound = s.me.tid ∧ u.core.mx.sclaim = sm ∧ u.core.mx.zclaim = zm ∧
        u.core.mx.queue = [{ instr := .mclaim sm zm, addr := s.pc }]) ∧
    (¬isOpen → Completes (.mrel sm zm) s s) ∧
    (isOpen → mx.queue.length < 16 → Completes (.mrel sm zm) s (s.onMx fun m => { m with
      bound := s.me.tid, sclaim := m.sclaim &&& ~~~sm, zclaim := m.zclaim &&& ~~~zm
      latchIssue := m.latchIssue.filter fun l => !sm.getLsbD l.slot.toNat, queue := m.queue ++ [{ instr := .mrel sm zm, addr := s.pc }] })) ∧
    (∀ q, mx.bound = s.me.tid → mx.queue = [q] → q.instr = .mrel sm zm → mx.sclaim = 0 → mx.zclaim = 0 →
      ∃ t, exec (.sequencerRunCommand s.core.id) s = .next t ∧ t.core.mx = mx.unbind ∧ t.me = s.me ∧ t.mem = s.mem)

/-- R182, R188, R189, R191, R193, R194, R195: a matrix instruction is checked at issue and enters the queue with the operand values that it read, and the
issue view goes on as if it had run. MWAIT goes on where the queue has run; MSTAT reads FFLAGS in order, and its snapshot the unit's own state. A
claim that is missing traps MATRIX-C.unclaimed, and a held queue MATRIX-Q.held, each with the address of the word. -/
def Obligations.MatrixIssue : Prop :=
  ∀ s : State, s.me.tid ≠ 0 →
    let mx := s.core.mx
    let enters (i : Instr) (u : State) (c : MCmd) : Prop := Completes i s (u.onMx fun m => { m with queue := m.queue ++ [c] })
    let hasS (n : SReg) : Prop := mx.sclaim.getLsbD n.toNat = true
    let hasZ (n : ZReg) : Prop := mx.zclaim.getLsbD n.toNat = true
    let ready (n : ZReg) : Prop := hasZ n ∧ (rd mx.zIssue n = .fp64 → hasZ (n ^^^ 1) ∧ n.getLsbD 0 = false)
    (mx.bound = 0 → mx.queue.length < 16 → ∀ (d : GReg) (clr : BitVec 7),
      Completes (.mstat d clr) s (s.onMx fun m => { m with bound := s.me.tid, queue := m.queue ++ [{ instr := .mstat d clr, addr := s.pc }] })) ∧
    (mx.bound = s.me.tid → mx.held = none → mx.queue.length < 16 →
      (∀ (a : SReg) (fmt : BitVec 6) (nmaj : Bool) (kofs : BitVec 9) (klen : BitVec 6),
        let t := rd mx.sIssue a
        let k := klen.toNat + 1
        hasS a → t.st ≠ .empty → t.fmt = fmt → k ≤ latchLimit (widthOf fmt.toNat) →
        (if nmaj then isBlock fmt.toNat = false ∧ kofs.toNat + k ≤ t.rows ∧ 16 ≤ t.klen else 16 ≤ t.rows ∧ kofs.toNat + k ≤ t.klen ∧ kofsOk fmt.toNat kofs.toNat = true) →
        enters (.mlatch a fmt nmaj kofs klen) (s.onMx fun m => { m with latchIssue := some { slot := a, fmt := fmt, nmaj := nmaj, kofs := kofs.toNat, klen := k } })
          { instr := .mlatch a fmt nmaj kofs klen, addr := s.pc }) ∧
      (∀ (d : ZReg) (a : SReg) (fmt : BitVec 6) (rows : BitVec 5) (kofs : BitVec 9) (l : Latch),
        let t := rd mx.sIssue a
        let f := fmt.toNat
        let g := l.fmt.toNat
        mx.latchIssue = some l → hasZ d → hasS a → t.st ≠ .empty → t.fmt = fmt →
        (narrowFmt f = true ∧ narrowFmt g = true) ∨ (f = 1 ∧ g = 1) ∨ (f = 0 ∧ g = 0 ∧ hasZ (d ^^^ 1) ∧ d.getLsbD 0 = false) →
        l.klen ≤ latchLimit (max (widthOf f) (widthOf g)) → rows.toNat + 1 ≤ t.rows → kofs.toNat + l.klen ≤ t.klen → kofsOk f kofs.toNat = true →
        (if f = 0 then rd mx.zIssue d = .fp64 else if intFmt f && intFmt g then rd mx.zIssue d ≠ .fp64 else rd mx.zIssue d = .fp32) →
        enters (.mma d a fmt rows kofs) s { instr := .mma d a fmt rows kofs, addr := s.pc }) ∧
      (∀ (d : ZReg) (fmt : BitVec 6), hasZ d → fmt = 1 ∨ fmt = 0x0A ∨ (fmt = 0 ∧ hasZ (d ^^^ 1) ∧ d.getLsbD 0 = false) →
        ∃ u, enters (.mzero d fmt) u { instr := .mzero d fmt, addr := s.pc } ∧ rd u.core.mx.zIssue d = (if fmt = 0 then .fp64 else if fmt = 1 then .fp32 else .i32) ∧
          u = s.onMx fun m => { m with zIssue := u.core.mx.zIssue }) ∧
      (∀ (z : ZReg) (d : VReg) (b : GK) (half : Bool), ready z → (half = true → rd mx.zIssue z = .fp64) → (s.gk b).toNat < 32 →
        enters (.mrdz d z b half) s { instr := .mrdz d z b half, addr := s.pc, b := s.gk b } ∧
        enters (.mwrz z d b half) s { instr := .mwrz z d b half, addr := s.pc, b := s.gk b, vec := s.v d }) ∧
      (∀ (z : ZReg) (a : GReg) (fmt : BitVec 6) (rnd : BitVec 2), ready z → (fmt = 1 ∧ rd mx.zIssue z = .fp32) ∨ (fmt = 0 ∧ rd mx.zIssue z = .fp64) →
        enters (.mscale z a fmt rnd) s { instr := .mscale z a fmt rnd, addr := s.pc, a := s.g a }) ∧
      (∀ (d : GReg) (clr : BitVec 7), enters (.mstat d clr) s { instr := .mstat d clr, addr := s.pc }) ∧
      (∀ (d : GReg), mx.queue.length < 16 → Completes (.mstatSnapshot d) s (s.setG d
        ((0 : BitVec 22) ++ (0 : BitVec 1) ++ BitVec.ofBool mx.latchIssue.isSome ++ (0 : BitVec 3) ++ BitVec.ofNat 5 mx.queue.length ++ mx.zclaim ++ mx.sclaim)))) ∧
    (mx.bound ≠ s.me.tid → ∀ (d : GReg) (clr : BitVec 7),
      (mx.bound ≠ 0 → Completes (.mstat d clr) s ((s.setG d (s.me.fflags.setWidth 64)).onMe fun t => { t with fflags := t.fflags &&& ~~~clr })) ∧
      Completes (.mstatSnapshot d) s (s.setG d 0)) ∧
    (s.mxBusy = false → (mx.bound = s.me.tid → mx.held = none) → Completes .mwait s (s.onMx fun m => { m with shade := [] })) ∧
    (∀ (d : ZReg) (a : SReg) (g : GReg) (b : GK) (v : VReg) (fmt : BitVec 6) (sp : BitVec 2) (rows : BitVec 5) (rb : BitVec 7) (kofs : BitVec 9) (klen : BitVec 6) (h : Hint),
      let ss : List Instr := [.mlds a g b fmt sp rows rb h, .mlatch a fmt false kofs klen, .mma d a fmt rows kofs]
      let zs : List Instr := [.mzero d 1, .mstz d g b fmt 0 sp false rows, .mrdz v d b false, .mwrz d v b false, .mscale d g fmt 0]
      (mx.bound = s.me.tid → mx.held ≠ none → ∀ i ∈ ss ++ zs ++ [.mwait, .mclaim 1 0, .mrel 1 0], exec i s = .next (s.deliver 0x118 s.pc s.pc)) ∧
      (mx.bound ≠ s.me.tid ∨ (mx.queue = [] ∧ mx.held = none ∧ ¬hasS a ∧ ¬hasZ d) → ∀ i ∈ ss ++ zs, exec i s = .next (s.deliver 0x108 s.pc s.pc)))

/-- R186, R192: MLDS and MSTZ are checked at issue in full, row r at the base and r strides; the bytes then go where the translations of
that moment said. (In a window that loads and stores may reach at once, whose TLB entries say what the tables say, or in a local space.)
Both complete at issue, and their commands at the head of the queue. -/
def Obligations.MatrixTransfers : Prop :=
  ∀ (s : State) (n : SReg) (z : ZReg) (a : GReg) (b : GK) (fmt : BitVec 6) (rnd sp : BitVec 2) (sat : Bool) (rows : BitVec 5) (rb : BitVec 7) (h : Hint),
    s.me.tid ≠ 0 → s.core.mx.bound = s.me.tid → s.core.mx.queue = [] → s.core.mx.held = none → sp ≠ 3 →
    let f := fmt.toNat
    let R := rows.toNat + 1
    let row (base stride : Word) (r : Nat) : Word := base + BitVec.ofNat 64 r * stride
    let W := widthOf f
    let va := s.g a
    let st := s.gk b
    let reach (acc : Access) (len : Nat) (base stride : Word) (l : Nat → Leaf) : Prop := ∀ r < R,
      if sp = 0 then Reaches s (row base stride r) len acc (l r) else Local s sp (row base stride r) len 1
    let sees (c : MCmd) (len : Nat) (base stride : Word) (l : Nat → Leaf) : Prop := sp = 0 → ∀ r < R, ∀ j < len,
      c.place (row base stride r + BitVec.ofNat 64 j) = some { (l r).place with pa := (l r).place.pa + j }
    let together (base stride : Word) (l : Nat → Leaf) (base' stride' : Word) (l' : Nat → Leaf) : Prop := sp = 0 → ∀ r < R, ∀ r' < R,
      s.Together (row base stride r) (l r) (row base' stride' r') (l' r')
    (s.core.mx.sclaim.getLsbD n.toNat = true → mldsFmt f = true → rbytesOk f (rb.toNat + 1) = true →
      (16 ≤ W → va.toNat % (W / 8) = 0 ∧ st.toNat % (W / 8) = 0) → (isBlock f = true → st.toInt * 8 % (16 * W) = 0 ∧ a ≠ 63) →
      let sc := s.g (a + 1)
      let pitch : Word := BitVec.ofInt 64 (st.toInt * 8 / (16 * W))
      let sb := (rb.toNat + 1) * 8 / W / 16
      ∀ l k : Nat → Leaf, reach .read (rb.toNat + 1) va st l → together va st l va st l →
        (isBlock f = true → reach .read sb sc pitch k ∧ together va st l sc pitch k ∧ together sc pitch k sc pitch k) →
      ∃ t c, CacheOnly s t ∧ Completes (.mlds n a b fmt sp rows rb h) s (t.onMx fun m => { m with
          sIssue := wr m.sIssue n { st := .loading, fmt := fmt, rows := R, rbytes := rb.toNat + 1 }
          latchIssue := m.latchIssue.filter fun x => x.slot != n, queue := [c] }) 1 ∧
        c = { instr := .mlds n a b fmt sp rows rb h, addr := s.pc, a := va, b := st, scale := sc, pages := c.pages } ∧
        sees c (rb.toNat + 1) va st l ∧ (isBlock f = true → sees c sb sc pitch k)) ∧
    (s.core.mx.zclaim.getLsbD z.toNat = true → (rd s.core.mx.zIssue z = .fp64 → s.core.mx.zclaim.getLsbD (z ^^^ 1).toNat = true ∧ z.getLsbD 0 = false) →
      mstzFmt f (rd s.core.mx.zIssue z) = true → va.toNat % (W / 8) = 0 → st.toNat % (W / 8) = 0 →
      ∀ l : Nat → Leaf, reach .write (2 * W) va st l → together va st l va st l →
      ∃ t c, CacheOnly s t ∧ Completes (.mstz z a b fmt rnd sp sat rows) s (t.onMx fun m => { m with queue := [c] }) 1 ∧
        c = { instr := .mstz z a b fmt rnd sp sat rows, addr := s.pc, a := va, b := st, pages := c.pages } ∧ sees c (2 * W) va st l)

/-- R183, R187, R188, R190, R191, R193, R194: what a command does when the sequencer reaches it, in order. MLDS fills its slot (here from a local space,
in a format without scales); MLATCH takes the latch; MMA adds the blocks of products to each element in order; MZERO clears; MRDZ and MWRZ move a row;
MSCALE multiplies every element with one rounding. Accumulators and slots that a command does not name stand. R196, R179: a command that is found at
fault at the head of the queue holds the queue: the cause waits with the address of its word, the commands behind it do not run, an MLDS leaves its
slot EMPTY, and an MMA, of which the shadow unit samples the element, has committed nothing. -/
def Obligations.MatrixCommands : Prop :=
  (∀ (s : State) (q : MCmd) (qs : List MCmd),
    let mx := s.core.mx
    s.me.tid ≠ 0 → mx.bound = s.me.tid → mx.held = none → mx.queue = q :: qs → (qs = [] → mx.sclaim ≠ 0 ∨ mx.zclaim ≠ 0) →
    mx.img.wf = true → mx.img.undef = [] → s.core.mxShadowErr = [] →
    let runs (P : State → Prop) : Prop := ∃ t, exec (.sequencerRunCommand s.core.id) s = .next t ∧ t.core.mx.queue = qs ∧ t.core.mx.bound = s.me.tid ∧ t.mem = s.mem ∧ P t
    let keeps (t : State) (lo hi : Nat) : Prop := ∀ k, k < lo ∨ hi ≤ k → t.core.mx.img.get k = mx.img.get k
    let base (z : ZReg) : Nat := 65536 + 2048 * z.toNat
    (∀ (d : SReg) (a : GReg) (b : GK) (fmt : BitVec 6) (sp : BitVec 2) (rows : BitVec 5) (rb : BitVec 7) (h : Hint),
      q.instr = .mlds d a b fmt sp rows rb h → sp ≠ 0 → isBlock fmt.toNat = false →
      let at_ (r : Nat) : Word := q.a + BitVec.ofNat 64 r * q.b
      (∀ r ≤ rows.toNat, s.localGood sp (at_ r) (rb.toNat + 1)) →
      runs fun t => rd t.core.mx.sRun d = { st := .full, fmt := fmt, rows := rows.toNat + 1, rbytes := rb.toNat + 1 } ∧ t.me = s.me ∧
        keeps t (4096 * d.toNat) (4096 * d.toNat + 4096) ∧
        ∀ r ≤ rows.toNat, ∀ j ≤ rb.toNat, t.core.mx.img.get (4096 * d.toNat + 128 * r + j) = (s.localMem sp).get (s.localKey sp (at_ r) + j)) ∧
    (∀ (a : SReg) (fmt : BitVec 6) (nmaj : Bool) (kofs : BitVec 9) (klen : BitVec 6), q.instr = .mlatch a fmt nmaj kofs klen → (rd mx.sRun a).st ≠ .empty →
      runs fun t => t.core.mx.latchRun = some { slot := a, fmt := fmt, nmaj := nmaj, kofs := kofs.toNat, klen := klen.toNat + 1 } ∧ t.me = s.me ∧ t.core.mx.img = mx.img) ∧
    (∀ (d : ZReg) (a : SReg) (fmt : BitVec 6) (rows : BitVec 5) (kofs : BitVec 9) (l : Latch), q.instr = .mma d a fmt rows kofs → mx.latchRun = some l →
      (rd mx.sRun a).st ≠ .empty → l.klen ≤ 64 →
      let f := fmt.toNat
      let tag := rd mx.zRun d
      let len := if f = 0 then 1 else if f = 1 then 4 else 16
      (tag = .fp64 → d.getLsbD 0 = false) →
      let total (i j : Nat) : Nat := (List.range ((l.klen + len - 1) / len)).foldl (fun z blk =>
        (stepBlock tag z (blockOf (mx.operandA a f kofs.toNat) (mx.operandB l) i j (len * blk) (min (len * blk + len) l.klen))).1) (mx.acc tag d i j)
      runs fun t => (∃ fl, t.me = { s.me with fflags := s.me.fflags ||| fl }) ∧ keeps t (base d) (base d + if tag = .fp64 then 4096 else 2048) ∧
        ∀ i < 32, ∀ j < 16, t.core.mx.acc tag d i j = if i ≤ rows.toNat then total i j else mx.acc tag d i j) ∧
    (∀ (d : ZReg) (fmt : BitVec 6), q.instr = .mzero d fmt → fmt = 0 → d.getLsbD 0 = false → runs fun t => t.me = s.me ∧
      rd t.core.mx.zRun d = .fp64 ∧ keeps t (base d) (base d + 4096) ∧ ∀ k < 4096, t.core.mx.img.get (base d + k) = 0) ∧
    (∀ (d : ZReg) (fmt : BitVec 6), q.instr = .mzero d fmt → fmt = 1 ∨ fmt = 0x0A → rd mx.zRun d ≠ .fp64 → runs fun t => t.me = s.me ∧
      rd t.core.mx.zRun d = (if fmt = 1 then .fp32 else .i32) ∧ keeps t (base d) (base d + 2048) ∧ ∀ k < 2048, t.core.mx.img.get (base d + k) = 0) ∧
    (∀ (v : VReg) (z : ZReg) (b : GK) (half : Bool), q.b.toNat < 32 → (rd mx.zRun z = .fp64 → z.getLsbD 0 = false) →
      let k := base z + if rd mx.zRun z = .fp64 then 128 * q.b.toNat + (if half then 64 else 0) else 64 * q.b.toNat
      (q.instr = .mrdz v z b half → runs fun t => t.me = s.me.writeV v (BitVec.ofNat 512 (mx.img.read k 64)) ∧ t.core.mx.img = mx.img) ∧
      (q.instr = .mwrz z v b half → runs fun t => t.me = s.me ∧ t.core.mx.img = mx.img.write k 64 q.vec.toNat)) ∧
    (∀ (z : ZReg) (a : GReg) (fmt : BitVec 6) (rnd : BitVec 2), q.instr = .mscale z a fmt rnd → rd mx.zRun z = .fp32 →
      runs fun t => (∃ fl, t.me = { s.me with fflags := s.me.fflags ||| fl }) ∧ keeps t (base z) (base z + 2048) ∧
        ∀ i < 32, ∀ j < 16, t.core.mx.acc .fp32 z i j = (fMul 1 (Rnd.of rnd) false (mx.acc .fp32 z i j) (q.a.toNat % 2 ^ 32)).1) ∧
    (∀ (d : GReg) (clr : BitVec 7), q.instr = .mstat d clr → runs fun t => t.core.mx.img = mx.img ∧
      t.me = { s.me.writeG d (s.me.fflags.setWidth 64) with fflags := s.me.fflags &&& ~~~clr })) ∧
  (∀ (s : State) (q : MCmd) (qs : List MCmd) (row : BitVec 5) (col : BitVec 4),
    let mx := s.core.mx
    s.me.tid ≠ 0 → mx.bound = s.me.tid → mx.held = none → mx.queue = q :: qs →
    (∀ (d : SReg) (a : GReg) (b : GK) (fmt : BitVec 6) (sp : BitVec 2) (rows : BitVec 5) (rb : BitVec 7) (h : Hint), q.instr = .mlds d a b fmt sp rows rb h →
      ∃ t, exec (.matrixDeferredTrap s.core.id false row col) s = .next t ∧ t.core.mx.held = some 0x07A ∧ t.core.mx.pendingTrap = some (0x07A, q.addr) ∧
        t.core.mx.queue = q :: qs ∧ (rd t.core.mx.sRun d).st = .empty ∧ (mx.loadsAgain d = false → (rd t.core.mx.sIssue d).st = .empty) ∧ t.me = s.me ∧ t.mem = s.mem) ∧
    (∀ (d : ZReg) (a : SReg) (fmt : BitVec 6) (rows : BitVec 5) (kofs : BitVec 9), q.instr = .mma d a fmt rows kofs →
      s.samples d a fmt.toNat (rows.toNat + 1) kofs.toNat row.toNat col.toNat = true →
      ∃ t, exec (.matrixDeferredTrap s.core.id true row col) s = .next t ∧ t.core.mx.held = some 0x13A ∧ t.core.mx.pendingTrap = some (0x13A, q.addr) ∧
        t.core.mx.queue = q :: qs ∧ t.core.mx.img = mx.img ∧ t.me = s.me ∧ t.mem = s.mem))

/-! ### Commands and events -/

/-- R46, R47, R50, R51, R52, R25: what the commands that start work do. LAUNCH makes a task of a record that R25 admits and puts it at the end of its
launch queue; LAUNCHN does so for each of COUNT records, of which there may be none, and fails SYSTEM.cmd-operand above 2^20; ADDCTR adds to a counter
after every earlier COPY, and fails where the sum saturates; COPY enters the lowest engine with room; REPLAY replays all. Each then gives way to the
next command. (A command's reads go through the tables, caches and directories of their homes: `v` is the state that they leave.) -/
def Obligations.CommandWork : Prop :=
  ∀ (s : State) (h : CmdHdr),
    let x := s.strm h.pid h.stream
    let asid := x.desc.asid
    let then_ (u : State) (t : State) : Prop := ∀ p n, t.strm p n = if p = h.pid ∧ n = h.stream then
      { u.strm p n with cmd := (u.strm p n).cmd + 1, sub := 0, count := none, waiting := none } else u.strm p n
    let launched (v : State) (fut : Bool) (i : Instr) (ws : List Word) (done slot : Word) : Prop :=
      let rec8 : Vector Word 8 := Vector.ofFn fun k => ws.getD k.val 0
      let q : BitVec 6 := rec8[7].extractLsb' 20 6
      recordCause rec8 = none → (rd (s.part h.pid).queues q).enable = true → (rd (s.part h.pid).queues q).recs.length < 64 →
      ∃ u, exec i s = .next u ∧ u.mem = v.mem ∧ u.me = s.me ∧ u.nextTid = s.nextTid + 1 ∧
        u.findTask s.nextTid = some { tid := s.nextTid, pid := h.pid, asid := asid, tw := (rec8.set 5 0).set 6 done, launched := if fut then some h.stream else none, resultSlot := slot, tag := h.tag } ∧
        (rd (u.part h.pid).queues q).recs = (rd (s.part h.pid).queues q).recs ++ [s.nextTid] ∧
        (u.strm h.pid h.stream).cmd = x.cmd + 1 ∧ (u.strm h.pid h.stream).tasks = x.tasks ++ [s.nextTid]
    (∀ (va done slot : Word) (ws : List Word) (v : State), s.nextTid ≠ 0 → s.me.tid ≠ s.nextTid → va.toNat % 64 = 0 → s.asWords h.pid asid va = .ok (v, ws) →
      launched v true (.cmdLaunch h va done slot) ws done slot ∧
      (∀ c, recordCause (Vector.ofFn fun k => ws.getD k.val 0) = some c → exec (.cmdLaunch h va done slot) s = .next (s.refuseCmd h.pid h.stream h.tag va c .read))) ∧
    (∀ (va count done : Word) (ws : List Word) (u v : State), s.nextTid ≠ 0 → s.me.tid ≠ s.nextTid → va.toNat % 64 = 0 → x.count = none →
      s.asRead h.pid asid count 8 = .ok (u, 1) → (u.onStream h.pid h.stream fun x => { x with count := some 1, sub := 0 }).asWords h.pid asid va = .ok (v, ws) →
      launched v false (.cmdLaunchn h va count done) ws done 0) ∧
    (∀ va done slot : Word, va.toNat % 64 ≠ 0 → exec (.cmdLaunch h va done slot) s = .next (s.refuseCmd h.pid h.stream h.tag va 0x0B3 .read)) ∧
    (∀ (first count done : Word) (n : Nat) (v : State), x.count = none → s.asRead h.pid asid count 8 = .ok (v, n) →
      (2 ^ 20 < n → exec (.cmdLaunchn h first count done) s = .next (v.failCmd h.pid h.stream h.tag 0x169)) ∧
      (n = 0 → ∃ t, exec (.cmdLaunchn h first count done) s = .next t ∧ then_ s t ∧ t.mem = v.mem ∧ t.tasks = s.tasks)) ∧
    (∀ (va amount : Word) (p : Phys) (v : State), x.copies = [] → s.asPhys h.pid asid va .atomic = .ok (v, p) → p.kind ≠ 4 → s.NoPartials → s.NoWatch →
      let sum := v.mem.read p.key 8 + amount.toNat
      (sum < 2 ^ 64 → ∃ t, exec (.cmdAddctr h va amount) s = .next t ∧ then_ s t ∧ t.mem = v.mem.write p.key 8 sum) ∧
      (2 ^ 64 ≤ sum → ∃ u : State, exec (.cmdAddctr h va amount) s = .next (u.failCmd h.pid h.stream h.tag 0x090) ∧ u.mem = v.mem.write p.key 8 (2 ^ 64 - 1))) ∧
    (∀ (src dst len ctr amount : Word),
      (overlaps src dst len.toNat = true → exec (.cmdCopy h src dst len ctr amount) s = .next (s.failCmd h.pid h.stream h.tag 0x169)) ∧
      ∀ cl, overlaps src dst len.toNat = false → (s.partClusters h.pid).find? (fun cl => decide ((s.getCluster cl).ops.length < 64)) = some cl →
        ∃ t o, exec (.cmdCopy h src dst len ctr amount) s = .next t ∧ (t.getCluster cl).ops = (s.getCluster cl).ops ++ [o] ∧ t.mem = s.mem ∧
          (t.strm h.pid h.stream).cmd = x.cmd + 1 ∧ (t.strm h.pid h.stream).copies = x.copies ++ [o.id] ∧ .copyEngineComplete cl o.id ∈ t.agenda ∧
          o = { id := s.nextOp, tid := 0, pid := h.pid, asid := asid, runs := [(.va src, .va dst, len.toNat)], bytes := len.toNat, push := none, code := 0
                ctr := if ctr = 0 then none else some ctr, amt := if amount = 0 then len else amount, stream := some h.stream, tag := h.tag }) ∧
    (∃ t, exec (.cmdReplay h) s = .next t ∧ then_ (s.replayAll h.pid).1 t)

/-- R48, R49, R50, R52, R53, R55, R56: what the commands that steer a stream do. LOOP goes back by LEN commands until its body has run COUNT times; IF
skips commands where its test fails; WAITCTR and FENCE go on or leave the stream in WAIT, which an event ends; RELOAD takes the launch-queue table;
ROLE begins a role change that R53 admits, and its end adds to a counter; an opcode without a meaning fails SYSTEM.cmd-opcode; RESUME moves a stream
past the command that failed. A change of state is written to the status block. -/
def Obligations.CommandFlow : Prop :=
  ∀ (s : State) (h : CmdHdr),
    let x := s.strm h.pid h.stream
    let goes (v t : State) (y : Stream) : Prop := t = v.onStream h.pid h.stream fun _ => y
    let waits (v : State) (i : Instr) (t : State) : Prop := t = v.enterSt h.pid h.stream fun x => { x with st := .wait, tag := h.tag, cause := 0, waiting := some i }
    let fails (i : Instr) (c : Cause) : Prop := exec i s = .next (s.failCmd h.pid h.stream h.tag c)
    (∀ (pid n : BitVec 2) (f : Stream → Stream) (v : State), let u := s.onStream pid n f
      u.asWrite pid (u.strm pid n).desc.asid (u.strm pid n).desc.status 64 (u.strm pid n).block = .ok v → v.parts = u.parts →
      (s.enterSt pid n f).strm pid n = { f (s.strm pid n) with owed := false }) ∧
    (∀ len iters : Word,
      (x.cmd < len ∨ 2 ^ x.desc.log2n ≤ len.toNat → fails (.cmdLoop h len iters) 0x16A) ∧
      (len ≤ x.cmd → len.toNat < 2 ^ x.desc.log2n → s.bodyLoop h.pid x len.toNat (x.cmd - len) = .ok true → fails (.cmdLoop h len iters) 0x16A) ∧
      (len ≤ x.cmd → len.toNat < 2 ^ x.desc.log2n → s.bodyLoop h.pid x len.toNat (x.cmd - len) = .ok false →
        let round := max 1 x.loopReg
        ∃ t, exec (.cmdLoop h len iters) s = .next t ∧ goes s t (if round < iters.toNat then
          { x with loopReg := round + 1, hold := some (x.cmd - len), loopAt := x.cmd, cmd := x.cmd - len }
          else { x with loopReg := 0, hold := none, cmd := x.cmd + 1, sub := 0, count := none, waiting := none }))) ∧
    (∀ (va value skip : Word) (cond : BitVec 2) (w : Nat) (v : State), s.asRead h.pid x.desc.asid va 8 = .ok (v, w) →
      let test := if cond = 0 then w = value.toNat else if cond = 1 then w ≠ value.toNat else if cond = 2 then value.toNat ≤ w else w < value.toNat
      ∃ t, exec (.cmdIf h va value skip cond) s = .next t ∧
        goes v t { x with cmd := x.cmd + 1, sub := 0, count := none, waiting := none, skip := (t.strm h.pid h.stream).skip } ∧
        (test → (t.strm h.pid h.stream).skip = 0) ∧ (¬test → (t.strm h.pid h.stream).skip = skip.toNat)) ∧
    (∀ (va limit : Word) (w : Nat) (v : State), s.asRead h.pid x.desc.asid va 8 = .ok (v, w) → ∃ t, exec (.cmdWaitctr h va limit) s = .next t ∧
      (limit.toNat ≤ w → goes v t { x with cmd := x.cmd + 1, sub := 0, count := none, waiting := none }) ∧
      (w < limit.toNat → waits v (.cmdWaitctr h va limit) t)) ∧
    (x.tasks = [] → x.copies = [] → exec (.cmdFence h) s = .next (s.endWait h.pid h.stream) ∧
      (let w (i : Nat) : Word := s.mem.word ((s.part h.pid).lqtab + 8 * i)
       (s.NoPartials → (∀ i < 64, w i &&& 0xFFFF_FFFF_FFFE_F000 = 0) → ∃ u : State, exec (.cmdFenceReload h) s = .next (u.endWait h.pid h.stream) ∧ u.mem = s.mem ∧
          ∀ i : BitVec 6, rd (u.part h.pid).queues i = { rd (s.part h.pid).queues i with enable := (w i.toNat).getLsbD 16, tickets := (w i.toNat).extractLsb' 0 12 }) ∧
       (s.NoPartials → (∃ i < 64, w i &&& 0xFFFF_FFFF_FFFE_F000 ≠ 0) → fails (.cmdFenceReload h) 0x169))) ∧
    (x.tasks ≠ [] ∨ x.copies ≠ [] → ∀ i ∈ [Instr.cmdFence h, .cmdFenceReload h], ∃ t, exec i s = .next t ∧ waits s i t) ∧
    (∀ (va limit : Word), s.ev = some (.waitctrSatisfied h.pid h.stream) → x.waiting = some (.cmdWaitctr h va limit) →
      exec .waitctrSatisfied s = .next (s.endWait h.pid h.stream)) ∧
    (s.ev = some (.fenceCmdComplete h.pid h.stream) → x.tasks = [] → x.copies = [] → x.st = .wait → x.waiting = some (.cmdFence h) →
      exec .fenceCmdComplete s = .next (s.endWait h.pid h.stream)) ∧
    (∀ (layer role clock ctr : Word),
      let l : BitVec 2 := layer.extractLsb' 0 2
      let r : Role := if role = 0 then .compute else if role = 1 then .memory else .off
      let roles := wr s.roles l r
      let slow := if clock = 1 then s.slow ||| BitVec.ofNat 4 (2 ^ l.toNat) else s.slow &&& ~~~(BitVec.ofNat 4 (2 ^ l.toNat))
      let draw := 390 + ((List.range 4).map fun k => let j := BitVec.ofNat 2 k
        match rd roles j with | .compute => if slow.getLsbD k then 370 else 520 | .memory => 45 | .off => 5).sum
      let cool := draw ≤ s.limit ∧ ∃ k : BitVec 2, rd roles k = .compute
      let others := ∃ p : BitVec 2, p ≠ h.pid ∧ (s.part p).run = true ∧ s.usesLayer p l = true
      let stays := ∃ k : BitVec 2, rd roles k = .compute ∧ s.usesLayer h.pid k = true
      let i : Instr := .cmdRole h layer role clock ctr
      (x.desc.roleOk = false → fails i 0x16C) ∧ (x.desc.roleOk = true → ¬cool → fails i 0x170) ∧
      (x.desc.roleOk = true → cool → others → fails i 0x171) ∧ (x.desc.roleOk = true → cool → ¬others → ¬stays → fails i 0x173) ∧
      (x.desc.roleOk = true → cool → ¬others → stays → ∃ t u, waits s i t ∧ exec i s = .next u ∧
        u = { t with agenda := t.agenda ++ [.layerRoleChange h.pid l (role.extractLsb' 0 2) (clock == 1)] }) ∧
      (s.ev = some (.roleChangeEnd h.pid h.stream) → x.waiting = some i → x.st = .wait →
        (ctr = 0 → exec .roleChangeEnd s = .next ((s.onStream h.pid h.stream fun x => { x with roleDone := false }).endWait h.pid h.stream)) ∧
        ∀ p v, ctr ≠ 0 → s.asPhys h.pid x.desc.asid ctr .atomic = .ok (v, p) → p.kind ≠ 4 → s.NoPartials → s.NoWatch → v.mem.read p.key 8 + 1 < 2 ^ 64 →
          ∃ u : State, exec .roleChangeEnd s = .next (u.endWait h.pid h.stream) ∧ u.mem = v.mem.write p.key 8 (v.mem.read p.key 8 + 1))) ∧
    (∀ op, fails (.cmdBadOpcode h op) 0x168) ∧
    (∀ (v : Nat) (t : State), s.ev = some (.streamResume h.pid h.stream) → x.st = .error → s.asRead h.pid x.desc.asid x.desc.resume 8 = .ok (t, v) →
      exec .streamResume s = .next (t.enterSt h.pid h.stream fun x =>
        let past : Stream := { x with cmd := x.cmd + 1, sub := 0, count := none, waiting := none }
        let y := if x.idle then x else match x.count with
          | some k => if x.sub + 1 < k then { x with sub := x.sub + 1 } else past
          | none => past
        { y with st := .run, cause := 0, resumes := BitVec.ofNat 64 v, idle := false }))

/-- R44, R60, R61, R415, R414, R417, R418, R427: what the host does through the BARs and what the PCIe edge does. A doubleword added through the aperture
saturates; another write there, and every read, is an Unsupported Request. An ordered posted write is visible at once, a relaxed one now or later; a
read sees the bytes. An invalidation drops the entries that it names; answers and completions reach the requests that wait for them. -/
def Obligations.HostEdge : Prop :=
  ∀ (s : State) (rid len : BitVec 16) (off n : Word),
    let pa := off.toNat % 2 ^ 39
    let tells (t : State) : Prop := ∃ r, .periscopeRecord r ∈ t.agenda ∧ r.type = 0x14 ∧ r.address = BitVec.ofNat 64 pa
    (s.ev = some (.apertureAdd rid off len n) →
      (len = 8 → pa % 8 = 0 → s.NoPartials → s.NoWatch → let sum := s.mem.read pa 8 + n.toNat
        (sum < 2 ^ 64 → ∃ t, CacheOnly s t ∧ exec .apertureAdd s = .next { t with mem := s.mem.write pa 8 sum }) ∧
        (2 ^ 64 ≤ sum → ∃ t, exec .apertureAdd s = .next t ∧ t.mem = s.mem.write pa 8 (2 ^ 64 - 1) ∧ t.pcieErr = s.pcieErr ∧ tells t)) ∧
      (len ≠ 8 ∨ pa % 8 ≠ 0 → ∃ t, exec .apertureAdd s = .next t ∧ t.mem = s.mem ∧ t.pcieErr = s.pcieErr ++ [rid] ∧ tells t)) ∧
    (s.ev = some (.apertureRead rid off) → ∃ t, exec .apertureRead s = .next t ∧ t.mem = s.mem ∧ t.pcieErr = s.pcieErr ++ [rid] ∧
      t.completions = s.completions ++ [(rid, .unsupported, [])] ∧ tells t) ∧
    (∀ (relaxed : Bool) (data : List Byte), let e : Ev := .hostPostedWrite rid relaxed off data
      s.ev = some e → s.mem.wf = true → s.NoPartials → s.NoWatch → ∃ t, exec .hostPostedWrite s = .next t ∧
        (((∀ i (h : i < data.length), t.mem.get (pa + i) = data[i]) ∧ (∀ a, a < pa ∨ pa + data.length ≤ a → t.mem.get a = s.mem.get a) ∧ e ∉ t.waits) ∨
         (relaxed = true ∧ t.mem = s.mem ∧ e ∈ t.waits))) ∧
    (s.ev = some (.hostBarRead rid off len) → s.NoPartials → (∀ l ∈ linesOf pa len.toNat, l ∉ s.poison ∧ l ∉ s.latent) →
      ∃ t, exec .hostBarRead s = .next t ∧ t.mem = s.mem ∧
        t.completions = s.completions ++ [(rid, .success, (List.range len.toNat).map fun i => s.mem.get (pa + i))]) ∧
    (s.ev = some .pcieConfigRequest → exec .pcieConfigRequest s =
      .next { s with completions := s.completions ++ [(0, if s.power < 6 then .retry else .success, [])] }) ∧
    (∀ asid, s.ev = some (.atsInvalidation asid off n) → (∀ c ∈ s.allCores, c.mx.queue = []) → ∃ t, exec .atsInvalidation s = .next t ∧ t.mem = s.mem ∧
      ∀ c e, e ∈ (t.getCore c).tlb ↔ e ∈ (s.getCore c).tlb ∧
        ¬(e.asid = asid ∧ n ≠ 0 ∧ e.page * 2 ^ e.log < off.toNat + n.toNat ∧ off.toNat < e.page * 2 ^ e.log + 2 ^ e.log)) ∧
    (∀ (t : BitVec 32) (a : AtsAnswer), s.ev = some (.atsResponse t off a) → exec .atsResponse s = .next { s with ats := s.ats.map fun (q : AtsReq) =>
      if q.tid = t ∧ q.va = off &&& ~~~(0xFFFF : Word) ∧ q.answer = none then { q with answer := some a } else q }) ∧
    (∀ (t : BitVec 32) (d : BitVec 512) (o : OutReq) (os : List OutReq), s.outs = o :: os → o ∉ os → o.tid = t → o.dev = none → o.va = off → o.reply = none → o.lost = false →
      (s.ev = some (.hostReadCompletion t off d) → exec .hostReadCompletion s = .next { s with outs := { o with reply := some (.data d) } :: os }) ∧
      (s.ev = some (.hostReadTimeout t off) → ∃ u r, exec .hostReadTimeout s = .next u ∧ u.outs = { o with reply := some .poisoned } :: os ∧
        .periscopeRecord r ∈ u.agenda ∧ r.type = 0x14 ∧ r.address = off))

/-- R420, R421, R422: requests, responses and fences of peers. A request of a fenced device is refused; one without a key of the table is answered so; one
that its key admits reads or writes at the translation of its address. A fence loses what the device owes, and FENCED is cleared by ones. -/
def Obligations.PeerEdge : Prop :=
  ∀ (s : State) (dev : BitVec 10) (key : BitVec 26) (va : Word),
    let w (i : Nat) : Word := s.mem.word (s.pod.keybase.toNat + 32 * key.toNat + 8 * i)
    let admits (perm bytes : Nat) : Prop := key.toNat < 2 ^ s.pod.keylog2n.toNat ∧ (w 2).extractLsb' 19 45 = 0 ∧ w 1 ≠ 0 ∧ (w 2).getLsbD (16 + perm) = true ∧
      (w 0).toNat ≤ va.toNat ∧ va.toNat + bytes ≤ (w 0).toNat + (w 1).toNat
    (∀ op, s.ev = some (.ualinkInboundRequest dev key va op) →
      (s.pod.fenced.getLsbD dev.toNat = true → exec .ualinkInboundRequest s = .next s) ∧
      (s.pod.fenced.getLsbD dev.toNat = false → 2 ^ s.pod.keylog2n.toNat ≤ key.toNat →
        exec .ualinkInboundRequest s = .next { s with peerReplies := s.peerReplies ++ [(dev, key, va, .key)] })) ∧
    (∀ (n : BitVec 7) (pid : BitVec 2) (p : Phys) (v : State), s.ev = some (.ualinkInboundRequest dev key va (.read n)) → s.pod.fenced.getLsbD dev.toNat = false → admits 0 n.toNat →
      0 < n.toNat → va.toNat % 65536 + n.toNat ≤ 65536 → s.keyPid ((w 2).extractLsb' 0 16) = some pid → s.asPhys pid ((w 2).extractLsb' 0 16) va .read = .ok (v, p) →
      p.kind ≠ 3 → p.kind ≠ 4 → s.NoPartials → (∀ l ∈ linesOf p.key n.toNat, l ∉ s.poison ∧ l ∉ s.latent) →
      ∃ t, CacheOnly v t ∧ exec .ualinkInboundRequest s = .next { t with
        peerReplies := s.peerReplies ++ [(dev, key, va, .data (BitVec.ofNat 512 (v.mem.read p.key n.toNat)))] }) ∧
    (∀ (d : List Byte) (pid : BitVec 2) (p : Phys) (v : State), s.ev = some (.ualinkInboundRequest dev key va (.write d)) → s.pod.fenced.getLsbD dev.toNat = false → admits 1 d.length →
      d ≠ [] → va.toNat % 65536 + d.length ≤ 65536 → s.keyPid ((w 2).extractLsb' 0 16) = some pid → s.asPhys pid ((w 2).extractLsb' 0 16) va .write = .ok (v, p) →
      p.kind ≠ 3 → p.kind ≠ 4 → w 3 = 0 → s.NoPartials → s.NoWatch → s.mem.wf = true →
      ∃ t, exec .ualinkInboundRequest s = .next t ∧ t.peerReplies = s.peerReplies ++ [(dev, key, va, .data 0)] ∧
        (∀ i (h : i < d.length), t.mem.get (p.key + i) = d[i]) ∧ ∀ a, a < p.key ∨ p.key + d.length ≤ a → t.mem.get a = v.mem.get a) ∧
    (∀ (t : BitVec 32) (r : RemoteReply) (o : OutReq) (os : List OutReq), s.ev = some (.ualinkResponse t va r) → s.outs = o :: os → o ∉ os → o.tid = t →
      o.dev = some dev → o.va = va → o.reply = none → o.lost = false → exec .ualinkResponse s = .next { s with outs := { o with reply := some r } :: os }) ∧
    (s.ev = some (.peerFence dev) → s.colls = [] → ∃ t, exec .peerFence s = .next t ∧ t.mem = s.mem ∧
      (∀ k, t.pod.fenced.getLsbD k = (s.pod.fenced.getLsbD k || k == dev.toNat)) ∧ (∃ r, .periscopeRecord r ∈ t.agenda ∧ r.type = 0x13) ∧
      ∀ o ∈ s.outs, o.dev = some dev → o.reply = none → o.fut = false → { o with lost := true } ∈ t.outs) ∧
    (∀ (n : BitVec 4) (m : Word), s.ev = some (.fencedClear n m) → ∃ t, exec .fencedClear s = .next t ∧
      (∀ k, t.pod.fenced.getLsbD k = (s.pod.fenced.getLsbD k && !(k / 64 == n.toNat && m.getLsbD (k % 64)))) ∧
      t = { s with pod := { s.pod with fenced := t.pod.fenced } })

/-- R391 to R401, R87: what the reliability unit does with a record and with its registers, and how each check ends. -/
def Obligations.ReliabilityEvents : Prop :=
  ∀ s : State,
    let p := s.peri
    let reports (i : Instr) (u : State) (type : BitVec 8) (sev : BitVec 3) : Prop := ∃ r, exec i s = .next (u.report r) ∧ r.type = type ∧ r.sev = sev
    (∀ r, s.ev = some (.periscopeRecord r) → s.NoPartials → s.NoWatch → s.mem.wf = true →
      let base := p.prbase.toNat / 4096 % 2 ^ 40 * 4096
      let log := p.prbase.toNat % 64
      let slot := base + 64 * (p.prtail.toNat % 2 ^ log)
      (base = 0 ∨ (p.prtail - p.prhead).toNat = 2 ^ log → ∃ t, exec .periscopeRecord s = .next t ∧ t.mem = s.mem ∧ t.peri.overflow = true ∧
        t.peri.prtail = p.prtail ∧ t.peri.prseq = p.prseq + 1 ∧ t.peri.dropcnt.toNat = min (2 ^ 32 - 1) (p.dropcnt.toNat + 1)) ∧
      (base ≠ 0 → (p.prtail - p.prhead).toNat ≠ 2 ^ log → ∃ t, exec .periscopeRecord s = .next t ∧ t.peri.prtail = p.prtail + 1 ∧ t.peri.prseq = p.prseq + 1 ∧
        t.peri.overflow = p.overflow ∧ t.mem.word slot = p.prseq ∧ (t.mem.word (slot + 8)).extractLsb' 56 8 = r.type ∧ (t.mem.word (slot + 8)).extractLsb' 53 3 = r.sev ∧
        t.mem.word (slot + 16) = r.address ∧ t.mem.word (slot + 24) = r.syndrome ++ r.count ∧ t.mem.word (slot + 32) = r.localctr ∧ t.mem.word (slot + 40) = r.detail ∧
        (∀ a, a < slot ∨ slot + 64 ≤ a → t.mem.get a = s.mem.get a))) ∧
    (∀ v, s.ev = some (.prbaseWrite v) → exec .prbaseWrite s = .next { s with peri := { p with prbase := v &&& 0x000F_FFFF_FFFF_F03F, prtail := 0, prhead := 0 } }) ∧
    (∀ v, s.ev = some (.prstatusWrite v) → exec .prstatusWrite s =
      .next { s with peri := { p with overflow := p.overflow && !v.getLsbD 63, dropcnt := v.extractLsb' 0 32 } }) ∧
    (∀ off v, s.ev = some (.registerWrite off v) →
      let gives (t : State) : Prop := exec .registerWrite s = .next t
      (off = 0x00 → gives { s with agenda := s.agenda ++ [.prbaseWrite v] }) ∧ (off = 0x10 → gives { s with peri := { p with prhead := v } }) ∧
      (off = 0x18 → gives { s with agenda := s.agenda ++ [.prstatusWrite v] }) ∧ (off = 0x20 → gives { s with peri := { p with prctl := v &&& 0x0000_0FFF_0000_000F } }) ∧
      (∀ k : BitVec 2, (off = BitVec.ofNat 64 (0x1010 + 32 * k.toNat) → gives (s.onPart k fun q => { q with prec := v &&& 0x000F_FFFF_FFFF_F000 })) ∧
        (off = BitVec.ofNat 64 (0x1018 + 32 * k.toNat) → gives (if v.getLsbD 1 && v.getLsbD 0 then { s with agenda := s.agenda ++ [.partitionRestart k] }
          else if v.getLsbD 1 then { s with agenda := s.agenda ++ [.partitionStop k] } else if v.getLsbD 0 then { s with agenda := s.agenda ++ [.partitionStart k] } else s))) ∧
      (off = 0x2000 → gives { s with pod := { s.pod with keybase := v &&& 0x000F_FFFF_FFFF_F000, keylog2n := v.extractLsb' 0 5 } }) ∧
      (∀ k : BitVec 4, off = BitVec.ofNat 64 (0x2010 + 8 * k.toNat) → gives { s with agenda := s.agenda ++ [.fencedClear k v] }) ∧
      (∀ k < 4096, off = BitVec.ofNat 64 (0x100000 + 8 * k) → gives { s with msixTab := s.msixTab.write (8 * k) 8 v.toNat })) ∧
    (∀ (layer : BitVec 2) (cluster : BitVec 6) (port : BitVec 7) (groups : BitVec 32) (a : Word) (n : BitVec 2),
      s.ev = some (.vbusParityFail layer cluster port groups a (.retry n)) → reports .vbusParityFail s 0x0B 2) ∧
    (∀ (layer : BitVec 2) (cluster : BitVec 6) (dir : BitVec 3) (crc : BitVec 16) (failed : Bool), s.ev = some (.linkCrcError layer cluster dir crc failed) →
      ∃ t r, exec .linkCrcError s = .next t ∧ t.stopped = (s.stopped || failed) ∧ t.mem = s.mem ∧ .periscopeRecord r ∈ t.agenda ∧
        r.type = if failed then 0x0A else 0x09) ∧
    (∀ (store : BitVec 4) (layer : BitVec 2) (cluster : BitVec 6) (core : BitVec 5) (slice : BitVec 4) (a : Word) (bit : BitVec 7),
      s.ev = some (.sramEccError store layer cluster core slice a (.corrected bit)) → reports .sramEccError { s with freeCount := s.freeCount + 1 } 0x01 1) ∧
    (∀ (a : Word) (ch : BitVec 3) (bit : BitVec 7), (s.ev = some (.hbmEccError a ch (.corrected bit)) → reports .hbmEccError { s with freeCount := s.freeCount + 1 } 0x03 1) ∧
      (s.ev = some (.hbmEccError a ch .uncorrectableHome) → ∃ t r, exec .hbmEccError s = .next t ∧ a.toNat % 2 ^ 52 / 64 ∈ t.poison ∧ t.mem = s.mem ∧
        .periscopeRecord r ∈ t.agenda ∧ r.type = 0x04 ∧ r.address = a)) ∧
    (∀ (c : BitVec 16) (file : BitVec 2) (reg : BitVec 6), s.ev = some (.regfileParityError c file reg) → (s.getCore c).running = 0 → reports .regfileParityError s 0x06 3) ∧
    (∀ cl bad, s.ev = some (.clusterContainment cl bad) → s.tasksOf cl = [] → bad = [] → ∃ t r, exec .clusterContainment s = .next t ∧ (t.getCluster cl).tiles = [] ∧
      (t.getCluster cl).ready = [] ∧ (t.getCluster cl).held = [] ∧ (t.getCluster cl).tlb = [] ∧ t.mem = s.mem ∧ .periscopeRecord r ∈ t.agenda ∧ r.type = 0x12) ∧
    (∀ cl, s.ev = some (.schedulerWatchdogTimeout cl) → exec .schedulerWatchdogTimeout s = .next { s with agenda := s.agenda ++ [.clusterContainment cl []] }) ∧
    (∀ cl, s.ev = some (.poisonedTailReceived cl .other) → reports .poisonedTailReceived s 0x12 3) ∧
    (∀ c a, s.ev = some (.icacheParityError c a) → reports .icacheParityError (s.onCoreId c fun k => { k with icache := k.icache.filter fun l => l.va != a.toNat / 64 }) 0x05 1)

/-- R57, R64 to R73, R37, R46, R249, R250: how records come to cores and clusters. The lottery draws with the generator of R57; an idle core or cluster is
gated, and a wake ends; a held record enters its deque; a core claims the bottom record of its deque, a claimed record without tiles is dispatched,
and its task begins with the registers of R37. A fill that has ended makes its tile READY, a drain that has ended frees it, and an operation's bytes
move as it completes. -/
def Obligations.SchedulingEvents : Prop :=
  ∀ s : State,
    (∀ pid, s.ev = some (.lotteryDraw pid) → let q := s.part pid
      (q.run = false ∨ q.preempt = true ∨ s.eligibleQueues pid = [] → exec .lotteryDraw s = .next s) ∧
      (q.run = true → q.preempt = false →
        let a := q.x ^^^ (q.x <<< 13)
        let b := a ^^^ (a >>> 17)
        let x := b ^^^ (b <<< 5)
        let total := ((s.eligibleQueues pid).map Prod.snd).sum
        ∀ (before after : List (Nat × Nat)) (n : BitVec 6) (k : Nat) (t : BitVec 32) (ts : List (BitVec 32)), s.eligibleQueues pid = before ++ (n.toNat, k) :: after →
          (before.map Prod.snd).sum ≤ x.toNat % total → x.toNat % total < (before.map Prod.snd).sum + k → (rd q.queues n).recs = t :: ts →
          ∃ u, exec .lotteryDraw s = .next u ∧ (u.part pid).x = x ∧ (rd (u.part pid).queues n).recs = ts ∧
            (rd (u.part pid).queues n).started = (rd q.queues n).started ++ [t])) ∧
    (∀ cl, s.ev = some (.clusterWakeComplete cl) → (s.getCluster cl).intAcc = [] → exec .clusterWakeComplete s = .next (s.onCluster cl fun c => { c with awake := true, waking := false })) ∧
    (∀ c, s.ev = some (.coreWakeComplete c) → exec .coreWakeComplete s = .next (s.onCoreId c fun k => { k with awake := true, waking := false })) ∧
    (∀ cl, s.ev = some (.clusterGate cl) → (s.clusterIdle cl = false → exec .clusterGate s = .next s) ∧
      (s.clusterIdle cl = true → (s.getCluster cl).futs = [] → exec .clusterGate s = .next (s.onCluster cl fun c => { c with awake := false, waking := false }))) ∧
    (∀ c, s.ev = some (.coreGate c) → (s.coreIdle c = false → exec .coreGate s = .next s) ∧
      (s.coreIdle c = true → s.NoPartials → ∃ t, exec .coreGate s = .next t ∧ (t.getCore c).awake = false ∧ (t.getCore c).tlb = [] ∧ (t.getCore c).icache = [] ∧ t.mem = s.mem)) ∧
    (∀ cl t c hs, s.ev = some (.heldRecordPush cl) → (s.getCluster cl).held = (t, c) :: hs → (s.getCore c).deque.length < 32 →
      ∃ u, exec .heldRecordPush s = .next u ∧ (u.getCore c).deque = t :: (s.getCore c).deque ∧ (u.getCluster cl).held = hs) ∧
    (∀ pid t ts x, s.ev = some (.coreSelectWork s.core.id) → (s.me.tid = 0 ∧ (s.slotFor pid s.core.id).isSome ∨ s.me.tid ≠ 0 ∧ (s.freeSlotOf pid s.core.id).isSome) →
      s.me.tid ≠ t → s.corePid s.core.id = some pid → s.coreOpen pid s.core.id = true → s.core.prep = [] →
      s.readyFor pid s.core.id = none → s.core.deque = t :: ts → s.findTask t = some x →
      ∃ (u : State) (y : Task), exec .coreSelectWork s = .next u ∧ u.core.deque = ts ∧ u.core.prep = [t] ∧ .tileFrameAllocate t ∈ u.agenda ∧ u.findTask t = some y ∧
        y.st = .preparing ∧ y.core = s.core.id) ∧
    (∀ t x, s.ev = some (.tileFrameAllocate t) → s.findTask t = some x → x.st = .preparing → x.tw[4] = 0 → s.argTiles x = [] → x.tid = t → (∀ y ∈ s.allTasks, s.wantsFrames y = false) →
      ∃ u, exec .tileFrameAllocate s = .next u ∧ .taskDispatch t ∈ u.agenda ∧ u.mem = s.mem) ∧
    (∀ t x i, s.ev = some (.taskDispatch t) → s.findTask t = some x → x.tid = t → x.core = s.core.id → s.me.tid = 0 → s.core.running = 0 → s.tilesReady x = true → x.tw[4] = 0 →
      s.coreOpen x.pid x.core = true → s.detClosed x.pid (twDet x.tw[7]) x.core = false → s.freeSlotOf x.pid x.core = some i →
      ∃ u, exec .taskDispatch s = .next u ∧ u.core.running = t ∧ rd u.core.slots i = t ∧ u.me.tid = t ∧ u.me.st = .running ∧ u.me.pc = x.tw[0] ∧
        u.me.self = x.tw[5] ∧ (∀ r : Fin 64, u.me.g[r] = if r.val = 1 then x.tw[1] else if r.val = 2 then x.tw[2] else if r.val = 3 then x.tw[3] else if r.val = 9 then x.tw[5] else 0) ∧
        u.me.q = Vector.replicate 8 0 ∧ u.me.v = Vector.replicate 32 0 ∧ u.me.replayable = x.tw[7].getLsbD 11 ∧ u.me.det = x.tw[7].getLsbD 16 ∧ u.mem = s.mem) ∧
    (∀ cl f y, s.ev = some (.tileFillComplete cl f) → s.tileAt cl f.toNat = some y → y.st = .filling → y.todo = [] →
      ∃ u, exec .tileFillComplete s = .next u ∧ u.cm = s.cm ∧ ∃ z, u.tileAt cl f.toNat = some z ∧ z.st = .ready ∧ z.owner = y.owner) ∧
    (∀ cl f y, s.ev = some (.tileFillError cl f) → s.tileAt cl f.toNat = some y → y.arg = false →
      ∃ (u : State) (z : Tile), exec .tileFillError s = .next u ∧ z ∈ (u.getCluster cl).tiles ∧ z.failed = true ∧ z.frames = 0 ∧ z.frame = y.frame ∧ z.owner = y.owner) ∧
    (∀ cl f y op, s.ev = some (.tileDrainComplete cl f) → s.tileAt cl f.toNat = some y → y.st = .draining → y.todo = [] → y.freeOp = some op → s.outs = [] →
      (∀ pg ∈ pagesOf y.segs, ∃ l ∈ y.leases, l.va = pg ∧ l.revoked = false) →
      ∃ u, exec .tileDrainComplete s = .next u ∧ u.tileAt cl f.toNat = none ∧ .copyEngineComplete cl op ∈ u.agenda ∧ u.mem = s.mem) ∧
    (∀ cl id o a b n, s.ev = some (.copyEngineComplete cl id) → (s.getCluster cl).ops.find? (fun o => o.id == id) = some o → o.ended = false → o.drain = none → o.stream = none → s.outs = [] →
      o.ctr = none → o.push = none → o.runs = [(.cm a, .cm b, n)] → a + n ≤ 2 ^ 23 → b + n ≤ 2 ^ 23 → a + n ≤ b ∨ b + n ≤ a → s.cm.wf = true →
      (∀ i < n, (2 ^ 23 * cl.toNat + a + i) / 64 ∉ s.localPoison ++ s.localLatent) →
      ∃ u, exec .copyEngineComplete s = .next u ∧ (∀ i < n, u.cm.get (2 ^ 23 * cl.toNat + b + i) = s.cm.get (2 ^ 23 * cl.toNat + a + i)) ∧
        (∀ k, k < 2 ^ 23 * cl.toNat + b ∨ 2 ^ 23 * cl.toNat + b + n ≤ k → u.cm.get k = s.cm.get k) ∧ ∀ z ∈ (u.getCluster cl).ops, z.id ≠ id) ∧
    (∀ cl id va o c, s.ev = some (.copyEngineFault cl id va) → (s.getCluster cl).ops.find? (fun o => o.id == id) = some o → o.paused = some (va, c) →
      ∃ acc, exec .copyEngineFault s = .next (s.pageFault o.pid cl (coreIn cl 0) o.asid 0 va c 4 false acc)) ∧
    (∀ cl t x u h, s.ev = some (.launchFutureAllocate cl) → (s.getCluster cl).launchWait = [t] → s.findTask t = some x → x.launched ≠ none → x.tid = t → t ≠ s.me.tid →
      s.allocFut x.pid cl t = (u, .ok h) → u.findTask t = some x → ∃ (w : State) (y : Task), exec .launchFutureAllocate s = .next w ∧ (w.getCluster cl).launchWait = [] ∧
        w.findTask t = some y ∧ y.self = h ∧ y.tw[5] = h ∧ y.cl = cl)

/-- R78, R104, R318, R364, R365, R34, R284, R296, R275, R82: what reaches a task from outside its instructions: quanta, an expired budget, a pre-emption,
an event for a future's entry, a wake, an abort, a reissued release, and a change of its layer's role, which is refused where another change has come
between and its set fails the checks now. -/
def Obligations.TaskEvents : Prop :=
  ∀ s : State,
    (∀ c, s.ev = some (.quantumBoundary c) → exec .quantumBoundary s =
      .next (if (s.getTask (s.getCore c).running).det then (s.onCoreId c fun k => { k with boundary := true }) else s)) ∧
    (∀ pid, s.ev = some (.quantumEnd pid) → (s.quantumOver pid = false → exec .quantumEnd s = .next s) ∧
      (s.quantumOver pid = true → (∀ k ∈ s.allCores, k.detReqs = [] ∧ k.qlog = []) → ∃ u, exec .quantumEnd s = .next u ∧ (u.part pid).quantum = (s.part pid).quantum + 1 ∧
        (∀ c ∈ s.logicalCores pid, (u.getCore c).boundary = false ∧ (u.getCore c).retiredDet = 0) ∧ u.mem = s.mem)) ∧
    (∀ c, s.ev = some (.followTimeout c) → ∃ u, exec .followTimeout s = .next u ∧
      ((s.getCore c).followAt = none → (u.getCore c).followAt = none) ∧ ∀ w, (s.getCore c).followAt = some w → (u.getCore c).followAt = some (w.1, followTurns + 1)) ∧
    (s.ev = some (.budgetExpiry s.core.id) → (s.me.tid = 0 ∨ s.me.budget ≠ 0 → exec .budgetExpiry s = .next s) ∧
      (s.me.tid ≠ 0 → s.me.budget = 0 → s.mxBusy = false → s.core.mx.pendingTrap = none →
        (s.me.isHandler = true → exec .budgetExpiry s = .next { s with agenda := s.agenda ++ [.handlerAbort s.core.id 0x0D3] }) ∧
        (s.me.isHandler = false → s.me.det = false → ∃ (u : State) (y : Task), exec .budgetExpiry s = .next u ∧ u.core.running = 0 ∧ u.findTask s.me.tid = some y ∧
          y.st = .parked ∧ y.pc = s.pc ∧ y.g = s.me.g ∧ s.me.tid ∈ (u.getCluster y.cl).ready ∧
          ((s.part s.me.pid).stopping = false → s.heldCore s.me.pid s.core.id = false → y.parkCause = 0x140)))) ∧
    (∀ pid, (s.ev = some (.preemptRequest pid true) → exec .preemptRequest s = .next (s.onPart pid fun p => { p with preempt := true, stopping := true })) ∧
      (s.ev = some (.preemptRequest pid false) → (s.part pid).stopping = false → ∃ u, exec .preemptRequest s = .next u ∧ u.me = s.me ∧ u.mem = s.mem ∧
        ((s.quiet pid = true ∧ (u.part pid).preempt = false ∧ .preemptRequest pid false ∉ u.waits) ∨
         (s.quiet pid = false ∧ (u.part pid).preempt = true ∧ .preemptRequest pid false ∈ u.waits)))) ∧
    (∀ h v id f, s.ev = some (.futureFabricEvent h (.resolve v) id) → HasFut s h f → f.st = .empty → f.waiters = [] → f.live = true → f.refs ≠ 0 →
      (∀ x, s.findTask f.producer = some x → x.launched = none) →
      ∃ (u : State) (y : Fut), exec .futureFabricEvent s = .next u ∧ u.futOf h = some y ∧ y.st = .resolved ∧ y.val = v ∧ u.mem = s.mem) ∧
    (∀ h ev id c, s.ev = some (.futureFabricEvent h ev id) → (∀ dev tid op, ev ≠ .touch dev tid op) → s.handleCause h = some c →
      exec .futureFabricEvent s = .next (s.fabricRecord h c id)) ∧
    (∀ t, s.ev = some (.remoteWake t) → (s.findTask t = none → exec .remoteWake s = .next s) ∧
      ∀ x, s.findTask t = some x → x.st = .parked → x.parkCause = 0x0AA → x.det = false → ∃ u, exec .remoteWake s = .next u ∧ t ∈ (u.getCluster x.cl).ready) ∧
    (∀ c, s.ev = some (.handlerAbort s.core.id c) → (s.me.tid = 0 ∨ s.me.isHandler = false → exec .handlerAbort s = .next s) ∧
      (s.me.tid ≠ 0 → s.me.isHandler = true → ∃ u, exec .handlerAbort s = .next u ∧ u.findTask s.me.tid = none)) ∧
    (∀ scope, s.ev = some (.scopeMissNotice s.core.id scope) → s.core.running = s.me.tid → s.me.tid ≠ 0 →
      exec .scopeMissNotice s = .next (s.onMe fun t => { t with smiss := BitVec.ofNat 32 (min (2 ^ 32 - 1) (t.smiss.toNat + 1)) })) ∧
    (∀ pid l r clock, let e : Ev := .layerRoleChange pid l r clock
      s.ev = some e → s.waits = [] → s.drains = 0 → ((s.part pid).run = false → exec .layerRoleChange s = .next s) ∧
      (∀ c, (s.part pid).run = true → s.changeCause pid l (roleOf r.toNat) clock = some c →
        ∃ u, exec .layerRoleChange s = .next u ∧ e ∉ u.waits ∧ u.drains = 0 ∧ u.roles = s.roles) ∧
      ((s.part pid).run = true → s.changeCause pid l (roleOf r.toNat) clock = none → ∃ u, exec .layerRoleChange s = .next u ∧
        ((e ∈ u.waits ∧ u.drains = BitVec.ofNat 4 (2 ^ l.toNat) ∧ u.roles = s.roles) ∨
         (e ∉ u.waits ∧ u.drains = 0 ∧ u.roles = wr s.roles l (if r = 0 then .compute else if r = 1 then .memory else .off)))))

/-- R205, R206, R212, R214, R215, R216: what other agents and the caches' own clocks do to lines, their ages, and a tenant's scale. R81, R393, R425, R426,
R427: the management controller's events and the stages of power. A limit from 600 W to 2,000 W is taken; firmware is accepted where both of its
signatures verify, and a check that fails at stage 2 leaves the device in recovery; after a power-down of the main side what stands on standby power
stays. (The roles that stage 4 gives are the model's choice, assumption 7.) -/
def Obligations.CachesAndManagement : Prop :=
  (∀ s : State,
    (∀ l, s.ev = some (.uLineCombine l) → s.NoWatch → ∃ t, exec .uLineCombine s = .next t ∧ t.me = s.me ∧ (∀ k ∈ t.allCores, ∀ u ∈ k.ulines, u.line ≠ l.toNat) ∧
      ∀ a, a < 64 * l.toNat ∨ 64 * l.toNat + 64 ≤ a → s.mem.wf = true → t.mem.get a = s.mem.get a) ∧
    (∀ c l e, s.ev = some (.l1dCoherenceRequest c l e) → s.NoPartials → ∃ t, CacheOnly s t ∧ exec .l1dCoherenceRequest s = .next t ∧
      (e = .write → ∀ x ∈ (t.getCore c).l1d, x.line ≠ l.toNat) ∧ (e = .read → ∀ x ∈ (t.getCore c).l1d, x.line = l.toNat → x.st = .s)) ∧
    (∀ id, s.ev = some (.sliceAgeTick id) → ∃ t, exec .sliceAgeTick s = .next t ∧ (t.getSlice id).age = (s.getSlice id).age + 1 ∧ t.mem = s.mem ∧ t.me = s.me) ∧
    (∀ c id l, s.ev = some (.ageingSweepVisit (some c) id l) → ∃ t, exec .ageingSweepVisit s = .next t ∧ t.mem = s.mem ∧ t.me = s.me ∧
      (t.getCore c).l1d = (s.getCore c).l1d.map fun x =>
        if x.line = l.toNat ∧ (x.due - (s.getCore c).cclk).toInt < -((s.grace ((s.corePid c).getD 0) : Nat) : Int) then { x with stale := true } else x) ∧
    (∀ id l, s.ev = some (.ageingSweepVisit none id l) → exec .ageingSweepVisit s = .next (s.onSlice id fun sl => { sl with
      lines := sl.lines.map fun x => if x.line = l.toNat ∧ (x.due - sl.age).toInt < -((s.grace x.pid : Nat) : Int) then { x with stale := true } else x })) ∧
    (∀ id l pid asid x, s.ev = some (.sliceSample id l pid asid) → (s.getSlice id).lines.find? (fun y => y.line == l.toNat && !y.replica) = some x → (s.getSlice id).samples.length < 256 →
      ∃ t, exec .sliceSample s = .next t ∧ (t.getSlice id).samples = (s.getSlice id).samples ++ [{ line := l.toNat, asid := asid, pid := pid, due := x.due }] ∧
        (∃ y, (t.getSlice id).tenants.head? = some y ∧ y.asid = asid ∧ y.pid = pid) ∧ (t.getSlice id).tenants.length ≤ 64) ∧
    (∀ id l pid asid res, s.ev = some (.sampleOutcome id l pid asid res) → ∃ t, exec .sampleOutcome s = .next t ∧ t.mem = s.mem ∧
      (t.getSlice id).samples = (s.getSlice id).samples.filter (fun x => !(x.line == l.toNat && x.asid == asid && x.pid == pid)) ∧
      (res ≠ .discarded → (∃ x ∈ (s.getSlice id).samples, x.line = l.toNat ∧ x.asid = asid ∧ x.pid = pid) → (t.getSlice id).tenants = (s.getSlice id).tenants.map fun y =>
        if y.asid = asid ∧ y.pid = pid then { y with samples := y.samples + 1, unused := y.unused + (if res = SampleResult.unused then 1 else 0) } else y)) ∧
    (∀ id pid asid, s.ev = some (.ktAdjust id pid asid) → exec .ktAdjust s = .next (s.onSlice id fun sl => { sl with tenants := sl.tenants.map fun y =>
      if y.asid = asid ∧ y.pid = pid then { y with samples := 0, unused := 0, kt :=
        (if 32768 < y.unused then BitVec.ofNat 16 (min (2 * y.kt.toNat) 0x1000) else if y.unused < 8192 then BitVec.ofNat 16 (max (y.kt.toNat / 2) 0x10) else y.kt) } else y }))) ∧
  (∀ s : State,
    (∀ w, s.ev = some (.mgmtSetModuleLimit w) → (600 ≤ w.toNat → w.toNat ≤ 2000 → ∃ t, exec .mgmtSetModuleLimit s = .next t ∧ t.limit = w.toNat ∧
        t = { s with limit := w.toNat, throttle := t.throttle }) ∧ (w.toNat < 600 ∨ 2000 < w.toNat → exec .mgmtSetModuleLimit s = .next s)) ∧
    (s.ev = some .mgmtReadStandbyBuffer → ∃ t m, exec .mgmtReadStandbyBuffer s = .next t ∧ t = { s with mgmtOut := s.mgmtOut ++ [.standby m s.peri.standby] } ∧
      m = [s.peri.prbase, s.peri.prtail, s.peri.prhead, BitVec.ofBool s.peri.overflow ++ (0 : BitVec 31) ++ s.peri.dropcnt, s.peri.prctl, s.peri.prseq]) ∧
    (∀ n, s.ev = some (.mgmtSpdmAttestation n) → ∃ t a b, exec .mgmtSpdmAttestation s = .next t ∧
      t = { s with freeCount := s.freeCount + 2, mgmtOut := s.mgmtOut ++ [.measurement n a b] }) ∧
    (∀ rsa slh, s.ev = some (.mgmtFirmwareRecovery rsa slh) →
      (rsa = true → slh = true → exec .mgmtFirmwareRecovery s = .next { s with fwOk := true, recovery := false, power := if s.recovery then 1 else s.power }) ∧
      (rsa = false ∨ slh = false → exec .mgmtFirmwareRecovery s = .next s)) ∧
    (s.ev = some .powerUp → ∃ t, exec .powerUp s = .next t ∧ t.mem = s.mem ∧
      (s.power = 1 → s.fwOk = false → t.power = 1 ∧ t.recovery = true) ∧ (s.power = 1 → s.fwOk = true → t.power = 2) ∧
      (s.power < 6 → s.power ≠ 1 → t.power = s.power + 1) ∧ (6 ≤ s.power → t = s)) ∧
    (s.ev = some .mainSidePowerDown → ∃ t, exec .mainSidePowerDown s = .next t ∧ t.power = 0 ∧ t.peri.standby = s.peri.standby ∧ t.limit = s.limit ∧ t.harvested = s.harvested ∧
      t.tasks = [] ∧ t.me.tid = 0 ∧ t.roles = Vector.replicate 4 .off ∧ t.mem.cells = []))

/-! ### The word and the step -/

/-- R84, R86, R87, R89, R100, R105: the turn of an awake core whose running task, and whose stream's members, have nothing of their own under way that
the word would wait for. Where the bytes of the word at the PC
decode to an instruction that passes the checks, the step is `exec` of it (or only its retirement, where the guard does not hold), then what follows
every word: time and lookahead (`after`), and the same word in the members of the core's stream. The bytes of a line are those of memory at the place
of the PC, where the instruction cache holds nothing older, and a word that crosses a line is read in two parts. -/
def Obligations.StepRunsDecoded : Prop :=
  (∀ (s t : State) (h : Header) (i : Instr) (bs : List Byte) (ts : List Turn),
    s.agenda = [] → s.turns = .core s.core.id :: ts → s.power = 6 → s.stopped = false → s.recovery = false →
    let v : State := { s with turns := ts }
    s.core.awake = true → s.core.halted = false → s.laggard = none → (s.getCluster (clusterOf s.core.id)).awake = true → s.me.tid ≠ 0 → s.me.budget ≠ 0 →
    v.streamAtBoundary = false → v.membersFirst = none → (s.me.capsule = false ∨ s.me.cap.displaced = false) →
    s.me.mctx = none → s.me.reissue = [] → s.mxBusy = false → s.core.mx.pendingTrap = none → s.badStore = none →
    fetchWord.run v = .ok bs t → decode (wordOfBytes bs) = .ok (h, i) →
    (starred (fields (wordOfBytes bs)).maj (fields (wordOfBytes bs)).min = true → t.privileged t.me = true) → capsuleCause t.me (fields (wordOfBytes bs)) = none →
    t.membersHold (fields (wordOfBytes bs)) h i = none →
    (t.guardHolds h = true → ∀ u, exec i t = .next u →
      step s = .next ((if retiredIn t u then runMembers h i t.core.id t.core.members (t.after h i u) else t.after h i u).ranDry s)) ∧
    (t.guardHolds h = false → step s = .next
      ((if retiredIn t t.advance then runMembers h i t.core.id t.core.members (t.after h i t.advance) else t.after h i t.advance).ranDry s))) ∧
  (∀ (s : State) (va : Word) (n : Nat) (l : Leaf), Reaches s va n .exec l → Good s l.place n → va.toNat % 64 + n ≤ 64 →
    (∀ c ∈ s.core.icache, c.asid = s.me.asid → c.va = va.toNat / 64 → c.bytes = (List.range 64).map fun k => s.mem.get (l.place.key / 64 * 64 + k)) →
    ∃ t, (fetchPart va n).run s = .ok ((List.range n).map fun k => s.mem.get (l.place.key + k)) t ∧ t.mem = s.mem ∧ t.me = s.me) ∧
  (∀ (s t : State) (a : List Byte), s.pc.toNat % 64 ≤ 52 → (fetchPart s.pc 12).run s = .ok a t → fetchWord.run s = .ok a t) ∧
  (∀ (s t u : State) (a b : List Byte), 52 < s.pc.toNat % 64 → (fetchPart s.pc (64 - s.pc.toNat % 64)).run s = .ok a t →
    (fetchPart (s.pc + BitVec.ofNat 64 (64 - s.pc.toNat % 64)) (12 - (64 - s.pc.toNat % 64))).run t = .ok b u → fetchWord.run s = .ok (a ++ b) u)

/-- R88, R92 to R99, R343: words that the manual writes out in full decode to the instructions that it prints beside them. -/
def Obligations.DecodeWords : Prop :=
  decodeTableWord 96 0x1A50_0000_410B_D028_FC00_0000 = some (.viota 1 (.g 11) (.k 16) { fmt := 0x0A, rnd := 0, fmt2 := 0x3F, nanp := false, sat := false, opm := 0, mask := none }) ∧
  decodeTableWord 96 0x1B00_0000_4141_0004_2800_0000 = some (.vcvt 1 1 0 { fmt := 0x01, rnd := 0, fmt2 := 0x0A, nanp := false, sat := false, opm := 0, mask := none }) ∧
  decodeTableWord 96 0x0650_0000_0C00_00FF_FFFF_FFFB = some (.loop 12 0xFF_FFFF_FFFB) ∧
  decodeTableWord 96 0x02A0_0000_8102_0000_0000_0020 = some (.cmpi 1 (.g 2) 2 0) ∧
  decode 0x0601_0000_0000_0000_0000_0013 = .ok ({ gneg := false, guard := 1, la := 0 }, .bra 19) ∧
  decode 0x1002_0000_1B03_0000_0018_6000 =
    .ok ({ gneg := false, guard := 2, la := 0 }, .ld 27 (.g 3) (.g 0) { disp := 24, size := 3, scope := 0, space := 0, scale := 0, mod := 0, hint := { nud := 0, l1p := 0 } }) ∧
  decodeTableWord 96 0x0710_0000_0C14_0000_0000_0000 = some (.spawnr 12 20 0) ∧
  decodeTableWord 96 0x0720_0000_0E0D_0000_0000_0000 = some (.join 14 13 none) ∧
  decodeTableWord 96 0x1800_0000_4141_4204_FC00_0000 = some (.vadd 1 1 (.v 2) { fmt := 0x01, rnd := 0, fmt2 := 0x3F, nanp := false, sat := false, opm := 0, mask := none })

/-- R88 to R102: decoding the word of a well-formed instruction gives the instruction, its guard and its lookahead, with every operand at every value that
the encoding admits. ILL traps whatever the rest of its word holds (R102), so its word gives no guard. -/
def Obligations.EncodeDecode : Prop :=
  ∀ (hd : Header) (i : Instr) (w : BitVec 96), hd.wf = true → i.wf = true → encode hd i = some w → decode w = .ok (if i = .ill then Header.always else hd, i)

/-- R88 to R102: no bit of a word is dropped. A word that decodes to an instruction other than ILL and the unassigned encoding is the word of that
instruction with its guard and lookahead, and both are well-formed. -/
def Obligations.DecodeEncode : Prop :=
  ∀ (hd : Header) (i : Instr) (w : BitVec 96), decode w = .ok (hd, i) → i ≠ .ill → i ≠ .unassignedEncoding → encode hd i = some w ∧ hd.wf = true ∧ i.wf = true

/-- R2, R201, R202: every step, of an instruction, a command or an event, keeps the canonical form of the device's memories (addresses rise, and no byte
is listed that reads as an unlisted one), so that equal contents are equal data. -/
def Obligations.StepKeepsMemoryForm : Prop :=
  ∀ s t : State, s.memWf → step s = .next t → t.memWf

/-- R121, R392, R422, R427, and the canonical form: the device after reset. The system registers hold the values of R121, Periscope those of R392 and the
pod control block those of R422; no partition runs, no task exists, and every memory is in its canonical form. (That a byte reads 0 is the model's
choice, assumption 1.) -/
def Obligations.ResetState : Prop :=
  State.reset.memWf ∧ State.reset.power = 1 ∧ State.reset.me.tid = 0 ∧ State.reset.tasks = [] ∧ State.reset.stopped = false ∧ State.reset.limit = 2000 ∧ State.reset.throttle = 16 ∧
  (∀ p : BitVec 2, (State.reset.part p).run = false ∧
    (State.reset.part p).regs = {
      ftlimit := 512, fspill := 0, trapring := 0, faultring := 0, quant := 4096, detctl := 0, maxmsg := 4, classtab := 0, adoptdly := 2000, tenscale := 0x10,
      tencap := (1024 <<< 32) + 32768, lotseed := 0, budgetmax := (0x9C <<< 32) + 1015808, watcharea := 0 }) ∧
  State.reset.peri.prbase = 0 ∧ State.reset.peri.prtail = 0 ∧ State.reset.peri.prhead = 0 ∧ State.reset.peri.overflow = false ∧ State.reset.peri.dropcnt = 0 ∧
    State.reset.peri.prctl = 3 ∧ State.reset.peri.prseq = 0 ∧
  State.reset.pod.keybase = 0 ∧ State.reset.pod.keylog2n = 0 ∧ State.reset.pod.rmaxout = 512 ∧ State.reset.pod.rtimeout = 2000 ∧ State.reset.pod.fenced = 0 ∧
  (∀ a, State.reset.mem.get a = 0)
end

