-- ==== Sys2Proof/Laws/Retire.lean ====
section
/-!
SUPPORT. What going on at an address changes, said once: every completion goes through these lemmas.
-/

namespace Sys2Proof.Machine

/-- Requests that a retiring task drops are its own. -/
theorem State.outsLeft_own (s : State) :
    s.outsLeft.Sublist s.outs ∧ ∀ o ∈ s.outs, o.tid ≠ s.me.tid → o ∈ s.outsLeft :=
  ⟨List.filter_sublist, fun o h hne => by simp [State.outsLeft, List.mem_filter, h, hne]⟩

/-- Only a DET task's instruction ends a quantum. -/
theorem State.quantumEv_of_not_det {s : State} (h : s.me.det = false) : s.quantumEv = [] := by
  simp [State.quantumEv, State.quantumCounts, h]

/-- What going on at an address does (R84, R78, R89). -/
theorem retired_goTo (u : State) (a : Word) : Retired u (u.goTo a) a where
  me := by simp [State.goTo, State.setPc, State.retire, Task.counted]
  core := by simp [State.goTo, State.setPc, State.retire]
  agenda := ⟨_, rfl, fun _ => State.quantumEv_of_not_det⟩
  outs := u.outsLeft_own
  rest := rfl

/-- The same for an instruction that counts in MCLK and CCLK (R211). -/
theorem retired_countMem (u : State) (a : Word) : Retired u (u.countMem.goTo a) a 1 where
  me := rfl
  core := rfl
  agenda := ⟨_, List.append_assoc .., fun h => nomatch h⟩
  outs := u.countMem.outsLeft_own
  rest := rfl

/-- An instruction that ends by going on at the next word. -/
theorem goes_goTo {i : Instr} {s u : State} {a : Word} (h : exec i s = .next (u.goTo a)) : Goes i s u a :=
  ⟨_, h, retired_goTo u a⟩

/-- The same with the count of memory instructions. -/
theorem goes_countMem {i : Instr} {s u : State} {a : Word} (h : exec i s = .next (u.countMem.goTo a)) : Goes i s u a 1 :=
  ⟨_, h, retired_countMem u a⟩

end Sys2Proof.Machine
end

