-- ==== Sys2Proof/Laws/Calm.lean ====
section
/-!
SUPPORT. What the shared actions of instructions do in a calm task, and what translation answers on a mapped page.
-/

namespace Sys2Proof.Machine

/-! ### The monad -/

theorem run_bind {α β : Type} (m : Act α) (f : α → Act β) (s : State) :
    (m >>= f) s = match m s with | .ok a t => f a t | .error e t => .error e t := by
  show EStateM.bind m f s = _
  unfold EStateM.bind
  cases m s <;> rfl

theorem run_pure {α : Type} (a : α) (s : State) : (pure a : Act α) s = .ok a s := rfl
theorem run_get (s : State) : (get : Act State) s = .ok s s := rfl
theorem run_set (t s : State) : (set t : Act PUnit) s = .ok () t := rfl
theorem run_upd (f : State → State) (s : State) : upd f s = .ok () (f s) := rfl
theorem run_throw {α : Type} (e : Stop) (s : State) : (throw e : Act α) s = .error e s := rfl
theorem run_trap {α : Type} (c : Cause) (v : Word) (s : State) : (trap c v : Act α) s = .error (.trap c v) s := rfl

/-- An action that answers, and then the next word. -/
theorem finish_ok {m : Act Unit} {s t : State} (h : m s = .ok () t) : finish m s = .next (t.goTo (t.pc + 12)) := by
  unfold finish finishWith
  rw [show m.run s = m s from rfl, h]
  rfl

theorem finishMem_ok {m : Act Unit} {s t : State} (h : m s = .ok () t) : finishMem m s = .next (t.countMem.goTo (t.pc + 12)) := by
  unfold finishMem finishWith
  rw [show m.run s = m s from rfl, h]
  rfl

/-- An action that traps, once the matrix queue is empty. -/
theorem finish_trap {m : Act Unit} {s : State} {c : Cause} {v : Word} (hb : s.mxBusy = false) (h : m s = .error (.trap c v) s) :
    finish m s = .next (s.deliver c v s.pc) := by
  unfold finish finishWith
  rw [show m.run s = m s from rfl, h]
  simp [State.endStop, hb, State.stopWith]

/-! ### A calm task -/

theorem State.Calm.clearShade {s : State} (h : s.Calm) : s.clearShade = s := by simp [State.clearShade, h.shade]

theorem State.Calm.waitMatrix {s : State} (h : s.Calm) : waitMatrix s = .ok () s := by
  simp [Machine.waitMatrix, run_bind, run_get, h.idle, h.clearShade, run_set]

theorem State.Calm.remoteOpen {s : State} (h : s.Calm) : s.remoteOpen = false := by simp [State.remoteOpen, h.outs]

theorem State.Calm.releaseOpen {s : State} (h : s.Calm) : s.releaseOpen = false := by simp [State.releaseOpen, h.outs]

theorem State.Calm.releaseAt {s : State} (h : s.Calm) (sc : BitVec 3) : releaseAt sc s = .ok () s := by
  simp [Machine.releaseAt, run_bind, h.waitMatrix, run_get, h.releaseOpen, run_pure]

theorem State.Calm.loseReplay {s : State} (h : s.Calm) (w : BitVec 2) : s.loseReplay w = s := by simp [State.loseReplay, h.replayable]

theorem State.Calm.noDet {s : State} (h : s.Calm) (c : Cause) : noDet c s = .ok () s := by
  simp [Machine.noDet, run_bind, run_get, h.det, run_pure]

theorem State.Calm.detOn {s : State} (h : s.Calm) : s.detOn = false := by simp [State.detOn, h.det]

theorem State.Calm.detMany {s : State} (h : s.Calm) (es : List (Word × List Nat)) (w : Bool) (c : Option CommKey) :
    detMany es w c s = .ok () s := by
  simp [Machine.detMany, run_bind, run_get, h.det, run_pure]

theorem State.Calm.detTouch {s : State} (h : s.Calm) (va : Word) (k n : Nat) (w : Bool) (c : Option CommKey) :
    detTouch va k n w c s = .ok () s := h.detMany _ _ _

theorem State.Calm.mixShade {s : State} (h : s.Calm) (sp : BitVec 2) (k n v : Nat) : mixShade sp k n v s = .ok v s := by
  simp [Machine.mixShade, run_bind, run_get, h.shade, run_pure]

theorem State.Calm.mixColl {s : State} (h : s.Calm) (va : Word) (n v : Nat) : mixColl va n v s = .ok v s := by
  simp [Machine.mixColl, run_bind, run_get, h.colls, run_pure]

theorem State.Calm.unshade {s : State} (h : s.Calm) (sp : BitVec 2) (k n : Nat) : s.unshade sp k n = s := by simp [State.unshade, h.shade]

theorem State.Calm.acquired {s : State} (h : s.Calm) : s.acquired = s := by simp [State.acquired, h.shade]

theorem State.Calm.spoil {s : State} (h : s.Calm) (va : Word) (p : Phys) (n : Nat) : s.spoil va p n = s := by simp [State.spoil, h.colls]

/-! ### Translation -/

/-- What the TLBs find first is one of their entries. -/
theorem State.tlbOld_mem {s : State} {va : Word} {e : TlbEnt} (h : s.tlbOld s.core.id s.me.pid s.me.asid va.toNat = some e) :
    e ∈ s.tlbsFor va ∧ e.pid = s.me.pid ∧ e.asid = s.me.asid ∧ e.page = va.toNat / 2 ^ e.log := by
  have hit {l : List TlbEnt} (h : tlbHit l s.me.pid s.me.asid va.toNat = some e) :
      e ∈ l ∧ e.pid = s.me.pid ∧ e.asid = s.me.asid ∧ e.page = va.toNat / 2 ^ e.log := by
    refine ⟨List.mem_of_find?_eq_some h, ?_⟩
    simpa [and_assoc] using List.find?_some h
  unfold State.tlbOld at h
  simp only [State.tlbsFor, List.mem_append]
  split at h
  next x hx =>
    cases h
    exact ⟨.inl (.inl (hit hx).1), (hit hx).2⟩
  · split at h
    next x hx =>
      cases h
      exact ⟨.inl (.inr (hit hx).1), (hit hx).2⟩
    · exact ⟨.inr (List.mem_append.mp (hit h).1), (hit h).2⟩

/-- Translation of a mapped page answers its place, by an entry of a TLB or by a walk, which leave these states. -/
theorem translateAs_mapped {s : State} {va : Word} {acc : Access} {l : Leaf} (h : Mapped s va acc l) :
    (s.translateAs s.core.id s.me.pid s.me.asid (s.privileged s.me) va acc).2 = .ok l.place ∧
    ((∃ e, s.translated va acc = s.tlbFill s.core.id e va.toNat) ∨
      s.translated va acc = ((s.walkReads s.me.pid s.me.asid va).setAD l acc).tlbFill s.core.id (l.tlbEnt acc) va.toNat) := by
  unfold State.translated State.translateAs
  cases ho : (s.tlbOld s.core.id s.me.pid s.me.asid va.toNat).filter fun e => entAllows e (s.privileged s.me) acc with
  | none => simp [State.walked, h.walk]
  | some e =>
    obtain ⟨he, ha⟩ := Option.filter_eq_some_iff.mp ho
    have hm := State.tlbOld_mem he
    have hp := h.tlb e hm.1 hm.2.1 hm.2.2.1 hm.2.2.2 ha
    simp only [h.walk, hp, beq_self_eq_true, if_true]
    exact ⟨trivial, .inl ⟨e, rfl⟩⟩

/-- Translation by the running task. -/
theorem translate_mapped {s : State} {va : Word} {acc : Access} {l : Leaf} (h : Mapped s va acc l) (src : Nat := 0) :
    translate va acc src s = .ok l.place (s.translated va acc) := by
  unfold translate State.translated
  simp only [run_bind, run_get, h.quiet]
  obtain ⟨hp, -⟩ := translateAs_mapped h
  generalize s.translateAs s.core.id s.me.pid s.me.asid (s.privileged s.me) va acc = r at hp
  obtain ⟨t, r⟩ := r
  cases hp
  rfl

/-- Good bytes pass the check of errors. -/
theorem checkLines_good {s : State} {p : Phys} {n : Nat} (h : s.lostHome p n = false) {ls : List Nat} (hl : s.badIn ls = none) (va : Word)
    (u e : Cause) (ea : Option Word) : checkLines va p n ls u e ea s = .ok () s := by
  unfold checkLines
  simp only [run_bind, run_get, hl, h, Bool.false_eq_true, if_false]
  rfl

theorem checkPoison_good {s : State} {p : Phys} {n : Nat} (h : Good s p n) (va : Word) (u e : Cause) (ea : Option Word) :
    checkPoison va p n u e ea s = .ok () s := checkLines_good h.home h.lines va u e ea

end Sys2Proof.Machine
end

