-- ==== Sys2Proof/Laws/Cache.lean ====
section
/-!
SUPPORT. What an access changes beside the bytes it moves: caches, translation entries and the events of their counters, and
nothing else.
-/

namespace Sys2Proof.Machine

theorem CacheOnly.refl (s : State) : CacheOnly s s :=
  ⟨rfl, ⟨[], (List.append_nil _).symm⟩, rfl, fun _ => rfl, fun _ => rfl, fun _ => rfl, id, id⟩

theorem CacheOnly.trans {s t u : State} (a : CacheOnly s t) (b : CacheOnly t u) : CacheOnly s u where
  rest := by rw [b.rest, a.rest]
  agenda := by
    obtain ⟨x, hx⟩ := a.agenda
    obtain ⟨y, hy⟩ := b.agenda
    exact ⟨x ++ y, by rw [hy, hx, List.append_assoc]⟩
  core := by rw [b.core, a.core]
  cores c := by rw [b.cores, a.cores]
  cluster c := by rw [b.cluster, a.cluster]
  slice n := by rw [b.slice, a.slice]
  noPartials h := b.noPartials (a.noPartials h)
  noWatch h := b.noWatch (a.noWatch h)

theorem CacheOnly.ite {s t u : State} {p : Prop} [Decidable p] (a : CacheOnly s t) (b : CacheOnly s u) : CacheOnly s (if p then t else u) := by
  split
  · exact a
  · exact b

/-- A fold of such steps is one. -/
theorem CacheOnly.foldl {α : Type} (f : State → α → State) (h : ∀ s a, CacheOnly s (f s a)) (l : List α) (s : State) :
    CacheOnly s (l.foldl f s) := by
  induction l generalizing s with
  | nil => exact .refl s
  | cons a l ih => exact (h s a).trans (ih _)

/-- The task and what a calm task asks of its core stand. -/
theorem CacheOnly.me {s t : State} (h : CacheOnly s t) : t.me = s.me := by rw [h.rest]
theorem CacheOnly.mem {s t : State} (h : CacheOnly s t) : t.mem = s.mem := by rw [h.rest]
theorem CacheOnly.mx {s t : State} (h : CacheOnly s t) : t.core.mx = s.core.mx := by rw [h.core]
theorem CacheOnly.coreId {s t : State} (h : CacheOnly s t) : t.core.id = s.core.id := by rw [h.core]

theorem CacheOnly.calm {s t : State} (h : CacheOnly s t) (c : s.Calm) : t.Calm where
  idle := by have := c.idle; simp only [State.mxBusy] at *; rw [h.mx, h.me]; exact this
  shade := by rw [h.mx]; exact c.shade
  replayable := by rw [h.me]; exact c.replayable
  det := by rw [h.me]; exact c.det
  colls := by rw [h.rest]; exact c.colls
  outs := by rw [h.rest]; exact c.outs
  staged := by rw [h.me]; exact c.staged

/-! ### The units of the caches -/

/-- Reading a list by number after an entry is put in its place. -/
theorem findBy_putBy {α : Type} {k : α → Nat} (x : α) (n : Nat) (l : List α) :
    findBy k n (putBy k x l) = if k x = n then some x else findBy k n l := by
  have cons (y : α) (ys : List α) : findBy k n (y :: ys) = if k y = n then some y else findBy k n ys := by
    simp only [findBy, List.find?_cons]
    by_cases h : k y = n
    · simp [h]
    · simp [h, beq_eq_false_iff_ne.mpr h]
  induction l with
  | nil => rw [putBy, cons]
  | cons y ys ih =>
    simp only [putBy]
    split
    · rw [cons]
    · split
      next h => rw [cons, cons, ← h]; split <;> rfl
      next h1 h2 =>
        rw [cons, cons, ih]
        split
        next h => rw [if_neg fun hx => h2 (hx.trans h.symm)]
        · rfl

/-- A map that keeps the numbers acts on the entry that is found. -/
theorem findBy_map {α : Type} {k : α → Nat} {f : α → α} (h : ∀ x, k (f x) = k x) (n : Nat) (l : List α) :
    findBy k n (l.map f) = (findBy k n l).map f := by
  unfold findBy
  rw [List.find?_map]
  congr 2
  funext x
  simp [h]

/-- A slice of the list, or one that has its power-up state. -/
theorem State.getSlice_noWatch {s : State} (h : s.NoWatch) (c : BitVec 6) : (s.getSlice c).watch = [] ∧ (s.getSlice c).marks = [] := by
  unfold State.getSlice
  cases hf : findBy Slice.key c.toNat s.slices with
  | none => exact ⟨rfl, rfl⟩
  | some k => exact h.2 k (List.mem_of_find?_eq_some hf)

theorem mem_putBy {α : Type} {k : α → Nat} {x y : α} {l : List α} (h : y ∈ putBy k x l) : y = x ∨ y ∈ l := by
  induction l with
  | nil => simp [putBy] at h; exact .inl h
  | cons z zs ih =>
    simp only [putBy] at h
    split at h
    · simpa using h
    · split at h
      · rcases List.mem_cons.mp h with h | h
        · exact .inl h
        · exact .inr (List.mem_cons_of_mem _ h)
      · rcases List.mem_cons.mp h with h | h
        · exact .inr (h ▸ List.mem_cons_self ..)
        · rcases ih h with h | h
          · exact .inl h
          · exact .inr (List.mem_cons_of_mem _ h)

/-- The slice of a number has that number, or stands nowhere in the list. -/
theorem State.getSlice_id (s : State) (c : BitVec 6) : (s.getSlice c).id = c := by
  unfold State.getSlice
  cases hf : findBy Slice.key c.toNat s.slices with
  | none => rfl
  | some k =>
    have : Slice.key k = c.toNat := by simpa using List.find?_some hf
    exact BitVec.eq_of_toNat_eq this

theorem State.getSlice_putSlice (s : State) (x : Slice) (c : BitVec 6) :
    (s.putSlice x).getSlice c = if x.id = c then x else s.getSlice c := by
  unfold State.getSlice State.putSlice
  dsimp only
  rw [findBy_putBy]
  by_cases h : x.id = c
  · subst h; simp [Slice.key]
  · have : ¬ Slice.key x = c.toNat := fun e => h (BitVec.eq_of_toNat_eq e)
    simp [h, this]

/-- A slice that keeps all but its cache lines and counts is put back. -/
theorem cacheOnly_putSlice {s : State} {x : Slice} {n : BitVec 6}
    (h : x = { s.getSlice n with served := x.served, lines := x.lines, hinted := x.hinted, tlb := x.tlb, dir := x.dir }) :
    CacheOnly s (s.putSlice x) := by
  have hid : x.id = n := by rw [h]; exact s.getSlice_id n
  refine ⟨rfl, ⟨[], (List.append_nil _).symm⟩, rfl, fun _ => rfl, fun _ => rfl, fun m => ?_, id, fun w => ⟨w.1, fun k hk => ?_⟩⟩
  · rw [State.getSlice_putSlice]
    split
    next e => rw [← e, hid]; exact h
    · rfl
  · rcases mem_putBy hk with rfl | hk
    · rw [h]; exact s.getSlice_noWatch w n
    · exact w.2 k hk

theorem cacheOnly_push (s : State) (e : Ev) : CacheOnly s (s.push e) :=
  ⟨rfl, ⟨[e], rfl⟩, rfl, fun _ => rfl, fun _ => rfl, fun _ => rfl, id, id⟩

/-- A choice that a full directory made. -/
theorem cacheOnly_chose (s : State) (k : Nat) : CacheOnly s { s with freeCount := k } :=
  ⟨rfl, ⟨[], (List.append_nil _).symm⟩, rfl, fun _ => rfl, fun _ => rfl, fun _ => rfl, id, id⟩

theorem cacheOnly_served (s : State) (id : BitVec 6) : CacheOnly s (s.served id) := by
  have h := cacheOnly_putSlice (s := s) (x := { s.getSlice id with served := ((s.getSlice id).served + 1) % 64 }) (n := id) rfl
  unfold State.served
  dsimp only
  split
  · exact h.trans (cacheOnly_push _ _)
  · exact h

theorem cacheOnly_evictS (s : State) (id : BitVec 6) (l : SLine) : CacheOnly s (s.evictS id l) := by
  exact (cacheOnly_putSlice (s := s) (n := id) rfl).trans (CacheOnly.foldl _ (fun _ _ => cacheOnly_push _ _) _ _)

theorem cacheOnly_sampleS (s : State) (id : BitVec 6) (l : Nat) (n : Nud) : CacheOnly s (s.sampleS id l n) := by
  have h := cacheOnly_putSlice (s := s) (x := { s.getSlice id with hinted := ((s.getSlice id).hinted + 1) % 64 }) (n := id) rfl
  unfold State.sampleS
  dsimp only
  split
  · exact .refl s
  · split
    · exact h.trans (cacheOnly_push _ _)
    · exact h

theorem cacheOnly_sampleUsed (s : State) (id : BitVec 6) (l : Nat) (n : Nud) : CacheOnly s (s.sampleUsed id l n) := by
  unfold State.sampleUsed
  dsimp only
  split
  · exact cacheOnly_push _ _
  · exact .refl s

theorem cacheOnly_fillS (s : State) (id : BitVec 6) (l : Nat) (n : Nud) (a b c : Bool) : CacheOnly s (s.fillS id l n a b c) := by
  unfold State.fillS
  dsimp only
  split
  · exact cacheOnly_putSlice (n := id) rfl
  · split
    · exact .refl s
    · split
      · exact (cacheOnly_evictS s id _).trans (cacheOnly_putSlice (n := id) rfl)
      · exact cacheOnly_putSlice (n := id) rfl

theorem cacheOnly_serveAt (s : State) (id : BitVec 6) (l : Nat) (n : Nud) (d r : Bool) : CacheOnly s (s.serveAt id l n d r) := by
  unfold State.serveAt
  dsimp only
  split
  · exact cacheOnly_served s _
  · exact (((cacheOnly_served s _).trans (cacheOnly_sampleUsed _ _ _ _)).trans (cacheOnly_fillS _ _ _ _ _ _ _)).trans
      (cacheOnly_sampleS _ _ _ _)

theorem cacheOnly_sliceRequest (s : State) (l : Nat) (n : Nud) (d : Bool) : CacheOnly s (s.sliceRequest l n d) := cacheOnly_serveAt s _ l n d _

theorem cacheOnly_missRequest (s : State) (c : BitVec 16) (l : Nat) (n : Nud) (w d : Bool) : CacheOnly s (s.missRequest c l n w d) := by
  unfold State.missRequest
  split
  · split
    · exact cacheOnly_sliceRequest s l n d
    · exact cacheOnly_serveAt s _ l n _ _
  · exact cacheOnly_sliceRequest s l n d

theorem cacheOnly_homeBack (s : State) (l : Nat) (n : Nud) : CacheOnly s (s.homeBack l n) := by
  unfold State.homeBack
  dsimp only
  split
  · exact cacheOnly_served s _
  · exact (cacheOnly_served s _).trans (cacheOnly_fillS _ _ _ _ _ _ _)

theorem cacheOnly_backOthers (s : State) (c : Option (BitVec 16)) (l : Nat) : CacheOnly s (s.backOthers c l) := by
  unfold State.backOthers
  split
  · exact cacheOnly_homeBack s _ _
  · exact .refl s

/-! ### Cores by their ids -/

/-- A core of the list, or one that has its power-up state. -/
theorem State.getCore_noPartials {s : State} (h : s.NoPartials) (c : BitVec 16) : (s.getCore c).ulines = [] := by
  unfold State.getCore
  split
  · exact h.1
  · cases hf : findBy Core.key c.toNat s.cores with
    | none => rfl
    | some k => exact h.2 k (List.mem_of_find?_eq_some hf)

theorem State.getCore_id (s : State) (c : BitVec 16) : (s.getCore c).id = c := by
  unfold State.getCore
  split
  next h => exact h
  · cases hf : findBy Core.key c.toNat s.cores with
    | none => rfl
    | some k =>
      have : Core.key k = c.toNat := by simpa using List.find?_some hf
      exact BitVec.eq_of_toNat_eq this

theorem State.getCore_putCore (s : State) (x : Core) (c : BitVec 16) :
    (s.putCore x).getCore c = if x.id = c then x else s.getCore c := by
  unfold State.putCore State.getCore
  split
  next h =>
    dsimp only
    rw [← h]
    split
    · rfl
    · rfl
  next h =>
    dsimp only
    rw [findBy_putBy]
    by_cases hx : x.id = c
    · subst hx; simp [Core.key, h]
    · have : ¬ Core.key x = c.toNat := fun e => hx (BitVec.eq_of_toNat_eq e)
      simp [hx, this]

/-- A change of a core's caches. -/
theorem cacheOnly_onCoreId (s : State) (c : BitVec 16) (f : Core → Core)
    (h : ∀ k, f k = { k with l1d := (f k).l1d, ulines := (f k).ulines, tlb := (f k).tlb })
    (hu : ∀ k, k.ulines = [] → (f k).ulines = []) : CacheOnly s (s.onCoreId c f) := by
  have hid : (f (s.getCore c)).id = c := by rw [h]; exact s.getCore_id c
  have hg (d : BitVec 16) : (s.onCoreId c f).getCore d = if c = d then f (s.getCore c) else s.getCore d := by
    unfold State.onCoreId
    rw [State.getCore_putCore, hid]
  have hc (d : BitVec 16) : (s.onCoreId c f).getCore d = { s.getCore d with
      l1d := ((s.onCoreId c f).getCore d).l1d, ulines := ((s.onCoreId c f).getCore d).ulines, tlb := ((s.onCoreId c f).getCore d).tlb } := by
    rw [hg]
    split
    next e => rw [e]; exact h _
    · rfl
  refine ⟨?_, ⟨[], ?_⟩, ?_, hc, fun d => ?_, fun n => ?_, fun np => ?_, fun w => ?_⟩ <;> unfold State.onCoreId State.putCore
  · split <;> rfl
  · split <;> exact (List.append_nil _).symm
  · rw [hid]
    split
    next e =>
      dsimp only
      have : s.getCore c = s.core := if_pos e
      rw [this]; exact h _
    · rfl
  · split <;> rfl
  · split <;> rfl
  · split
    · exact ⟨hu _ (State.getCore_noPartials np c), np.2⟩
    · refine ⟨np.1, fun k hk => ?_⟩
      rcases mem_putBy hk with rfl | hk
      · exact hu _ (State.getCore_noPartials np c)
      · exact np.2 k hk
  · split <;> exact w

theorem cacheOnly_evictL1 (s : State) (c : BitVec 16) (l : L1Line) : CacheOnly s (s.evictL1 c l) := by
  unfold State.evictL1
  dsimp only
  have h1 := cacheOnly_onCoreId s c (fun k => { k with l1d := k.l1d.filter fun x => x.line != l.line }) (fun _ => rfl) (fun _ h => h)
  generalize s.onCoreId c _ = t at h1
  have h2 : CacheOnly s (if l.st = .m then t.homeBack l.line (s.backNud c l) else t) := .ite (h1.trans (cacheOnly_homeBack _ _ _)) h1
  generalize (if l.st = .m then t.homeBack l.line (s.backNud c l) else t) = u at h2
  exact .ite ((h2.trans (cacheOnly_served _ _)).trans (cacheOnly_fillS _ _ _ _ _ _ _)) h2

theorem cacheOnly_makeWay (s : State) (c : BitVec 16) (l : Nat) : CacheOnly s (s.makeWay c l).1 := by
  unfold State.makeWay
  dsimp only
  split
  · exact .refl s
  · split
    · exact .refl s
    · dsimp only
      split
      · exact cacheOnly_onCoreId s c _ (fun _ => rfl) (fun k h => by simp [Core.partial_, h])
      · exact cacheOnly_evictL1 s c _

/-- The caches of all cores change alike. -/
theorem cacheOnly_mapCores (s : State) (f : Core → Core)
    (h : ∀ k, f k = { k with l1d := (f k).l1d, tlb := (f k).tlb }) :
    CacheOnly s { s with core := f s.core, cores := s.cores.map f } := by
  have hid (k : Core) : (f k).id = k.id := by rw [h]
  have hul (k : Core) : (f k).ulines = k.ulines := by rw [h]
  have h' (k : Core) : f k = { k with l1d := (f k).l1d, ulines := (f k).ulines, tlb := (f k).tlb } := by rw [hul]; exact h k
  refine ⟨rfl, ⟨[], (List.append_nil _).symm⟩, ?_, fun d => ?_, fun _ => rfl, fun _ => rfl, fun np => ⟨?_, fun k hk => ?_⟩, id⟩
  · exact h' s.core
  · unfold State.getCore
    dsimp only
    rw [hid, findBy_map fun k => by simp [Core.key, hid]]
    split
    · exact h' s.core
    · cases findBy Core.key d.toNat s.cores with
      | none => rfl
      | some k => exact h' k
  · show (f s.core).ulines = []
    rw [h]; exact np.1
  · obtain ⟨x, hx, rfl⟩ := List.mem_map.mp hk
    rw [h]; exact np.2 x hx

theorem cacheOnly_shareOthers (s : State) (c : BitVec 16) (l : Nat) : CacheOnly s (s.shareOthers c l) :=
  (cacheOnly_backOthers s (some c) l).trans (cacheOnly_mapCores _
    (fun k => if k.id = c then k else { k with l1d := k.l1d.map fun x => if x.line == l then { x with st := .s } else x })
    fun k => by split <;> rfl)

/-- The replicas of a line leave their slices. -/
theorem cacheOnly_dropReplicas (s : State) (l : Nat) : CacheOnly s (s.dropReplicas l) := by
  unfold State.dropReplicas
  refine ⟨rfl, ⟨[], (List.append_nil _).symm⟩, rfl, fun _ => rfl, fun _ => rfl, fun n => ?_, id, fun w => ⟨w.1, fun k hk => ?_⟩⟩
  · unfold State.getSlice
    dsimp only
    rw [findBy_map (f := fun sl : Slice => { sl with lines := sl.lines.filter fun x => !(x.replica && x.line == l) }) fun _ => rfl]
    cases findBy Slice.key n.toNat s.slices <;> rfl
  · obtain ⟨x, hx, rfl⟩ := List.mem_map.mp hk
    exact w.2 x hx

theorem cacheOnly_dropOthers (s : State) (c : Option (BitVec 16)) (l : Nat) : CacheOnly s (s.dropOthers c l) := by
  unfold State.dropOthers
  exact ((cacheOnly_backOthers s c l).trans (cacheOnly_mapCores _
    (fun k => if c = some k.id then k else { k with l1d := k.l1d.filter fun x => x.line != l })
    fun k => by split <;> rfl)).trans (cacheOnly_dropReplicas _ _)

/-- Where no core holds a reduction copy, a line has none. -/
theorem State.NoPartials.copiesOf {s : State} (h : s.NoPartials) (l : Nat) : s.copiesOf l = [] := by
  unfold State.copiesOf
  rw [List.flatMap_eq_nil_iff]
  have key : ∀ (cs acc : List Core), (∀ k ∈ acc, k.ulines = []) → (∀ k ∈ cs, k.ulines = []) →
      ∀ k ∈ cs.foldl (fun acc c => putBy Core.key c acc) acc, k.ulines = [] := by
    intro cs
    induction cs with
    | nil => intro acc ha _; exact ha
    | cons c cs ih =>
      intro acc ha hc
      refine ih _ (fun k hk => ?_) (fun k hk => hc k (List.mem_cons_of_mem _ hk))
      rcases mem_putBy hk with rfl | hk
      · exact hc _ (List.mem_cons_self ..)
      · exact ha k hk
  intro c hc
  have : c.ulines = [] := by
    refine key s.allCores [] (by simp) (fun k hk => ?_) c hc
    rcases List.mem_cons.mp hk with rfl | hk
    · exact h.1
    · exact h.2 k (List.mem_filter.mp hk).1
  simp [this]

/-- Nothing is combined, and a home reads as memory holds it. -/
theorem State.NoPartials.combine {s : State} (h : s.NoPartials) (l : Nat) : s.combine l = s := by
  unfold State.combine
  rw [h.copiesOf]

theorem State.NoPartials.homeRead {s : State} (h : s.NoPartials) (key n : Nat) : s.homeRead key n = s.mem.read key n := by
  unfold State.homeRead
  rw [h.copiesOf]

/-- A line that enters a directory. -/
theorem cacheOnly_dirEnter {s : State} (h : s.NoPartials) (l : Nat) : CacheOnly s (s.dirEnter l) := by
  unfold State.dirEnter
  dsimp only
  split
  · exact .refl s
  · split
    · exact cacheOnly_putSlice (n := s.homeSlice l) rfl
    · unfold State.recall
      rw [State.NoPartials.combine (s := { s with freeCount := s.freeCount + 1 }) h]
      exact ((cacheOnly_chose s _).trans (cacheOnly_dropOthers _ _ _)).trans (cacheOnly_putSlice (n := s.homeSlice l) rfl)

theorem cacheOnly_l1Access {s : State} (h : s.NoPartials) (c : BitVec 16) (l : Nat) (n : Nud) (p : BitVec 2) (w : Bool) :
    CacheOnly s (s.l1Access c l n p w) := by
  unfold State.l1Access
  rw [h.combine]
  dsimp only
  split
  · refine CacheOnly.trans (t := _) ?_ (cacheOnly_onCoreId _ c _ (fun _ => rfl) (fun _ h => h))
    split
    · split
      · exact (cacheOnly_dropOthers s _ l).trans (cacheOnly_sliceRequest _ _ _ _)
      · exact cacheOnly_dropOthers s _ l
    · exact .refl s
  · have h1 : CacheOnly s (if w = true then s.dropOthers (some c) l else s.shareOthers c l) := by
      split
      · exact cacheOnly_dropOthers s _ l
      · exact cacheOnly_shareOthers s c l
    generalize (if w = true then s.dropOthers (some c) l else s.shareOthers c l) = t at h1
    split
    · exact h1.trans (cacheOnly_missRequest t _ _ _ _ _)
    · have h2 := h1.trans (cacheOnly_missRequest t c l n w false)
      have h3 := (h2.trans (cacheOnly_dirEnter (h2.noPartials h) l)).trans (cacheOnly_makeWay _ c l)
      split
      · exact h3
      · exact h3.trans (cacheOnly_onCoreId _ c _ (fun _ => rfl) (fun _ h => h))

theorem cacheOnly_homeAccess {s : State} (h : s.NoPartials) (l : Nat) (n : Nud) (w : Bool) : CacheOnly s (s.homeAccess l n w) := by
  unfold State.homeAccess
  rw [h.combine]
  dsimp only
  split
  · exact (cacheOnly_dropOthers s _ l).trans (cacheOnly_sliceRequest _ _ _ _)
  · exact (cacheOnly_shareOthers s _ l).trans (cacheOnly_sliceRequest _ _ _ _)

theorem cacheOnly_touchLines {s : State} (h : s.NoPartials) (p : Phys) (n : Nat) (o : Opt) (w : Bool) : CacheOnly s (s.touchLines p n o w) := by
  unfold State.touchLines
  generalize linesOf p.key n = ls
  induction ls generalizing s with
  | nil => exact .refl s
  | cons l ls ih =>
    have h1 := cacheOnly_l1Access h s.core.id l (s.nudOf o) o.l1p w
    exact h1.trans (ih (h1.noPartials h))

/-! ### Translation -/

theorem State.getCluster_putCluster (s : State) (x : Cluster) (c : BitVec 8) :
    (s.putCluster x).getCluster c = if x.id = c then x else s.getCluster c := by
  unfold State.getCluster State.putCluster
  dsimp only
  rw [findBy_putBy]
  by_cases h : x.id = c
  · subst h; simp [Cluster.key]
  · have : ¬ Cluster.key x = c.toNat := fun e => h (BitVec.eq_of_toNat_eq e)
    simp [h, this]

/-- The cluster of a number has that number, or stands nowhere in the list. -/
theorem State.getCluster_id (s : State) (c : BitVec 8) : (s.getCluster c).id = c := by
  unfold State.getCluster
  cases hf : findBy Cluster.key c.toNat s.clusters with
  | none => rfl
  | some k =>
    have : Cluster.key k = c.toNat := by simpa using List.find?_some hf
    exact BitVec.eq_of_toNat_eq this

/-- A change of the TLB of one cluster. -/
theorem cacheOnly_onClusterTlb (s : State) (c : BitVec 8) (f : List TlbEnt → List TlbEnt) :
    CacheOnly s (s.onCluster c fun k => { k with tlb := f k.tlb }) := by
  refine ⟨rfl, ⟨[], (List.append_nil _).symm⟩, rfl, fun _ => rfl, fun d => ?_, fun _ => rfl, id, id⟩
  unfold State.onCluster
  rw [State.getCluster_putCluster]
  split
  next h =>
    rw [State.getCluster_id] at h
    subst h; rfl
  · rfl

/-- A change of the TLB of one core, and of one slice. -/
theorem cacheOnly_onCoreTlb (s : State) (c : BitVec 16) (f : List TlbEnt → List TlbEnt) :
    CacheOnly s (s.onCoreId c fun k => { k with tlb := f k.tlb }) :=
  cacheOnly_onCoreId s c _ (fun _ => rfl) (fun _ h => h)

theorem cacheOnly_onSliceTlb (s : State) (n : BitVec 6) (f : Slice → List TlbEnt) :
    CacheOnly s (s.onSlice n fun k => { k with tlb := f k }) :=
  cacheOnly_putSlice (n := n) rfl

/-- A fill of the TLBs. -/
theorem cacheOnly_tlbFill (s : State) (c : BitVec 16) (e : TlbEnt) (va : Nat) : CacheOnly s (s.tlbFill c e va) :=
  ((cacheOnly_onCoreTlb s c _).trans (cacheOnly_onClusterTlb _ (clusterOf c) _)).trans
    (cacheOnly_onSliceTlb _ _ fun k => tlbAdd 1024 (k.bankWays e.page) e k.tlb)

/-- What a walk reads on its way. -/
theorem cacheOnly_walkReads {s : State} (h : s.NoPartials) (pid : BitVec 2) (asid : BitVec 16) (va : Word) :
    CacheOnly s (s.walkReads pid asid va) := by
  unfold State.walkReads
  dsimp only
  generalize ((s.part pid).astab + 16 * asid.toNat) / 64 :: _ = ls
  induction ls generalizing s with
  | nil => exact .refl s
  | cons l ls ih =>
    have h1 := cacheOnly_homeAccess h l (Nud.walker asid pid) false
    exact h1.trans (ih (h1.noPartials h))

/-- The page's table entry has A set, and D where the access writes, so that translation writes nothing (R222). -/
theorem State.translated_cacheOnly {s : State} {va : Word} {acc : Access} {l : Leaf} (m : Mapped s va acc l) (np : s.NoPartials)
    (h : l.marked acc = true) : CacheOnly s (s.translated va acc) := by
  rcases (translateAs_mapped m).2 with ⟨e, he⟩ | he
  · rw [he]; exact cacheOnly_tlbFill _ _ _ _
  · rw [he, State.setAD, if_pos h]
    exact (cacheOnly_walkReads np _ _ _).trans (cacheOnly_tlbFill _ _ _ _)

theorem Reaches.translated {s : State} {va : Word} {n : Nat} {acc : Access} {l : Leaf} (h : Reaches s va n acc l) :
    CacheOnly s (s.translated va acc) := State.translated_cacheOnly h.map h.noPartials h.used

end Sys2Proof.Machine
end

