-- ==== Sys2Proof/Laws/Memory.lean ====
section
/-!
SUPPORT. The operations of a memory: each keeps the canonical form, and a byte reads as what was written to it last.
-/

namespace Sys2Proof.Machine

/-! ### Rising lists -/

theorem risingFrom_le {lo lo' : Nat} (h : lo' ≤ lo) : ∀ {cs : List Host.Cell}, risingFrom lo cs = true → risingFrom lo' cs = true
  | [], _ => rfl
  | c :: cs, hr => by
    simp only [risingFrom, Bool.and_eq_true, decide_eq_true_eq] at hr ⊢
    exact ⟨Nat.le_trans h hr.1, hr.2⟩

theorem risingFrom_filter (p : Host.Cell → Bool) : ∀ {lo : Nat} {cs : List Host.Cell}, risingFrom lo cs = true → risingFrom lo (cs.filter p) = true
  | _, [], _ => rfl
  | lo, c :: cs, hr => by
    simp only [risingFrom, Bool.and_eq_true, decide_eq_true_eq] at hr
    have ih := risingFrom_filter p hr.2
    by_cases hp : p c = true
    · simp [hp, risingFrom, hr.1, ih]
    · simp only [List.filter_cons_of_neg hp]
      exact risingFrom_le (by omega) ih

theorem risingFrom_putCell {keep : Bool} {a : Nat} {b : Byte} :
    ∀ {lo : Nat} {cs : List Host.Cell}, lo ≤ a → risingFrom lo cs = true → risingFrom lo (putCell keep a b cs) = true
  | lo, [], h, _ => by cases keep <;> simp [putCell, risingFrom, h]
  | lo, c :: cs, h, hr => by
    simp only [risingFrom, Bool.and_eq_true, decide_eq_true_eq] at hr
    unfold putCell
    split
    · next hlt => cases keep <;> simp [risingFrom, h, hr.1, hr.2]; omega
    · split
      · next _ heq =>
        subst heq
        cases keep
        · exact risingFrom_le (by omega) hr.2
        · simp [risingFrom, h, hr.2]
      · next hge hne => simp only [risingFrom, Bool.and_eq_true, decide_eq_true_eq]; exact ⟨hr.1, risingFrom_putCell (by omega) hr.2⟩

theorem mem_putCell {keep : Bool} {a : Nat} {b : Byte} {x : Host.Cell} :
    ∀ {cs : List Host.Cell}, x ∈ putCell keep a b cs → x ∈ cs ∨ x = (a, b) ∧ keep = true
  | [], h => by cases keep <;> simp_all [putCell]
  | c :: cs, h => by
    unfold putCell at h
    split at h
    · cases keep <;> simp_all; tauto
    · split at h
      · cases keep <;> simp_all; tauto
      · rcases List.mem_cons.1 h with rfl | h
        · simp
        · rcases mem_putCell h with h | h
          · exact .inl (List.mem_cons_of_mem _ h)
          · exact .inr h

theorem findCell_none {a : Nat} : ∀ {lo : Nat} {cs : List Host.Cell}, a < lo → risingFrom lo cs = true → findCell a cs = none
  | _, [], _, _ => rfl
  | lo, c :: cs, h, hr => by
    simp only [risingFrom, Bool.and_eq_true, decide_eq_true_eq] at hr
    simp only [findCell]
    rw [if_neg (by omega)]
    exact findCell_none (by omega) hr.2

theorem findCell_putCell {keep : Bool} {a x : Nat} {b : Byte} :
    ∀ {lo : Nat} {cs : List Host.Cell}, risingFrom lo cs = true →
      findCell x (putCell keep a b cs) = if x = a then (if keep then some b else none) else findCell x cs
  | _, [], _ => by cases keep <;> by_cases h : a = x <;> simp [putCell, findCell, h, eq_comm]
  | lo, c :: cs, hr => by
    have hr' := hr
    simp only [risingFrom, Bool.and_eq_true, decide_eq_true_eq] at hr
    unfold putCell
    split
    · next hlt =>
      have hn : findCell a (c :: cs) = none := findCell_none (lo := a + 1) (by omega) (by simp [risingFrom, hr.2]; omega)
      cases keep
      · by_cases h : x = a
        · rw [if_pos h, h]; exact hn
        · rw [if_neg h]; rfl
      · show (if a = x then some b else findCell x (c :: cs)) = _
        by_cases h : x = a
        · rw [if_pos h.symm, if_pos h]; rfl
        · rw [if_neg (Ne.symm h), if_neg h]
    · split
      · next _ heq =>
        subst heq
        have hn : findCell c.1 cs = none := findCell_none (by omega) hr.2
        cases keep
        · by_cases h : x = c.1
          · rw [if_pos h, h]; exact hn
          · rw [if_neg h]; show findCell x cs = if c.1 = x then _ else _; rw [if_neg (Ne.symm h)]
        · show (if c.1 = x then some b else findCell x cs) = _
          by_cases h : x = c.1
          · rw [if_pos h.symm, if_pos h]; rfl
          · rw [if_neg (Ne.symm h), if_neg h]; show _ = if c.1 = x then _ else _; rw [if_neg (Ne.symm h)]
      · next hge hne =>
        simp only [findCell]
        rw [findCell_putCell hr.2]
        by_cases h : c.1 = x
        · subst h; simp; omega
        · simp [h]

/-! ### One byte -/

theorem Memory.rising {m : Memory} (h : m.wf = true) : risingFrom 0 m.cells = true := by
  simp only [Memory.wf, Bool.and_eq_true] at h; exact h.1

theorem Memory.listed {m : Memory} (h : m.wf = true) {c : Host.Cell} (hc : c ∈ m.cells) : (m.undefAt c.1).isSome = true ∨ c.2 ≠ 0 := by
  simp only [Memory.wf, Bool.and_eq_true, List.all_eq_true] at h
  simpa using h.2 c hc

theorem Memory.wf_of {m : Memory} (h : risingFrom 0 m.cells = true) (k : ∀ c ∈ m.cells, (m.undefAt c.1).isSome = true ∨ c.2 ≠ 0) : m.wf = true := by
  simp only [Memory.wf, Bool.and_eq_true, List.all_eq_true]
  exact ⟨h, fun c hc => by simpa using k c hc⟩

theorem Memory.wf_set {m : Memory} (h : m.wf = true) (a : Nat) (b : Byte) : (m.set a b).wf = true := by
  refine Memory.wf_of (risingFrom_putCell (Nat.zero_le _) (Memory.rising h)) fun c hc => ?_
  rcases mem_putCell hc with hc | ⟨rfl, hk⟩
  · exact Memory.listed h hc
  · simp only [Bool.or_eq_true] at hk
    rcases hk with hk | hk
    · exact .inr (by simpa using hk)
    · exact .inl hk

/-- A byte reads as what was written to it, and every other byte as before. -/
theorem Memory.get_set {m : Memory} (h : m.wf = true) (a x : Nat) (b : Byte) : (m.set a b).get x = if x = a then b else m.get x := by
  have hu : (m.set a b).unlisted = m.unlisted := rfl
  simp only [Memory.get, hu]
  show (match findCell x (putCell _ a b m.cells) with | some b => b | none => m.unlisted x) = _
  rw [findCell_putCell (Memory.rising h)]
  by_cases hx : x = a
  · subst hx
    rw [if_pos rfl, if_pos rfl]
    by_cases hk : (b != 0 || (m.undefAt x).isSome) = true
    · rw [if_pos hk]
    · rw [if_neg hk]
      simp only [Bool.or_eq_true, not_or, bne_iff_ne, ne_eq, Decidable.not_not, Bool.not_eq_true, Option.isSome_eq_false_iff, Option.isNone_iff_eq_none] at hk
      simp [Memory.unlisted, hk.2, hk.1]
  · simp only [if_neg hx]
    first | done | rfl

/-! ### Ranges -/

theorem Memory.wf_write {m : Memory} (h : m.wf = true) : ∀ (n a v : Nat), (m.write a n v).wf = true := by
  intro n
  induction n generalizing m with
  | zero => intro a v; exact h
  | succ n ih => intro a v; exact ih (Memory.wf_set h a _) (a + 1) (v / 256)

theorem Memory.wf_writeMasked {m : Memory} (h : m.wf = true) : ∀ (n a k v : Nat), (m.writeMasked a n k v).wf = true := by
  intro n
  induction n generalizing m with
  | zero => intro a k v; exact h
  | succ n ih =>
    intro a k v
    unfold Memory.writeMasked
    split
    · exact ih (Memory.wf_set h a _) _ _ _
    · exact ih h _ _ _

theorem Memory.wf_putWord {m : Memory} (h : m.wf = true) (a : Nat) (w : Word) : (m.putWord a w).wf = true := Memory.wf_write h 8 a _

theorem Memory.wf_putBytes {m : Memory} (h : m.wf = true) (a : Nat) (bs : List Byte) : (m.putBytes a bs).wf = true := by
  induction bs generalizing m a with
  | nil => exact h
  | cons b bs ih => exact ih (Memory.wf_set h a b) (a + 1)

theorem Memory.wf_foldl {α : Type} (f : Memory → α → Memory) (hf : ∀ m x, m.wf = true → (f m x).wf = true) (l : List α) {m : Memory} (h : m.wf = true) :
    (l.foldl f m).wf = true := by
  induction l generalizing m with
  | nil => exact h
  | cons x l ih => exact ih (hf m x h)

theorem Memory.wf_clear {m : Memory} (h : m.wf = true) (lo hi : Nat) : (m.clear lo hi).wf = true :=
  Memory.wf_of (risingFrom_filter _ (Memory.rising h)) fun _ hc => Memory.listed h (List.mem_filter.1 hc).1

theorem Memory.wf_forget {m : Memory} (h : m.wf = true) (lo hi tag : Nat) : (m.forget lo hi tag).wf = true := by
  refine Memory.wf_of (risingFrom_filter _ (Memory.rising h)) fun c hc => ?_
  obtain ⟨hm, hout⟩ := List.mem_filter.1 hc
  rcases Memory.listed h hm with hu | hb
  · left
    simp only [Memory.undefAt, Option.isSome_map, List.find?_isSome] at hu ⊢
    obtain ⟨r, hr, hin⟩ := hu
    refine ⟨r, List.mem_cons_of_mem _ (List.mem_filter.2 ⟨hr, ?_⟩), hin⟩
    simp only [Bool.not_eq_true', Bool.and_eq_false_iff, decide_eq_false_iff_not, Bool.and_eq_true, decide_eq_true_eq] at hout hin ⊢
    omega
  · exact .inr hb

/-- Bytes outside what is written read as before. -/
theorem Memory.get_write {m : Memory} (h : m.wf = true) {x : Nat} : ∀ (n a v : Nat), x < a ∨ a + n ≤ x → (m.write a n v).get x = m.get x := by
  intro n
  induction n generalizing m with
  | zero => intro a v _; rfl
  | succ n ih =>
    intro a v hx
    show ((m.set a _).write (a + 1) n (v / 256)).get x = _
    rw [ih (Memory.wf_set h a _) (a + 1) _ (by omega), Memory.get_set h, if_neg (by omega)]

/-- Only the low n bytes of a value are written. -/
theorem Memory.write_mod (m : Memory) : ∀ (n a v : Nat), m.write a n (v % 2 ^ (8 * n)) = m.write a n v := by
  intro n
  induction n generalizing m with
  | zero => intro a v; rfl
  | succ n ih =>
    intro a v
    have e : 2 ^ (8 * (n + 1)) = 256 * 2 ^ (8 * n) := by rw [Nat.mul_succ, Nat.pow_add, Nat.mul_comm]
    have b : BitVec.ofNat 8 (v % 2 ^ (8 * (n + 1))) = BitVec.ofNat 8 v := by
      apply BitVec.eq_of_toNat_eq
      simp only [BitVec.toNat_ofNat]
      rw [e]
      exact Nat.mod_mul_right_mod v 256 _
    rw [Memory.write, Memory.write, b, e, Nat.mod_mul_right_div_self, ih]

/-- A value is read back in little-endian order (R2). -/
theorem Memory.read_write {m : Memory} (h : m.wf = true) : ∀ (n a v : Nat), (m.write a n v).read a n = v % 256 ^ n := by
  intro n
  induction n generalizing m with
  | zero => intro a v; simp [Memory.read, Nat.mod_one]
  | succ n ih =>
    intro a v
    show (((m.set a _).write (a + 1) n (v / 256)).get a).toNat + 256 * ((m.set a _).write (a + 1) n (v / 256)).read (a + 1) n = _
    rw [ih (Memory.wf_set h a _), Memory.get_write (Memory.wf_set h a _) n _ _ (by omega), Memory.get_set h, if_pos rfl]
    rw [Nat.pow_succ, Nat.mul_comm (256 ^ n), Nat.mod_mul, BitVec.toNat_ofNat]

/-- The memory of reset is in its canonical form. -/
theorem State.reset_memWf : State.reset.memWf := ⟨by decide, by decide, by decide, by decide⟩

end Sys2Proof.Machine
end

