-- ==== Sys2Proof/Laws/Access.lean ====
section
/-!
SUPPORT. What a read and a write of memory do in a calm task, for the global space and for the local spaces.
-/

namespace Sys2Proof.Machine

/-! ### What an access leaves behind changes no later check -/

theorem CacheOnly.windowBad {s t : State} (h : CacheOnly s t) (p : Phys) : t.windowBad p = s.windowBad p := by rw [h.rest]; rfl
theorem CacheOnly.good {s t : State} (h : CacheOnly s t) {p : Phys} {n : Nat} (g : Good s p n) : Good t p n := by
  rw [h.rest]; exact ⟨g.home, g.lines⟩

/-- A calm task has staged nothing: it sees the bytes of memory. -/
theorem State.Calm.seeBytes {s : State} (h : s.Calm) (key n : Nat) : s.seeBytes key n = s.mem.read key n := by
  induction n generalizing key with
  | zero => rfl
  | succ n ih => simp [State.seeBytes, Memory.read, ih, State.seeByte, Task.stagedByte, Task.stagedLine, h.staged]

/-- An access that stays in its page has one part (R229). -/
theorem pageParts_one {va : Word} {n : Nat} (h : va.toNat % 65536 + n ≤ 65536) : pageParts va n = [(va, n)] := by
  unfold pageParts
  exact if_pos (by omega)

theorem translateParts_one {s : State} {va : Word} {n : Nat} {acc : Access} {l : Leaf} (h : Mapped s va acc l)
    (hp : va.toNat % 65536 + n ≤ 65536) (src : Nat) :
    translateParts va n acc src s = .ok [{ va := va, len := n, at_ := l.place }] (s.translated va acc) := by
  unfold translateParts
  rw [pageParts_one hp]
  simp only [List.mapM_cons, List.mapM_nil, run_bind, run_pure, translate_mapped h src]

/-- Where nothing waits, a write wakes nothing. -/
theorem State.NoWatch.wrote {s : State} (h : s.NoWatch) (key n : Nat) : s.wrote key n = s := by
  unfold State.wrote
  generalize dwords key n = ks
  induction ks with
  | nil => rfl
  | cons k ks ih =>
    have h1 : s.evalWatch k = s := by
      have hs := s.getSlice_noWatch h (s.homeSlice (k / 64))
      unfold State.evalWatch
      simp [hs.1, hs.2]
    have h2 : s.wakeLock k = s := by
      unfold State.wakeLock
      simp [h.1]
    rw [List.foldl_cons, h1, h2]
    exact ih

/-! ### The global space -/

/-- A part at a place in this device does not leave it. -/
theorem Reaches.stays {s : State} {va : Word} {n : Nat} {acc : Access} {l : Leaf} (h : Reaches s va n acc l) (v : Word) (m : Nat) :
    ({ va := v, len := m, at_ := l.place } : Part).away = false := by
  unfold Part.away
  rw [beq_eq_false_iff_ne.mpr h.here.1, beq_eq_false_iff_ne.mpr h.here.2]
  rfl

/-- An access that a calm task may make is ready at once (R229). -/
theorem readyParts_reaches {s : State} {va : Word} {n : Nat} {acc : Access} {l : Leaf} (h : Reaches s va n acc l) {write : Bool}
    (ha : acc = if write then .write else .read) (o : Opt) :
    readyParts va n write o s = .ok [{ va := va, len := n, at_ := l.place }] (s.translated va acc) := by
  subst ha
  have c := h.translated
  unfold readyParts openParts
  simp only [run_bind, translateParts_one h.map h.page]
  simp only [List.mapM_cons, List.mapM_nil, run_bind, run_pure]
  unfold readyPart
  rw [if_neg h.here.1, if_neg h.here.2]
  simp only [run_bind, run_get, c.windowBad, h.window, Bool.false_eq_true, if_false, run_pure]
  unfold enterParts
  simp only [run_bind, (c.calm h.calm).detMany, List.any_cons, List.any_nil, h.stays, Bool.or_false, Bool.and_false, Bool.false_eq_true, if_false,
    run_pure]

/-- Lines that hold no error, some of them. -/
theorem State.badIn_filter {s : State} {ls : List Nat} (h : s.badIn ls = none) (f : Nat → Bool) : s.badIn (ls.filter f) = none := by
  unfold State.badIn at *
  split at h
  · cases h
  next hn =>
    have : (ls.filter f).find? (fun l => s.poison.contains l || s.latent.contains l) = none := by
      rw [List.find?_eq_none] at *
      exact fun x hx => hn x (List.mem_filter.mp hx).1
    rw [this]

theorem State.badIn_open {s : State} {key n : Nat} (h : s.badLine key n = none) : s.badIn (s.openLines key n) = none :=
  State.badIn_filter h _

/-- A read of good bytes answers them. -/
theorem readV_reaches {s : State} {va : Word} {n : Nat} {l : Leaf} (h : Reaches s va n .read l) (g : Good s l.place n)
    (o : Opt) (u p : Cause) : ∃ t, CacheOnly s t ∧ readV va n o u p s = .ok (s.mem.read l.place.key n) t := by
  have c1 := h.translated
  have k1 := c1.calm h.calm
  have c2 := c1.trans (cacheOnly_touchLines (c1.noPartials h.noPartials) l.place n o false)
  have k2 := c2.calm h.calm
  refine ⟨_, c2, ?_⟩
  unfold readV
  simp only [run_bind, readyParts_reaches h (write := false) rfl]
  unfold readParts
  dsimp only
  unfold readPart
  have g1 := c1.good g
  simp only [h.stays, Bool.false_eq_true, if_false, run_bind, run_get]
  split <;> simp only [run_bind, checkLines_good g1.home (State.badIn_open g1.lines), run_pure, run_upd, run_get, k2.seeBytes,
    k2.mixShade, k2.mixColl, c2.mem]

/-- The lines that n bytes cover whole are among those that they touch. -/
theorem whole_lines (key n x : Nat) :
    ((linesOf key n).filter fun l => key ≤ l * 64 && l * 64 + 64 ≤ key + n).contains x = decide (key ≤ x * 64 ∧ x * 64 + 64 ≤ key + n) := by
  rw [Bool.eq_iff_iff]
  simp only [List.contains_iff_mem, List.mem_filter, linesOf, List.mem_map, List.mem_range, Bool.and_eq_true, decide_eq_true_eq]
  refine ⟨fun h => h.2, fun h => ⟨⟨x - key / 64, ?_, ?_⟩, h⟩⟩ <;> omega

/-- A plain store at the home, where nothing waits for it and no collective names its bytes. -/
theorem State.storeHome_quiet {s : State} {p : Phys} {n : Nat} {o : Opt} (w : (s.touchLines p n o true).NoWatch)
    (k : (s.touchLines p n o true).Calm) (v : Nat) (va : Word) :
    ((s.storeHome p n v o).spoil va p n).noteStore p.key n ((s.touchLines p n o true).mem.read p.key n) = (s.touchLines p n o true).stored p n v := by
  unfold State.storeHome State.stored
  dsimp only
  simp only [whole_lines]
  generalize s.touchLines p n o true = t at w k
  have e := State.NoWatch.wrote (s := t.put p n v) w p.key n
  unfold State.put at *
  dsimp only at *
  rw [e, State.spoil]
  simp [k.colls]

/-- A write puts the bytes in memory. -/
theorem writeV_reaches {s : State} {va : Word} {n : Nat} {l : Leaf} (h : Reaches s va n .write l) (w : s.NoWatch) (v : Nat) (o : Opt) (stage : Bool) :
    ∃ t, CacheOnly s t ∧ writeV va n v o stage s = .ok () (t.stored l.place n v) := by
  have c1 := h.translated
  have k1 := c1.calm h.calm
  have c2 := c1.trans (cacheOnly_touchLines (c1.noPartials h.noPartials) l.place n o true)
  refine ⟨_, c2, ?_⟩
  unfold writeV
  simp only [run_bind, readyParts_reaches h (write := true) rfl]
  unfold storeParts
  simp only [run_bind, run_get, k1.replayable, Bool.and_false, Bool.false_and, Bool.false_eq_true, if_false]
  simp only [List.flatMap_cons, List.flatMap_nil, List.append_nil, cutValue, List.map_cons, List.map_nil, List.filter_cons, List.filter_nil,
    h.stays, Bool.not_false, Bool.false_eq_true, if_false, if_true, List.nil_append, List.forIn_cons, List.forIn_nil]
  have e : writePart o (v % 2 ^ (8 * n)) { va := va, len := n, at_ := l.place } (s.translated va .write) =
      .ok () (((s.translated va .write).touchLines l.place n o true).stored l.place n v) := by
    unfold writePart
    rw [if_neg h.here.1, if_neg h.here.2]
    simp only [run_bind, run_get, run_upd, k1.unshade]
    rw [show (s.translated va .write).mem = ((s.translated va .write).touchLines l.place n o true).mem from
      (cacheOnly_touchLines (c1.noPartials h.noPartials) l.place n o true).mem.symm, State.storeHome_quiet (c2.noWatch w) (c2.calm h.calm)]
    unfold State.stored State.put
    rw [Memory.write_mod]
  split <;> simp only [run_bind, run_upd, k1.loseReplay, e, run_pure]

/-! ### The local spaces -/

/-- The checks of a local access pass. -/
theorem checkSpace_local {s : State} {space : BitVec 2} {ea : Word} {n align : Nat} (h : Local s space ea n align) :
    checkSpace space ea n align s = .ok () s := by
  have hb := h.bound
  have ha := h.aligned
  unfold checkSpace
  dsimp only
  rw [if_neg (Nat.not_lt.mpr hb), if_neg (not_not.mpr ha)]
  split
  next h2 =>
    unfold checkReach
    simp only [run_bind, run_get]
    rw [show List.findSome? _ _ = none from List.findSome?_eq_none_iff.mpr fun f hf => ?_]
    · rfl
    · have hp := h.some
      obtain ⟨i, hi, rfl⟩ := List.mem_map.mp hf
      have hi := List.mem_range.mp hi
      obtain ⟨t, ht, hf, hs⟩ := h.reach h2 (ea.toNat / 4096 + i) (by omega) (by omega)
      simp [ht, hf, hs]
  · rfl

theorem localGood_find {s : State} {space : BitVec 2} {ea : Word} {n : Nat} (g : s.localGood space ea n) :
    ((localLines (localStore space) (s.localKey space ea) n).find? fun l => s.localPoison.contains l || s.localLatent.contains l) = none := by
  rw [List.find?_eq_none]
  intro x hx
  have := g x hx
  simp [this.1, this.2]

/-- A read of good bytes of a local space. -/
theorem loadAny_local {s : State} {space : BitVec 2} {ea : Word} {n align : Nat} (h : Local s space ea n align) (g : s.localGood space ea n)
    (o : Opt) : loadAny space ea n align o s = .ok ((s.localMem space).read (s.localKey space ea) n) s := by
  unfold loadAny readLocal
  rw [if_neg h.notGlobal]
  simp only [run_bind, checkSpace_local h, run_get, localGood_find g, h.calm.mixShade]

/-- A write of good bytes of a local space. -/
theorem storeAny_local {s : State} {space : BitVec 2} {ea : Word} {n align : Nat} (h : Local s space ea n align) (g : s.localGood space ea n)
    (v : Nat) (o : Opt) : storeAny space ea n align v o s = .ok () (s.localStored space ea n v) := by
  unfold storeAny
  rw [if_neg h.notGlobal]
  simp only [run_bind, checkSpace_local h, run_upd, h.calm.unshade]
  congr 1
  have keep (ls : List Nat) (hl : ∀ a ∈ localLines (localStore space) (s.localKey space ea) n, a ∉ ls) :
      (ls.filter fun l => !(l / 2 ^ 40 == localStore space &&
        ((linesOf (s.localKey space ea) n).filter fun l => s.localKey space ea ≤ l * 64 && l * 64 + 64 ≤ s.localKey space ea + n).contains
          (l % 2 ^ 40))) = ls := by
    rw [List.filter_eq_self]
    intro a ha
    by_cases h1 : a / 2 ^ 40 = localStore space
    · have : (a % 2 ^ 40) ∉ linesOf (s.localKey space ea) n := fun hm => by
        refine hl a (List.mem_map.mpr ⟨_, hm, ?_⟩) ha
        rw [← h1]
        exact Nat.div_add_mod a (2 ^ 40)
      rw [Bool.not_eq_true', Bool.and_eq_false_iff]
      exact .inr (Bool.eq_false_iff.mpr fun hc => this (List.mem_filter.mp (List.contains_iff_mem.mp hc)).1)
    · simp only [beq_eq_false_iff_ne.mpr h1, Bool.false_and, Bool.not_false]
  unfold State.writeLocal State.localStored State.localPut
  dsimp only
  rw [keep _ fun a ha => (g a ha).1, keep _ fun a ha => (g a ha).2]

end Sys2Proof.Machine
end

