-- ==== Sys2Proof/Laws/PerInstr.lean ====
section
/-!
SUPPORT. One statement for every constructor of `Instr`: an instruction has a word whose reserved bits are zero and whose guard and
lookahead are those of its header (R88), or, as a command or an event, it has no word.
-/

namespace Sys2Proof.Laws.wf_encodes

/-- The word of an instruction holds its header where R88 puts it, whatever the header is; commands and events have no word. -/
def Statement (i : Instr) : Prop :=
  (∃ (maj min : Nat) (h : Hint) (d a b : Byte) (x : BitVec 40), ∀ hd : Header, encode hd i = some (wordOf maj min hd h d a b x)) ∨
    ∀ hd : Header, encode hd i = none

theorem ill : Statement (.ill) := .inl ⟨_, _, _, _, _, _, _, fun _ => rfl⟩
theorem nop : Statement (.nop) := .inl ⟨_, _, _, _, _, _, _, fun _ => rfl⟩
theorem follow (d : QReg) : Statement (.follow d) := .inl ⟨_, _, _, _, _, _, _, fun _ => rfl⟩
theorem leave : Statement (.leave) := .inl ⟨_, _, _, _, _, _, _, fun _ => rfl⟩
theorem yield : Statement (.yield) := .inl ⟨_, _, _, _, _, _, _, fun _ => rfl⟩
theorem brk (imm : BitVec 40) : Statement (.brk imm) := .inl ⟨_, _, _, _, _, _, _, fun _ => rfl⟩
theorem trap (n : BitVec 3) (a : GK) : Statement (.trap n a) := .inl ⟨_, _, _, _, _, _, _, fun _ => rfl⟩
theorem sysr (d : GReg) (idx : BitVec 12) : Statement (.sysr d idx) := .inl ⟨_, _, _, _, _, _, _, fun _ => rfl⟩
theorem sysrX (d : GReg) (a : GK) (idx : BitVec 12) : Statement (.sysrX d a idx) := .inl ⟨_, _, _, _, _, _, _, fun _ => rfl⟩
theorem sysw (idx : BitVec 12) (a : GK) : Statement (.sysw idx a) := .inl ⟨_, _, _, _, _, _, _, fun _ => rfl⟩
theorem syswClasstab (a : GK) : Statement (.syswClasstab a) := .inl ⟨_, _, _, _, _, _, _, fun _ => rfl⟩
theorem syswLotseed (a : GK) : Statement (.syswLotseed a) := .inl ⟨_, _, _, _, _, _, _, fun _ => rfl⟩
theorem syswTenscale (a : GK) : Statement (.syswTenscale a) := .inl ⟨_, _, _, _, _, _, _, fun _ => rfl⟩
theorem ifence : Statement (.ifence) := .inl ⟨_, _, _, _, _, _, _, fun _ => rfl⟩
theorem getmc (d : GReg) : Statement (.getmc d) := .inl ⟨_, _, _, _, _, _, _, fun _ => rfl⟩
theorem eret : Statement (.eret) := .inl ⟨_, _, _, _, _, _, _, fun _ => rfl⟩
theorem setnud (code : BitVec 6) : Statement (.setnud code) := .inl ⟨_, _, _, _, _, _, _, fun _ => rfl⟩
theorem add (d : GReg) (a : GK) (b : GK) : Statement (.add d a b) := .inl ⟨_, _, _, _, _, _, _, fun _ => rfl⟩
theorem sub (d : GReg) (a : GK) (b : GK) : Statement (.sub d a b) := .inl ⟨_, _, _, _, _, _, _, fun _ => rfl⟩
theorem mul (d : GReg) (a : GK) (b : GK) : Statement (.mul d a b) := .inl ⟨_, _, _, _, _, _, _, fun _ => rfl⟩
theorem mulh (d : GReg) (a : GK) (b : GK) : Statement (.mulh d a b) := .inl ⟨_, _, _, _, _, _, _, fun _ => rfl⟩
theorem mulhn (d : GReg) (a : GK) (b : GK) : Statement (.mulhn d a b) := .inl ⟨_, _, _, _, _, _, _, fun _ => rfl⟩
theorem div (d : GReg) (a : GK) (b : GK) : Statement (.div d a b) := .inl ⟨_, _, _, _, _, _, _, fun _ => rfl⟩
theorem divn (d : GReg) (a : GK) (b : GK) : Statement (.divn d a b) := .inl ⟨_, _, _, _, _, _, _, fun _ => rfl⟩
theorem rem (d : GReg) (a : GK) (b : GK) : Statement (.rem d a b) := .inl ⟨_, _, _, _, _, _, _, fun _ => rfl⟩
theorem remn (d : GReg) (a : GK) (b : GK) : Statement (.remn d a b) := .inl ⟨_, _, _, _, _, _, _, fun _ => rfl⟩
theorem and (d : GReg) (a : GK) (b : GK) : Statement (.and d a b) := .inl ⟨_, _, _, _, _, _, _, fun _ => rfl⟩
theorem or (d : GReg) (a : GK) (b : GK) : Statement (.or d a b) := .inl ⟨_, _, _, _, _, _, _, fun _ => rfl⟩
theorem xor (d : GReg) (a : GK) (b : GK) : Statement (.xor d a b) := .inl ⟨_, _, _, _, _, _, _, fun _ => rfl⟩
theorem andn (d : GReg) (a : GK) (b : GK) : Statement (.andn d a b) := .inl ⟨_, _, _, _, _, _, _, fun _ => rfl⟩
theorem shl (d : GReg) (a : GK) (b : GK) : Statement (.shl d a b) := .inl ⟨_, _, _, _, _, _, _, fun _ => rfl⟩
theorem shr (d : GReg) (a : GK) (b : GK) : Statement (.shr d a b) := .inl ⟨_, _, _, _, _, _, _, fun _ => rfl⟩
theorem sha (d : GReg) (a : GK) (b : GK) : Statement (.sha d a b) := .inl ⟨_, _, _, _, _, _, _, fun _ => rfl⟩
theorem addi (d : GReg) (a : GK) (imm : BitVec 40) : Statement (.addi d a imm) := .inl ⟨_, _, _, _, _, _, _, fun _ => rfl⟩
theorem muli (d : GReg) (a : GK) (imm : BitVec 40) : Statement (.muli d a imm) := .inl ⟨_, _, _, _, _, _, _, fun _ => rfl⟩
theorem andi (d : GReg) (a : GK) (imm : BitVec 40) : Statement (.andi d a imm) := .inl ⟨_, _, _, _, _, _, _, fun _ => rfl⟩
theorem ori (d : GReg) (a : GK) (imm : BitVec 40) : Statement (.ori d a imm) := .inl ⟨_, _, _, _, _, _, _, fun _ => rfl⟩
theorem xori (d : GReg) (a : GK) (imm : BitVec 40) : Statement (.xori d a imm) := .inl ⟨_, _, _, _, _, _, _, fun _ => rfl⟩
theorem shli (d : GReg) (a : GK) (sh : BitVec 6) : Statement (.shli d a sh) := .inl ⟨_, _, _, _, _, _, _, fun _ => rfl⟩
theorem shri (d : GReg) (a : GK) (sh : BitVec 6) : Statement (.shri d a sh) := .inl ⟨_, _, _, _, _, _, _, fun _ => rfl⟩
theorem shai (d : GReg) (a : GK) (sh : BitVec 6) : Statement (.shai d a sh) := .inl ⟨_, _, _, _, _, _, _, fun _ => rfl⟩
theorem ldi (d : GReg) (imm : BitVec 40) : Statement (.ldi d imm) := .inl ⟨_, _, _, _, _, _, _, fun _ => rfl⟩
theorem ldhi (d : GReg) (a : GK) (imm : BitVec 40) : Statement (.ldhi d a imm) := .inl ⟨_, _, _, _, _, _, _, fun _ => rfl⟩
theorem cmpi (d : QReg) (a : GK) (imm : BitVec 36) (cc : BitVec 4) : Statement (.cmpi d a imm cc) := .inl ⟨_, _, _, _, _, _, _, fun _ => rfl⟩
theorem cmp (d : QReg) (a : GK) (b : GK) (cc : BitVec 4) : Statement (.cmp d a b cc) := .inl ⟨_, _, _, _, _, _, _, fun _ => rfl⟩
theorem sel (d : GReg) (a : GK) (b : GK) : Statement (.sel d a b) := .inl ⟨_, _, _, _, _, _, _, fun _ => rfl⟩
theorem min (d : GReg) (a : GK) (b : GK) : Statement (.min d a b) := .inl ⟨_, _, _, _, _, _, _, fun _ => rfl⟩
theorem max (d : GReg) (a : GK) (b : GK) : Statement (.max d a b) := .inl ⟨_, _, _, _, _, _, _, fun _ => rfl⟩
theorem minn (d : GReg) (a : GK) (b : GK) : Statement (.minn d a b) := .inl ⟨_, _, _, _, _, _, _, fun _ => rfl⟩
theorem maxn (d : GReg) (a : GK) (b : GK) : Statement (.maxn d a b) := .inl ⟨_, _, _, _, _, _, _, fun _ => rfl⟩
theorem clz (d : GReg) (a : GReg) : Statement (.clz d a) := .inl ⟨_, _, _, _, _, _, _, fun _ => rfl⟩
theorem ctz (d : GReg) (a : GReg) : Statement (.ctz d a) := .inl ⟨_, _, _, _, _, _, _, fun _ => rfl⟩
theorem popc (d : GReg) (a : GReg) : Statement (.popc d a) := .inl ⟨_, _, _, _, _, _, _, fun _ => rfl⟩
theorem bext (d : GReg) (a : GReg) (pos : BitVec 6) (len : BitVec 6) (sgn : Bool) : Statement (.bext d a pos len sgn) := .inl ⟨_, _, _, _, _, _, _, fun _ => rfl⟩
theorem bins (d : GReg) (a : GK) (pos : BitVec 6) (len : BitVec 6) : Statement (.bins d a pos len) := .inl ⟨_, _, _, _, _, _, _, fun _ => rfl⟩
theorem abs (d : GReg) (a : GReg) : Statement (.abs d a) := .inl ⟨_, _, _, _, _, _, _, fun _ => rfl⟩
theorem sext (d : GReg) (a : GReg) (n : BitVec 6) : Statement (.sext d a n) := .inl ⟨_, _, _, _, _, _, _, fun _ => rfl⟩
theorem zext (d : GReg) (a : GReg) (n : BitVec 6) : Statement (.zext d a n) := .inl ⟨_, _, _, _, _, _, _, fun _ => rfl⟩
theorem lea (d : GReg) (a : GK) (b : GK) (x : MX) : Statement (.lea d a b x) := .inl ⟨_, _, _, _, _, _, _, fun _ => rfl⟩
theorem lea2 (d : GReg) (a : GK) (b : GK) (x : MX) : Statement (.lea2 d a b x) := .inl ⟨_, _, _, _, _, _, _, fun _ => rfl⟩
theorem getid (d : GReg) (sel : BitVec 3) : Statement (.getid d sel) := .inl ⟨_, _, _, _, _, _, _, fun _ => rfl⟩
theorem pand (d : QReg) (a : QReg) (b : QReg) : Statement (.pand d a b) := .inl ⟨_, _, _, _, _, _, _, fun _ => rfl⟩
theorem por (d : QReg) (a : QReg) (b : QReg) : Statement (.por d a b) := .inl ⟨_, _, _, _, _, _, _, fun _ => rfl⟩
theorem pxor (d : QReg) (a : QReg) (b : QReg) : Statement (.pxor d a b) := .inl ⟨_, _, _, _, _, _, _, fun _ => rfl⟩
theorem pnot (d : QReg) (a : QReg) : Statement (.pnot d a) := .inl ⟨_, _, _, _, _, _, _, fun _ => rfl⟩
theorem pmov (d : QReg) (a : QReg) : Statement (.pmov d a) := .inl ⟨_, _, _, _, _, _, _, fun _ => rfl⟩
theorem qmov (m : QMov) : Statement (.qmov m) := by cases m <;> exact .inl ⟨_, _, _, _, _, _, _, fun _ => rfl⟩
theorem pany (d : QReg) (a : QReg) (b : QReg) : Statement (.pany d a b) := .inl ⟨_, _, _, _, _, _, _, fun _ => rfl⟩
theorem pall (d : QReg) (a : QReg) (b : QReg) : Statement (.pall d a b) := .inl ⟨_, _, _, _, _, _, _, fun _ => rfl⟩
theorem pset (d : QReg) (a : GK) (imm : BitVec 40) : Statement (.pset d a imm) := .inl ⟨_, _, _, _, _, _, _, fun _ => rfl⟩
theorem bra (disp : BitVec 40) : Statement (.bra disp) := .inl ⟨_, _, _, _, _, _, _, fun _ => rfl⟩
theorem jmp (a : GReg) : Statement (.jmp a) := .inl ⟨_, _, _, _, _, _, _, fun _ => rfl⟩
theorem call (d : GReg) (disp : BitVec 40) : Statement (.call d disp) := .inl ⟨_, _, _, _, _, _, _, fun _ => rfl⟩
theorem callr (d : GReg) (a : GReg) : Statement (.callr d a) := .inl ⟨_, _, _, _, _, _, _, fun _ => rfl⟩
theorem ret (a : GReg) : Statement (.ret a) := .inl ⟨_, _, _, _, _, _, _, fun _ => rfl⟩
theorem loop (d : GReg) (disp : BitVec 40) : Statement (.loop d disp) := .inl ⟨_, _, _, _, _, _, _, fun _ => rfl⟩
theorem exit (a : GK) : Statement (.exit a) := .inl ⟨_, _, _, _, _, _, _, fun _ => rfl⟩
theorem spawn (d : GReg) (a : GReg) (b : GReg) : Statement (.spawn d a b) := .inl ⟨_, _, _, _, _, _, _, fun _ => rfl⟩
theorem spawnr (d : GReg) (a : GReg) (b : GReg) : Statement (.spawnr d a b) := .inl ⟨_, _, _, _, _, _, _, fun _ => rfl⟩
theorem join (d : GReg) (a : GReg) (e : Option QReg) : Statement (.join d a e) := .inl ⟨_, _, _, _, _, _, _, fun _ => rfl⟩
theorem touch (d : GReg) (a : GReg) (e : Option QReg) : Statement (.touch d a e) := .inl ⟨_, _, _, _, _, _, _, fun _ => rfl⟩
theorem touchq (d : GReg) (a : GReg) (e : QReg) : Statement (.touchq d a e) := .inl ⟨_, _, _, _, _, _, _, fun _ => rfl⟩
theorem resolve (a : GReg) (b : GK) : Statement (.resolve a b) := .inl ⟨_, _, _, _, _, _, _, fun _ => rfl⟩
theorem poison (a : GReg) (b : GK) : Statement (.poison a b) := .inl ⟨_, _, _, _, _, _, _, fun _ => rfl⟩
theorem cancel (a : GReg) : Statement (.cancel a) := .inl ⟨_, _, _, _, _, _, _, fun _ => rfl⟩
theorem fstat (d : GReg) (a : GReg) : Statement (.fstat d a) := .inl ⟨_, _, _, _, _, _, _, fun _ => rfl⟩
theorem fdup (a : GReg) : Statement (.fdup a) := .inl ⟨_, _, _, _, _, _, _, fun _ => rfl⟩
theorem fdrop (a : GReg) : Statement (.fdrop a) := .inl ⟨_, _, _, _, _, _, _, fun _ => rfl⟩
theorem self (d : GReg) : Statement (.self d) := .inl ⟨_, _, _, _, _, _, _, fun _ => rfl⟩
theorem selfDup (d : GReg) : Statement (.selfDup d) := .inl ⟨_, _, _, _, _, _, _, fun _ => rfl⟩
theorem ctradd (a : GReg) (b : GK) (x : MX) : Statement (.ctradd a b x) := .inl ⟨_, _, _, _, _, _, _, fun _ => rfl⟩
theorem ctrwait (d : GReg) (a : GReg) (b : GK) (x : MX) : Statement (.ctrwait d a b x) := .inl ⟨_, _, _, _, _, _, _, fun _ => rfl⟩
theorem ctrread (d : GReg) (a : GReg) (x : MX) : Statement (.ctrread d a x) := .inl ⟨_, _, _, _, _, _, _, fun _ => rfl⟩
theorem ctrarm (d : GReg) (a : GReg) (b : GK) (x : MX) : Statement (.ctrarm d a b x) := .inl ⟨_, _, _, _, _, _, _, fun _ => rfl⟩
theorem ctrdisarm (d : GReg) (a : GReg) (x : MX) : Statement (.ctrdisarm d a x) := .inl ⟨_, _, _, _, _, _, _, fun _ => rfl⟩
theorem ctrwaitq (d : QReg) (a : GReg) (b : GK) (x : MX) : Statement (.ctrwaitq d a b x) := .inl ⟨_, _, _, _, _, _, _, fun _ => rfl⟩
theorem aadd (d : GReg) (a : GReg) (b : GK) (x : MX) : Statement (.aadd d a b x) := .inl ⟨_, _, _, _, _, _, _, fun _ => rfl⟩
theorem amin (d : GReg) (a : GReg) (b : GK) (x : MX) : Statement (.amin d a b x) := .inl ⟨_, _, _, _, _, _, _, fun _ => rfl⟩
theorem amax (d : GReg) (a : GReg) (b : GK) (x : MX) : Statement (.amax d a b x) := .inl ⟨_, _, _, _, _, _, _, fun _ => rfl⟩
theorem aminn (d : GReg) (a : GReg) (b : GK) (x : MX) : Statement (.aminn d a b x) := .inl ⟨_, _, _, _, _, _, _, fun _ => rfl⟩
theorem amaxn (d : GReg) (a : GReg) (b : GK) (x : MX) : Statement (.amaxn d a b x) := .inl ⟨_, _, _, _, _, _, _, fun _ => rfl⟩
theorem aand (d : GReg) (a : GReg) (b : GK) (x : MX) : Statement (.aand d a b x) := .inl ⟨_, _, _, _, _, _, _, fun _ => rfl⟩
theorem aor (d : GReg) (a : GReg) (b : GK) (x : MX) : Statement (.aor d a b x) := .inl ⟨_, _, _, _, _, _, _, fun _ => rfl⟩
theorem axor (d : GReg) (a : GReg) (b : GK) (x : MX) : Statement (.axor d a b x) := .inl ⟨_, _, _, _, _, _, _, fun _ => rfl⟩
theorem aswp (d : GReg) (a : GReg) (b : GK) (x : MX) : Statement (.aswp d a b x) := .inl ⟨_, _, _, _, _, _, _, fun _ => rfl⟩
theorem acas (d : GReg) (a : GReg) (b : GK) (x : MX) : Statement (.acas d a b x) := .inl ⟨_, _, _, _, _, _, _, fun _ => rfl⟩
theorem afadd (d : GReg) (a : GReg) (b : GK) (x : MX) : Statement (.afadd d a b x) := .inl ⟨_, _, _, _, _, _, _, fun _ => rfl⟩
theorem afmin (d : GReg) (a : GReg) (b : GK) (x : MX) : Statement (.afmin d a b x) := .inl ⟨_, _, _, _, _, _, _, fun _ => rfl⟩
theorem afmax (d : GReg) (a : GReg) (b : GK) (x : MX) : Statement (.afmax d a b x) := .inl ⟨_, _, _, _, _, _, _, fun _ => rfl⟩
theorem rdadd (a : GReg) (b : GK) (x : MX) : Statement (.rdadd a b x) := .inl ⟨_, _, _, _, _, _, _, fun _ => rfl⟩
theorem rdmin (a : GReg) (b : GK) (x : MX) : Statement (.rdmin a b x) := .inl ⟨_, _, _, _, _, _, _, fun _ => rfl⟩
theorem rdmax (a : GReg) (b : GK) (x : MX) : Statement (.rdmax a b x) := .inl ⟨_, _, _, _, _, _, _, fun _ => rfl⟩
theorem rdor (a : GReg) (b : GK) (x : MX) : Statement (.rdor a b x) := .inl ⟨_, _, _, _, _, _, _, fun _ => rfl⟩
theorem rdfadd (a : GReg) (b : GK) (x : MX) : Statement (.rdfadd a b x) := .inl ⟨_, _, _, _, _, _, _, fun _ => rfl⟩
theorem rdflush (a : GReg) (x : MX) : Statement (.rdflush a x) := .inl ⟨_, _, _, _, _, _, _, fun _ => rfl⟩
theorem fence (kind : BitVec 6) (scope : BitVec 6) : Statement (.fence kind scope) := .inl ⟨_, _, _, _, _, _, _, fun _ => rfl⟩
theorem qput (d : QReg) (a : GReg) (b : VG) (x : MX) : Statement (.qput d a b x) := .inl ⟨_, _, _, _, _, _, _, fun _ => rfl⟩
theorem qget (d : QReg) (a : GReg) (b : VG) (x : MX) : Statement (.qget d a b x) := .inl ⟨_, _, _, _, _, _, _, fun _ => rfl⟩
theorem msend (d : GReg) (a : GReg) (b : GReg) (cls : BitVec 4) (n : BitVec 4) : Statement (.msend d a b cls n) := .inl ⟨_, _, _, _, _, _, _, fun _ => rfl⟩
theorem msendv (d : GReg) (a : GReg) (b : VReg) (cls : BitVec 4) (n : BitVec 4) : Statement (.msendv d a b cls n) := .inl ⟨_, _, _, _, _, _, _, fun _ => rfl⟩
theorem mmask (m : BitVec 16) : Statement (.mmask m) := .inl ⟨_, _, _, _, _, _, _, fun _ => rfl⟩
theorem munmask (m : BitVec 16) : Statement (.munmask m) := .inl ⟨_, _, _, _, _, _, _, fun _ => rfl⟩
theorem marg (d : VG) (b : GK) : Statement (.marg d b) := .inl ⟨_, _, _, _, _, _, _, fun _ => rfl⟩
theorem mid (d : GReg) : Statement (.mid d) := .inl ⟨_, _, _, _, _, _, _, fun _ => rfl⟩
theorem capenter (a : GReg) (x : MX) : Statement (.capenter a x) := .inl ⟨_, _, _, _, _, _, _, fun _ => rfl⟩
theorem capstep (h : Hint) : Statement (.capstep h) := .inl ⟨_, _, _, _, _, _, _, fun _ => rfl⟩
theorem capexit (h : Hint) : Statement (.capexit h) := .inl ⟨_, _, _, _, _, _, _, fun _ => rfl⟩
theorem capres (d : GReg) (n : BitVec 2) (h : Hint) : Statement (.capres d n h) := .inl ⟨_, _, _, _, _, _, _, fun _ => rfl⟩
theorem coll (a : GReg) : Statement (.coll a) := .inl ⟨_, _, _, _, _, _, _, fun _ => rfl⟩
theorem collwait (a : GReg) : Statement (.collwait a) := .inl ⟨_, _, _, _, _, _, _, fun _ => rfl⟩
theorem tlbinvPage (a : GReg) (asid : BitVec 16) : Statement (.tlbinvPage a asid) := .inl ⟨_, _, _, _, _, _, _, fun _ => rfl⟩
theorem tlbinvRange (a : GReg) (b : GReg) (asid : BitVec 16) : Statement (.tlbinvRange a b asid) := .inl ⟨_, _, _, _, _, _, _, fun _ => rfl⟩
theorem tlbinvAsid (asid : BitVec 16) : Statement (.tlbinvAsid asid) := .inl ⟨_, _, _, _, _, _, _, fun _ => rfl⟩
theorem tlbinvAsidg (asid : BitVec 16) : Statement (.tlbinvAsidg asid) := .inl ⟨_, _, _, _, _, _, _, fun _ => rfl⟩
theorem tlbinvAll : Statement (.tlbinvAll) := .inl ⟨_, _, _, _, _, _, _, fun _ => rfl⟩
theorem replayAll (d : GReg) : Statement (.replayAll d) := .inl ⟨_, _, _, _, _, _, _, fun _ => rfl⟩
theorem replayResume (d : GReg) (b : GReg) : Statement (.replayResume d b) := .inl ⟨_, _, _, _, _, _, _, fun _ => rfl⟩
theorem replayFail (d : GReg) (b : GReg) : Statement (.replayFail d b) := .inl ⟨_, _, _, _, _, _, _, fun _ => rfl⟩
theorem ctxsave (d : GReg) (a : GReg) (b : GReg) : Statement (.ctxsave d a b) := .inl ⟨_, _, _, _, _, _, _, fun _ => rfl⟩
theorem ctxsaveT (d : GReg) (a : GReg) (b : GReg) : Statement (.ctxsaveT d a b) := .inl ⟨_, _, _, _, _, _, _, fun _ => rfl⟩
theorem ctxload (d : GReg) (a : GReg) : Statement (.ctxload d a) := .inl ⟨_, _, _, _, _, _, _, fun _ => rfl⟩
theorem ctxloadT (d : GReg) (a : GReg) (b : GReg) : Statement (.ctxloadT d a b) := .inl ⟨_, _, _, _, _, _, _, fun _ => rfl⟩
theorem ld (d : GReg) (a : GK) (b : GK) (x : MX) : Statement (.ld d a b x) := .inl ⟨_, _, _, _, _, _, _, fun _ => rfl⟩
theorem st (d : GReg) (a : GK) (b : GK) (x : MX) : Statement (.st d a b x) := .inl ⟨_, _, _, _, _, _, _, fun _ => rfl⟩
theorem lda (d : GReg) (a : GK) (b : GK) (x : MX) : Statement (.lda d a b x) := .inl ⟨_, _, _, _, _, _, _, fun _ => rfl⟩
theorem stl (d : GReg) (a : GK) (b : GK) (x : MX) : Statement (.stl d a b x) := .inl ⟨_, _, _, _, _, _, _, fun _ => rfl⟩
theorem pref (a : GK) (b : GK) (x : MX) : Statement (.pref a b x) := .inl ⟨_, _, _, _, _, _, _, fun _ => rfl⟩
theorem dcwb (a : GK) (b : GK) (x : MX) : Statement (.dcwb a b x) := .inl ⟨_, _, _, _, _, _, _, fun _ => rfl⟩
theorem vld (d : VReg) (a : GK) (b : GK) (x : MX) : Statement (.vld d a b x) := .inl ⟨_, _, _, _, _, _, _, fun _ => rfl⟩
theorem vst (d : VReg) (a : GK) (b : GK) (x : MX) : Statement (.vst d a b x) := .inl ⟨_, _, _, _, _, _, _, fun _ => rfl⟩
theorem vgath (d : VReg) (a : GReg) (b : VReg) (x : MX) : Statement (.vgath d a b x) := .inl ⟨_, _, _, _, _, _, _, fun _ => rfl⟩
theorem vscat (d : VReg) (a : GReg) (b : VReg) (x : MX) : Statement (.vscat d a b x) := .inl ⟨_, _, _, _, _, _, _, fun _ => rfl⟩
theorem vbld (d : VReg) (a : GK) (b : GK) (x : MX) : Statement (.vbld d a b x) := .inl ⟨_, _, _, _, _, _, _, fun _ => rfl⟩
theorem vlsl (d : VReg) (a : GK) (b : GK) (x : MX) : Statement (.vlsl d a b x) := .inl ⟨_, _, _, _, _, _, _, fun _ => rfl⟩
theorem vlss (d : VReg) (a : GK) (b : GK) (x : MX) : Statement (.vlss d a b x) := .inl ⟨_, _, _, _, _, _, _, fun _ => rfl⟩
theorem vspill (d : VReg) (a : GK) (b : GK) (x : MX) : Statement (.vspill d a b x) := .inl ⟨_, _, _, _, _, _, _, fun _ => rfl⟩
theorem vfill (d : VReg) (a : GK) (b : GK) (x : MX) : Statement (.vfill d a b x) := .inl ⟨_, _, _, _, _, _, _, fun _ => rfl⟩
theorem tld (d : GReg) (a : GReg) (b : GK) (x : MX) : Statement (.tld d a b x) := .inl ⟨_, _, _, _, _, _, _, fun _ => rfl⟩
theorem tsv (d : GReg) (a : GReg) (b : GK) (x : MX) : Statement (.tsv d a b x) := .inl ⟨_, _, _, _, _, _, _, fun _ => rfl⟩
theorem tcp (d : GReg) (a : GReg) (b : GReg) (x : TX) : Statement (.tcp d a b x) := .inl ⟨_, _, _, _, _, _, _, fun _ => rfl⟩
theorem tshape (d : GReg) (a : GReg) (b : GReg) (st : Bool) (x : TX) : Statement (.tshape d a b st x) := .inl ⟨_, _, _, _, _, _, _, fun _ => rfl⟩
theorem rcfence : Statement (.rcfence) := .inl ⟨_, _, _, _, _, _, _, fun _ => rfl⟩
theorem twait (a : GReg) : Statement (.twait a) := .inl ⟨_, _, _, _, _, _, _, fun _ => rfl⟩
theorem tstat (d : GReg) (a : GReg) : Statement (.tstat d a) := .inl ⟨_, _, _, _, _, _, _, fun _ => rfl⟩
theorem talloc (d : GReg) (a : GReg) : Statement (.talloc d a) := .inl ⟨_, _, _, _, _, _, _, fun _ => rfl⟩
theorem tfree (a : GReg) (x : TX) : Statement (.tfree a x) := .inl ⟨_, _, _, _, _, _, _, fun _ => rfl⟩
theorem tldv (d : VReg) (a : GReg) (b : GK) (x : MX) : Statement (.tldv d a b x) := .inl ⟨_, _, _, _, _, _, _, fun _ => rfl⟩
theorem tsvv (d : VReg) (a : GReg) (b : GK) (x : MX) : Statement (.tsvv d a b x) := .inl ⟨_, _, _, _, _, _, _, fun _ => rfl⟩
theorem vadd (d : VReg) (a : VReg) (b : VGK) (x : FX) : Statement (.vadd d a b x) := .inl ⟨_, _, _, _, _, _, _, fun _ => rfl⟩
theorem vsub (d : VReg) (a : VReg) (b : VGK) (x : FX) : Statement (.vsub d a b x) := .inl ⟨_, _, _, _, _, _, _, fun _ => rfl⟩
theorem vmul (d : VReg) (a : VReg) (b : VGK) (x : FX) : Statement (.vmul d a b x) := .inl ⟨_, _, _, _, _, _, _, fun _ => rfl⟩
theorem vfma (d : VReg) (a : VReg) (b : VGK) (c : VG) (x : FX) : Statement (.vfma d a b c x) := .inl ⟨_, _, _, _, _, _, _, fun _ => rfl⟩
theorem vfms (d : VReg) (a : VReg) (b : VGK) (c : VG) (x : FX) : Statement (.vfms d a b c x) := .inl ⟨_, _, _, _, _, _, _, fun _ => rfl⟩
theorem vmin (d : VReg) (a : VReg) (b : VGK) (x : FX) : Statement (.vmin d a b x) := .inl ⟨_, _, _, _, _, _, _, fun _ => rfl⟩
theorem vmax (d : VReg) (a : VReg) (b : VGK) (x : FX) : Statement (.vmax d a b x) := .inl ⟨_, _, _, _, _, _, _, fun _ => rfl⟩
theorem vabs (d : VReg) (a : VReg) (x : FX) : Statement (.vabs d a x) := .inl ⟨_, _, _, _, _, _, _, fun _ => rfl⟩
theorem vneg (d : VReg) (a : VReg) (x : FX) : Statement (.vneg d a x) := .inl ⟨_, _, _, _, _, _, _, fun _ => rfl⟩
theorem vdiv (d : VReg) (a : VReg) (b : VGK) (x : FX) : Statement (.vdiv d a b x) := .inl ⟨_, _, _, _, _, _, _, fun _ => rfl⟩
theorem vsqrt (d : VReg) (a : VReg) (x : FX) : Statement (.vsqrt d a x) := .inl ⟨_, _, _, _, _, _, _, fun _ => rfl⟩
theorem vrcp (d : VReg) (a : VReg) (x : FX) : Statement (.vrcp d a x) := .inl ⟨_, _, _, _, _, _, _, fun _ => rfl⟩
theorem vrsq (d : VReg) (a : VReg) (x : FX) : Statement (.vrsq d a x) := .inl ⟨_, _, _, _, _, _, _, fun _ => rfl⟩
theorem vexp2 (d : VReg) (a : VReg) (x : FX) : Statement (.vexp2 d a x) := .inl ⟨_, _, _, _, _, _, _, fun _ => rfl⟩
theorem vlog2 (d : VReg) (a : VReg) (x : FX) : Statement (.vlog2 d a x) := .inl ⟨_, _, _, _, _, _, _, fun _ => rfl⟩
theorem viadd (d : VReg) (a : VReg) (b : VGK) (x : FX) : Statement (.viadd d a b x) := .inl ⟨_, _, _, _, _, _, _, fun _ => rfl⟩
theorem visub (d : VReg) (a : VReg) (b : VGK) (x : FX) : Statement (.visub d a b x) := .inl ⟨_, _, _, _, _, _, _, fun _ => rfl⟩
theorem vimul (d : VReg) (a : VReg) (b : VGK) (x : FX) : Statement (.vimul d a b x) := .inl ⟨_, _, _, _, _, _, _, fun _ => rfl⟩
theorem vimad (d : VReg) (a : VReg) (b : VGK) (c : VG) (x : FX) : Statement (.vimad d a b c x) := .inl ⟨_, _, _, _, _, _, _, fun _ => rfl⟩
theorem vimin (d : VReg) (a : VReg) (b : VGK) (x : FX) : Statement (.vimin d a b x) := .inl ⟨_, _, _, _, _, _, _, fun _ => rfl⟩
theorem vimax (d : VReg) (a : VReg) (b : VGK) (x : FX) : Statement (.vimax d a b x) := .inl ⟨_, _, _, _, _, _, _, fun _ => rfl⟩
theorem vand (d : VReg) (a : VReg) (b : VGK) (x : FX) : Statement (.vand d a b x) := .inl ⟨_, _, _, _, _, _, _, fun _ => rfl⟩
theorem vor (d : VReg) (a : VReg) (b : VGK) (x : FX) : Statement (.vor d a b x) := .inl ⟨_, _, _, _, _, _, _, fun _ => rfl⟩
theorem vxor (d : VReg) (a : VReg) (b : VGK) (x : FX) : Statement (.vxor d a b x) := .inl ⟨_, _, _, _, _, _, _, fun _ => rfl⟩
theorem vshl (d : VReg) (a : VReg) (b : VGK) (x : FX) : Statement (.vshl d a b x) := .inl ⟨_, _, _, _, _, _, _, fun _ => rfl⟩
theorem vshr (d : VReg) (a : VReg) (b : VGK) (x : FX) : Statement (.vshr d a b x) := .inl ⟨_, _, _, _, _, _, _, fun _ => rfl⟩
theorem vsha (d : VReg) (a : VReg) (b : VGK) (x : FX) : Statement (.vsha d a b x) := .inl ⟨_, _, _, _, _, _, _, fun _ => rfl⟩
theorem vcmp (d : QReg) (a : VReg) (b : VGK) (x : FX) : Statement (.vcmp d a b x) := .inl ⟨_, _, _, _, _, _, _, fun _ => rfl⟩
theorem vsel (d : VReg) (a : VReg) (b : VGK) (c : QReg) (x : FX) : Statement (.vsel d a b c x) := .inl ⟨_, _, _, _, _, _, _, fun _ => rfl⟩
theorem vshuf (d : VReg) (a : VReg) (b : VReg) (c : VReg) (x : FX) : Statement (.vshuf d a b c x) := .inl ⟨_, _, _, _, _, _, _, fun _ => rfl⟩
theorem vbcast (d : VReg) (a : VGK) (x : FX) : Statement (.vbcast d a x) := .inl ⟨_, _, _, _, _, _, _, fun _ => rfl⟩
theorem vmov (d : VReg) (a : VReg) (x : FX) : Statement (.vmov d a x) := .inl ⟨_, _, _, _, _, _, _, fun _ => rfl⟩
theorem viota (d : VReg) (a : GK) (b : GK) (x : FX) : Statement (.viota d a b x) := .inl ⟨_, _, _, _, _, _, _, fun _ => rfl⟩
theorem vext (d : GReg) (a : VReg) (b : GK) (x : FX) : Statement (.vext d a b x) := .inl ⟨_, _, _, _, _, _, _, fun _ => rfl⟩
theorem vins (d : VReg) (a : GK) (b : GK) (x : FX) : Statement (.vins d a b x) := .inl ⟨_, _, _, _, _, _, _, fun _ => rfl⟩
theorem vcomp (d : VReg) (a : VReg) (b : GK) (x : FX) : Statement (.vcomp d a b x) := .inl ⟨_, _, _, _, _, _, _, fun _ => rfl⟩
theorem vcvt (d : VReg) (a : VReg) (c : GReg) (x : FX) : Statement (.vcvt d a c x) := .inl ⟨_, _, _, _, _, _, _, fun _ => rfl⟩
theorem vred (d : GReg) (a : VReg) (b : GK) (x : FX) : Statement (.vred d a b x) := .inl ⟨_, _, _, _, _, _, _, fun _ => rfl⟩
theorem vscan (d : VReg) (a : VReg) (b : GK) (x : FX) : Statement (.vscan d a b x) := .inl ⟨_, _, _, _, _, _, _, fun _ => rfl⟩
theorem vdot4 (d : VReg) (a : VReg) (b : VReg) (x : FX) : Statement (.vdot4 d a b x) := .inl ⟨_, _, _, _, _, _, _, fun _ => rfl⟩
theorem vrng (d : VReg) (a : GReg) (b : GReg) (x : FX) : Statement (.vrng d a b x) := .inl ⟨_, _, _, _, _, _, _, fun _ => rfl⟩
theorem vscale (d : GReg) (a : VReg) (x : FX) : Statement (.vscale d a x) := .inl ⟨_, _, _, _, _, _, _, fun _ => rfl⟩
theorem mclaim (s : BitVec 16) (z : BitVec 16) : Statement (.mclaim s z) := .inl ⟨_, _, _, _, _, _, _, fun _ => rfl⟩
theorem mrel (s : BitVec 16) (z : BitVec 16) : Statement (.mrel s z) := .inl ⟨_, _, _, _, _, _, _, fun _ => rfl⟩
theorem mlds (d : SReg) (a : GReg) (b : GK) (fmt : BitVec 6) (space : BitVec 2) (rows : BitVec 5) (rbytes : BitVec 7) (h : Hint) : Statement (.mlds d a b fmt space rows rbytes h) := .inl ⟨_, _, _, _, _, _, _, fun _ => rfl⟩
theorem mlatch (a : SReg) (fmt : BitVec 6) (nmaj : Bool) (kofs : BitVec 9) (klen : BitVec 6) : Statement (.mlatch a fmt nmaj kofs klen) := .inl ⟨_, _, _, _, _, _, _, fun _ => rfl⟩
theorem mma (d : ZReg) (a : SReg) (fmt : BitVec 6) (rows : BitVec 5) (kofs : BitVec 9) : Statement (.mma d a fmt rows kofs) := .inl ⟨_, _, _, _, _, _, _, fun _ => rfl⟩
theorem mzero (d : ZReg) (fmt : BitVec 6) : Statement (.mzero d fmt) := .inl ⟨_, _, _, _, _, _, _, fun _ => rfl⟩
theorem mstz (d : ZReg) (a : GReg) (b : GK) (fmt : BitVec 6) (rnd : BitVec 2) (space : BitVec 2) (sat : Bool) (rows : BitVec 5) : Statement (.mstz d a b fmt rnd space sat rows) := .inl ⟨_, _, _, _, _, _, _, fun _ => rfl⟩
theorem mrdz (d : VReg) (a : ZReg) (b : GK) (half : Bool) : Statement (.mrdz d a b half) := .inl ⟨_, _, _, _, _, _, _, fun _ => rfl⟩
theorem mwrz (d : ZReg) (a : VReg) (b : GK) (half : Bool) : Statement (.mwrz d a b half) := .inl ⟨_, _, _, _, _, _, _, fun _ => rfl⟩
theorem mwait : Statement (.mwait) := .inl ⟨_, _, _, _, _, _, _, fun _ => rfl⟩
theorem mstat (d : GReg) (clr : BitVec 7) : Statement (.mstat d clr) := .inl ⟨_, _, _, _, _, _, _, fun _ => rfl⟩
theorem mstatSnapshot (d : GReg) : Statement (.mstatSnapshot d) := .inl ⟨_, _, _, _, _, _, _, fun _ => rfl⟩
theorem mscale (d : ZReg) (a : GReg) (fmt : BitVec 6) (rnd : BitVec 2) : Statement (.mscale d a fmt rnd) := .inl ⟨_, _, _, _, _, _, _, fun _ => rfl⟩
theorem sequencerRunCommand (core : BitVec 16) : Statement (.sequencerRunCommand core) := .inr fun _ => rfl
theorem matrixDeferredTrap (core : BitVec 16) (shadow : Bool) (row : BitVec 5) (col : BitVec 4) : Statement (.matrixDeferredTrap core shadow row col) := .inr fun _ => rfl
theorem cmdLaunch (h : CmdHdr) (record : Word) (done : Word) (slot : Word) : Statement (.cmdLaunch h record done slot) := .inr fun _ => rfl
theorem cmdLaunchn (h : CmdHdr) (first : Word) (count : Word) (done : Word) : Statement (.cmdLaunchn h first count done) := .inr fun _ => rfl
theorem cmdLoop (h : CmdHdr) (len : Word) (iters : Word) : Statement (.cmdLoop h len iters) := .inr fun _ => rfl
theorem cmdIf (h : CmdHdr) (va : Word) (value : Word) (skip : Word) (cond : BitVec 2) : Statement (.cmdIf h va value skip cond) := .inr fun _ => rfl
theorem cmdWaitctr (h : CmdHdr) (va : Word) (t : Word) : Statement (.cmdWaitctr h va t) := .inr fun _ => rfl
theorem waitctrSatisfied : Statement (.waitctrSatisfied) := .inr fun _ => rfl
theorem cmdAddctr (h : CmdHdr) (va : Word) (amount : Word) : Statement (.cmdAddctr h va amount) := .inr fun _ => rfl
theorem cmdCopy (h : CmdHdr) (src : Word) (dst : Word) (len : Word) (ctr : Word) (amount : Word) : Statement (.cmdCopy h src dst len ctr amount) := .inr fun _ => rfl
theorem cmdFence (h : CmdHdr) : Statement (.cmdFence h) := .inr fun _ => rfl
theorem cmdFenceReload (h : CmdHdr) : Statement (.cmdFenceReload h) := .inr fun _ => rfl
theorem fenceCmdComplete : Statement (.fenceCmdComplete) := .inr fun _ => rfl
theorem cmdReplay (h : CmdHdr) : Statement (.cmdReplay h) := .inr fun _ => rfl
theorem cmdRole (h : CmdHdr) (layer : Word) (role : Word) (clock : Word) (ctr : Word) : Statement (.cmdRole h layer role clock ctr) := .inr fun _ => rfl
theorem cmdBadOpcode (h : CmdHdr) (op : BitVec 8) : Statement (.cmdBadOpcode h op) := .inr fun _ => rfl
theorem streamResume : Statement (.streamResume) := .inr fun _ => rfl
theorem apertureAdd : Statement (.apertureAdd) := .inr fun _ => rfl
theorem apertureRead : Statement (.apertureRead) := .inr fun _ => rfl
theorem hostPostedWrite : Statement (.hostPostedWrite) := .inr fun _ => rfl
theorem hostBarRead : Statement (.hostBarRead) := .inr fun _ => rfl
theorem lotteryDraw : Statement (.lotteryDraw) := .inr fun _ => rfl
theorem clusterWakeComplete : Statement (.clusterWakeComplete) := .inr fun _ => rfl
theorem clusterGate : Statement (.clusterGate) := .inr fun _ => rfl
theorem coreGate : Statement (.coreGate) := .inr fun _ => rfl
theorem coreWakeComplete : Statement (.coreWakeComplete) := .inr fun _ => rfl
theorem heldRecordPush : Statement (.heldRecordPush) := .inr fun _ => rfl
theorem coreSelectWork : Statement (.coreSelectWork) := .inr fun _ => rfl
theorem tileFrameAllocate : Statement (.tileFrameAllocate) := .inr fun _ => rfl
theorem tileFillComplete : Statement (.tileFillComplete) := .inr fun _ => rfl
theorem tileFillError : Statement (.tileFillError) := .inr fun _ => rfl
theorem taskDispatch : Statement (.taskDispatch) := .inr fun _ => rfl
theorem tileDrainComplete : Statement (.tileDrainComplete) := .inr fun _ => rfl
theorem copyEngineComplete : Statement (.copyEngineComplete) := .inr fun _ => rfl
theorem copyEngineFault : Statement (.copyEngineFault) := .inr fun _ => rfl
theorem launchFutureAllocate : Statement (.launchFutureAllocate) := .inr fun _ => rfl
theorem quantumBoundary : Statement (.quantumBoundary) := .inr fun _ => rfl
theorem quantumEnd : Statement (.quantumEnd) := .inr fun _ => rfl
theorem layerRoleChange : Statement (.layerRoleChange) := .inr fun _ => rfl
theorem roleChangeEnd : Statement (.roleChangeEnd) := .inr fun _ => rfl
theorem followTimeout : Statement (.followTimeout) := .inr fun _ => rfl
theorem icacheParityError : Statement (.icacheParityError) := .inr fun _ => rfl
theorem budgetExpiry : Statement (.budgetExpiry) := .inr fun _ => rfl
theorem preemptRequest : Statement (.preemptRequest) := .inr fun _ => rfl
theorem futureFabricEvent : Statement (.futureFabricEvent) := .inr fun _ => rfl
theorem remoteWake : Statement (.remoteWake) := .inr fun _ => rfl
theorem messageArrive : Statement (.messageArrive) := .inr fun _ => rfl
theorem handlerAbort : Statement (.handlerAbort) := .inr fun _ => rfl
theorem scopeMissNotice : Statement (.scopeMissNotice) := .inr fun _ => rfl
theorem uLineCombine : Statement (.uLineCombine) := .inr fun _ => rfl
theorem l1dCoherenceRequest : Statement (.l1dCoherenceRequest) := .inr fun _ => rfl
theorem sliceAgeTick : Statement (.sliceAgeTick) := .inr fun _ => rfl
theorem ageingSweepVisit : Statement (.ageingSweepVisit) := .inr fun _ => rfl
theorem sliceSample : Statement (.sliceSample) := .inr fun _ => rfl
theorem sampleOutcome : Statement (.sampleOutcome) := .inr fun _ => rfl
theorem ktAdjust : Statement (.ktAdjust) := .inr fun _ => rfl
theorem capsuleAdoptTimer : Statement (.capsuleAdoptTimer) := .inr fun _ => rfl
theorem capsuleDeliveryAck : Statement (.capsuleDeliveryAck) := .inr fun _ => rfl
theorem collectiveComplete : Statement (.collectiveComplete) := .inr fun _ => rfl
theorem reductionPartialSum : Statement (.reductionPartialSum) := .inr fun _ => rfl
theorem periscopeRecord : Statement (.periscopeRecord) := .inr fun _ => rfl
theorem prbaseWrite : Statement (.prbaseWrite) := .inr fun _ => rfl
theorem prstatusWrite : Statement (.prstatusWrite) := .inr fun _ => rfl
theorem registerWrite : Statement (.registerWrite) := .inr fun _ => rfl
theorem vbusParityFail : Statement (.vbusParityFail) := .inr fun _ => rfl
theorem linkCrcError : Statement (.linkCrcError) := .inr fun _ => rfl
theorem sramEccError : Statement (.sramEccError) := .inr fun _ => rfl
theorem hbmEccError : Statement (.hbmEccError) := .inr fun _ => rfl
theorem regfileParityError : Statement (.regfileParityError) := .inr fun _ => rfl
theorem clusterContainment : Statement (.clusterContainment) := .inr fun _ => rfl
theorem schedulerWatchdogTimeout : Statement (.schedulerWatchdogTimeout) := .inr fun _ => rfl
theorem poisonedTailReceived : Statement (.poisonedTailReceived) := .inr fun _ => rfl
theorem engineWatchdogTimeout : Statement (.engineWatchdogTimeout) := .inr fun _ => rfl
theorem atsInvalidation : Statement (.atsInvalidation) := .inr fun _ => rfl
theorem atsResponse : Statement (.atsResponse) := .inr fun _ => rfl
theorem hostReadCompletion : Statement (.hostReadCompletion) := .inr fun _ => rfl
theorem hostReadTimeout : Statement (.hostReadTimeout) := .inr fun _ => rfl
theorem ualinkInboundRequest : Statement (.ualinkInboundRequest) := .inr fun _ => rfl
theorem ualinkResponse : Statement (.ualinkResponse) := .inr fun _ => rfl
theorem peerFence : Statement (.peerFence) := .inr fun _ => rfl
theorem fencedClear : Statement (.fencedClear) := .inr fun _ => rfl
theorem partitionStart : Statement (.partitionStart) := .inr fun _ => rfl
theorem partitionStop : Statement (.partitionStop) := .inr fun _ => rfl
theorem partitionRestart : Statement (.partitionRestart) := .inr fun _ => rfl
theorem mgmtSetModuleLimit : Statement (.mgmtSetModuleLimit) := .inr fun _ => rfl
theorem mgmtReadStandbyBuffer : Statement (.mgmtReadStandbyBuffer) := .inr fun _ => rfl
theorem mgmtSpdmAttestation : Statement (.mgmtSpdmAttestation) := .inr fun _ => rfl
theorem mgmtFirmwareRecovery : Statement (.mgmtFirmwareRecovery) := .inr fun _ => rfl
theorem powerUp : Statement (.powerUp) := .inr fun _ => rfl
theorem pcieConfigRequest : Statement (.pcieConfigRequest) := .inr fun _ => rfl
theorem unassignedEncoding : Statement (.unassignedEncoding) := .inr fun _ => rfl
theorem rootControllerContextSwitch : Statement (.rootControllerContextSwitch) := .inr fun _ => rfl
theorem mainSidePowerDown : Statement (.mainSidePowerDown) := .inr fun _ => rfl

end Sys2Proof.Laws.wf_encodes
end

