-- ==== Sys2Proof/Laws/State.lean ====
section
/-!
SUPPORT. What each update of the state changes, field by field: every line is true by unfolding one record update, and a proof that uses
these lemmas unfolds none.
-/

namespace Sys2Proof.Machine

/-! ### State.setG -/

@[simp] theorem State.setG_me (s : State) (r : GReg) (x : Word) : (s.setG r x).me = s.me.writeG r x := rfl
@[simp] theorem State.setG_core (s : State) (r : GReg) (x : Word) : (s.setG r x).core = s.core := rfl
@[simp] theorem State.setG_tasks (s : State) (r : GReg) (x : Word) : (s.setG r x).tasks = s.tasks := rfl
@[simp] theorem State.setG_cores (s : State) (r : GReg) (x : Word) : (s.setG r x).cores = s.cores := rfl
@[simp] theorem State.setG_clusters (s : State) (r : GReg) (x : Word) : (s.setG r x).clusters = s.clusters := rfl
@[simp] theorem State.setG_slices (s : State) (r : GReg) (x : Word) : (s.setG r x).slices = s.slices := rfl
@[simp] theorem State.setG_parts (s : State) (r : GReg) (x : Word) : (s.setG r x).parts = s.parts := rfl
@[simp] theorem State.setG_mem (s : State) (r : GReg) (x : Word) : (s.setG r x).mem = s.mem := rfl
@[simp] theorem State.setG_cm (s : State) (r : GReg) (x : Word) : (s.setG r x).cm = s.cm := rfl
@[simp] theorem State.setG_sp (s : State) (r : GReg) (x : Word) : (s.setG r x).sp = s.sp := rfl
@[simp] theorem State.setG_ls (s : State) (r : GReg) (x : Word) : (s.setG r x).ls = s.ls := rfl
@[simp] theorem State.setG_poison (s : State) (r : GReg) (x : Word) : (s.setG r x).poison = s.poison := rfl
@[simp] theorem State.setG_latent (s : State) (r : GReg) (x : Word) : (s.setG r x).latent = s.latent := rfl
@[simp] theorem State.setG_localPoison (s : State) (r : GReg) (x : Word) : (s.setG r x).localPoison = s.localPoison := rfl
@[simp] theorem State.setG_localLatent (s : State) (r : GReg) (x : Word) : (s.setG r x).localLatent = s.localLatent := rfl
@[simp] theorem State.setG_nextTid (s : State) (r : GReg) (x : Word) : (s.setG r x).nextTid = s.nextTid := rfl
@[simp] theorem State.setG_nextOp (s : State) (r : GReg) (x : Word) : (s.setG r x).nextOp = s.nextOp := rfl
@[simp] theorem State.setG_roles (s : State) (r : GReg) (x : Word) : (s.setG r x).roles = s.roles := rfl
@[simp] theorem State.setG_slow (s : State) (r : GReg) (x : Word) : (s.setG r x).slow = s.slow := rfl
@[simp] theorem State.setG_limit (s : State) (r : GReg) (x : Word) : (s.setG r x).limit = s.limit := rfl
@[simp] theorem State.setG_throttle (s : State) (r : GReg) (x : Word) : (s.setG r x).throttle = s.throttle := rfl
@[simp] theorem State.setG_harvested (s : State) (r : GReg) (x : Word) : (s.setG r x).harvested = s.harvested := rfl
@[simp] theorem State.setG_peri (s : State) (r : GReg) (x : Word) : (s.setG r x).peri = s.peri := rfl
@[simp] theorem State.setG_pod (s : State) (r : GReg) (x : Word) : (s.setG r x).pod = s.pod := rfl
@[simp] theorem State.setG_msix (s : State) (r : GReg) (x : Word) : (s.setG r x).msix = s.msix := rfl
@[simp] theorem State.setG_outs (s : State) (r : GReg) (x : Word) : (s.setG r x).outs = s.outs := rfl
@[simp] theorem State.setG_ats (s : State) (r : GReg) (x : Word) : (s.setG r x).ats = s.ats := rfl
@[simp] theorem State.setG_pri (s : State) (r : GReg) (x : Word) : (s.setG r x).pri = s.pri := rfl
@[simp] theorem State.setG_hostWrites (s : State) (r : GReg) (x : Word) : (s.setG r x).hostWrites = s.hostWrites := rfl
@[simp] theorem State.setG_sentRemote (s : State) (r : GReg) (x : Word) : (s.setG r x).sentRemote = s.sentRemote := rfl
@[simp] theorem State.setG_fabricOut (s : State) (r : GReg) (x : Word) : (s.setG r x).fabricOut = s.fabricOut := rfl
@[simp] theorem State.setG_colls (s : State) (r : GReg) (x : Word) : (s.setG r x).colls = s.colls := rfl
@[simp] theorem State.setG_capWaits (s : State) (r : GReg) (x : Word) : (s.setG r x).capWaits = s.capWaits := rfl
@[simp] theorem State.setG_completions (s : State) (r : GReg) (x : Word) : (s.setG r x).completions = s.completions := rfl
@[simp] theorem State.setG_pcieErr (s : State) (r : GReg) (x : Word) : (s.setG r x).pcieErr = s.pcieErr := rfl
@[simp] theorem State.setG_peerReplies (s : State) (r : GReg) (x : Word) : (s.setG r x).peerReplies = s.peerReplies := rfl
@[simp] theorem State.setG_mgmtOut (s : State) (r : GReg) (x : Word) : (s.setG r x).mgmtOut = s.mgmtOut := rfl
@[simp] theorem State.setG_msixTab (s : State) (r : GReg) (x : Word) : (s.setG r x).msixTab = s.msixTab := rfl
@[simp] theorem State.setG_vports (s : State) (r : GReg) (x : Word) : (s.setG r x).vports = s.vports := rfl
@[simp] theorem State.setG_lost (s : State) (r : GReg) (x : Word) : (s.setG r x).lost = s.lost := rfl
@[simp] theorem State.setG_stopped (s : State) (r : GReg) (x : Word) : (s.setG r x).stopped = s.stopped := rfl
@[simp] theorem State.setG_recovery (s : State) (r : GReg) (x : Word) : (s.setG r x).recovery = s.recovery := rfl
@[simp] theorem State.setG_power (s : State) (r : GReg) (x : Word) : (s.setG r x).power = s.power := rfl
@[simp] theorem State.setG_deviceId (s : State) (r : GReg) (x : Word) : (s.setG r x).deviceId = s.deviceId := rfl
@[simp] theorem State.setG_peers (s : State) (r : GReg) (x : Word) : (s.setG r x).peers = s.peers := rfl
@[simp] theorem State.setG_images (s : State) (r : GReg) (x : Word) : (s.setG r x).images = s.images := rfl
@[simp] theorem State.setG_drains (s : State) (r : GReg) (x : Word) : (s.setG r x).drains = s.drains := rfl
@[simp] theorem State.setG_lastWake (s : State) (r : GReg) (x : Word) : (s.setG r x).lastWake = s.lastWake := rfl
@[simp] theorem State.setG_fwOk (s : State) (r : GReg) (x : Word) : (s.setG r x).fwOk = s.fwOk := rfl
@[simp] theorem State.setG_waits (s : State) (r : GReg) (x : Word) : (s.setG r x).waits = s.waits := rfl
@[simp] theorem State.setG_agenda (s : State) (r : GReg) (x : Word) : (s.setG r x).agenda = s.agenda := rfl
@[simp] theorem State.setG_turns (s : State) (r : GReg) (x : Word) : (s.setG r x).turns = s.turns := rfl
@[simp] theorem State.setG_ev (s : State) (r : GReg) (x : Word) : (s.setG r x).ev = s.ev := rfl
@[simp] theorem State.setG_clock (s : State) (r : GReg) (x : Word) : (s.setG r x).clock = s.clock := rfl
@[simp] theorem State.setG_stamp (s : State) (r : GReg) (x : Word) : (s.setG r x).stamp = s.stamp := rfl
@[simp] theorem State.setG_freeCount (s : State) (r : GReg) (x : Word) : (s.setG r x).freeCount = s.freeCount := rfl
@[simp] theorem State.setG_poisonOut (s : State) (r : GReg) (x : Word) : (s.setG r x).poisonOut = s.poisonOut := rfl
@[simp] theorem State.setG_drainFull (s : State) (r : GReg) (x : Word) : (s.setG r x).drainFull = s.drainFull := rfl

/-! ### State.setQ -/

@[simp] theorem State.setQ_me (s : State) (r : QReg) (x : Word) : (s.setQ r x).me = s.me.writeQ r x := rfl
@[simp] theorem State.setQ_core (s : State) (r : QReg) (x : Word) : (s.setQ r x).core = s.core := rfl
@[simp] theorem State.setQ_tasks (s : State) (r : QReg) (x : Word) : (s.setQ r x).tasks = s.tasks := rfl
@[simp] theorem State.setQ_cores (s : State) (r : QReg) (x : Word) : (s.setQ r x).cores = s.cores := rfl
@[simp] theorem State.setQ_clusters (s : State) (r : QReg) (x : Word) : (s.setQ r x).clusters = s.clusters := rfl
@[simp] theorem State.setQ_slices (s : State) (r : QReg) (x : Word) : (s.setQ r x).slices = s.slices := rfl
@[simp] theorem State.setQ_parts (s : State) (r : QReg) (x : Word) : (s.setQ r x).parts = s.parts := rfl
@[simp] theorem State.setQ_mem (s : State) (r : QReg) (x : Word) : (s.setQ r x).mem = s.mem := rfl
@[simp] theorem State.setQ_cm (s : State) (r : QReg) (x : Word) : (s.setQ r x).cm = s.cm := rfl
@[simp] theorem State.setQ_sp (s : State) (r : QReg) (x : Word) : (s.setQ r x).sp = s.sp := rfl
@[simp] theorem State.setQ_ls (s : State) (r : QReg) (x : Word) : (s.setQ r x).ls = s.ls := rfl
@[simp] theorem State.setQ_poison (s : State) (r : QReg) (x : Word) : (s.setQ r x).poison = s.poison := rfl
@[simp] theorem State.setQ_latent (s : State) (r : QReg) (x : Word) : (s.setQ r x).latent = s.latent := rfl
@[simp] theorem State.setQ_localPoison (s : State) (r : QReg) (x : Word) : (s.setQ r x).localPoison = s.localPoison := rfl
@[simp] theorem State.setQ_localLatent (s : State) (r : QReg) (x : Word) : (s.setQ r x).localLatent = s.localLatent := rfl
@[simp] theorem State.setQ_nextTid (s : State) (r : QReg) (x : Word) : (s.setQ r x).nextTid = s.nextTid := rfl
@[simp] theorem State.setQ_nextOp (s : State) (r : QReg) (x : Word) : (s.setQ r x).nextOp = s.nextOp := rfl
@[simp] theorem State.setQ_roles (s : State) (r : QReg) (x : Word) : (s.setQ r x).roles = s.roles := rfl
@[simp] theorem State.setQ_slow (s : State) (r : QReg) (x : Word) : (s.setQ r x).slow = s.slow := rfl
@[simp] theorem State.setQ_limit (s : State) (r : QReg) (x : Word) : (s.setQ r x).limit = s.limit := rfl
@[simp] theorem State.setQ_throttle (s : State) (r : QReg) (x : Word) : (s.setQ r x).throttle = s.throttle := rfl
@[simp] theorem State.setQ_harvested (s : State) (r : QReg) (x : Word) : (s.setQ r x).harvested = s.harvested := rfl
@[simp] theorem State.setQ_peri (s : State) (r : QReg) (x : Word) : (s.setQ r x).peri = s.peri := rfl
@[simp] theorem State.setQ_pod (s : State) (r : QReg) (x : Word) : (s.setQ r x).pod = s.pod := rfl
@[simp] theorem State.setQ_msix (s : State) (r : QReg) (x : Word) : (s.setQ r x).msix = s.msix := rfl
@[simp] theorem State.setQ_outs (s : State) (r : QReg) (x : Word) : (s.setQ r x).outs = s.outs := rfl
@[simp] theorem State.setQ_ats (s : State) (r : QReg) (x : Word) : (s.setQ r x).ats = s.ats := rfl
@[simp] theorem State.setQ_pri (s : State) (r : QReg) (x : Word) : (s.setQ r x).pri = s.pri := rfl
@[simp] theorem State.setQ_hostWrites (s : State) (r : QReg) (x : Word) : (s.setQ r x).hostWrites = s.hostWrites := rfl
@[simp] theorem State.setQ_sentRemote (s : State) (r : QReg) (x : Word) : (s.setQ r x).sentRemote = s.sentRemote := rfl
@[simp] theorem State.setQ_fabricOut (s : State) (r : QReg) (x : Word) : (s.setQ r x).fabricOut = s.fabricOut := rfl
@[simp] theorem State.setQ_colls (s : State) (r : QReg) (x : Word) : (s.setQ r x).colls = s.colls := rfl
@[simp] theorem State.setQ_capWaits (s : State) (r : QReg) (x : Word) : (s.setQ r x).capWaits = s.capWaits := rfl
@[simp] theorem State.setQ_completions (s : State) (r : QReg) (x : Word) : (s.setQ r x).completions = s.completions := rfl
@[simp] theorem State.setQ_pcieErr (s : State) (r : QReg) (x : Word) : (s.setQ r x).pcieErr = s.pcieErr := rfl
@[simp] theorem State.setQ_peerReplies (s : State) (r : QReg) (x : Word) : (s.setQ r x).peerReplies = s.peerReplies := rfl
@[simp] theorem State.setQ_mgmtOut (s : State) (r : QReg) (x : Word) : (s.setQ r x).mgmtOut = s.mgmtOut := rfl
@[simp] theorem State.setQ_msixTab (s : State) (r : QReg) (x : Word) : (s.setQ r x).msixTab = s.msixTab := rfl
@[simp] theorem State.setQ_vports (s : State) (r : QReg) (x : Word) : (s.setQ r x).vports = s.vports := rfl
@[simp] theorem State.setQ_lost (s : State) (r : QReg) (x : Word) : (s.setQ r x).lost = s.lost := rfl
@[simp] theorem State.setQ_stopped (s : State) (r : QReg) (x : Word) : (s.setQ r x).stopped = s.stopped := rfl
@[simp] theorem State.setQ_recovery (s : State) (r : QReg) (x : Word) : (s.setQ r x).recovery = s.recovery := rfl
@[simp] theorem State.setQ_power (s : State) (r : QReg) (x : Word) : (s.setQ r x).power = s.power := rfl
@[simp] theorem State.setQ_deviceId (s : State) (r : QReg) (x : Word) : (s.setQ r x).deviceId = s.deviceId := rfl
@[simp] theorem State.setQ_peers (s : State) (r : QReg) (x : Word) : (s.setQ r x).peers = s.peers := rfl
@[simp] theorem State.setQ_images (s : State) (r : QReg) (x : Word) : (s.setQ r x).images = s.images := rfl
@[simp] theorem State.setQ_drains (s : State) (r : QReg) (x : Word) : (s.setQ r x).drains = s.drains := rfl
@[simp] theorem State.setQ_lastWake (s : State) (r : QReg) (x : Word) : (s.setQ r x).lastWake = s.lastWake := rfl
@[simp] theorem State.setQ_fwOk (s : State) (r : QReg) (x : Word) : (s.setQ r x).fwOk = s.fwOk := rfl
@[simp] theorem State.setQ_waits (s : State) (r : QReg) (x : Word) : (s.setQ r x).waits = s.waits := rfl
@[simp] theorem State.setQ_agenda (s : State) (r : QReg) (x : Word) : (s.setQ r x).agenda = s.agenda := rfl
@[simp] theorem State.setQ_turns (s : State) (r : QReg) (x : Word) : (s.setQ r x).turns = s.turns := rfl
@[simp] theorem State.setQ_ev (s : State) (r : QReg) (x : Word) : (s.setQ r x).ev = s.ev := rfl
@[simp] theorem State.setQ_clock (s : State) (r : QReg) (x : Word) : (s.setQ r x).clock = s.clock := rfl
@[simp] theorem State.setQ_stamp (s : State) (r : QReg) (x : Word) : (s.setQ r x).stamp = s.stamp := rfl
@[simp] theorem State.setQ_freeCount (s : State) (r : QReg) (x : Word) : (s.setQ r x).freeCount = s.freeCount := rfl
@[simp] theorem State.setQ_poisonOut (s : State) (r : QReg) (x : Word) : (s.setQ r x).poisonOut = s.poisonOut := rfl
@[simp] theorem State.setQ_drainFull (s : State) (r : QReg) (x : Word) : (s.setQ r x).drainFull = s.drainFull := rfl

/-! ### State.setV -/

@[simp] theorem State.setV_me (s : State) (r : VReg) (x : Vec) : (s.setV r x).me = s.me.writeV r x := rfl
@[simp] theorem State.setV_core (s : State) (r : VReg) (x : Vec) : (s.setV r x).core = s.core := rfl
@[simp] theorem State.setV_tasks (s : State) (r : VReg) (x : Vec) : (s.setV r x).tasks = s.tasks := rfl
@[simp] theorem State.setV_cores (s : State) (r : VReg) (x : Vec) : (s.setV r x).cores = s.cores := rfl
@[simp] theorem State.setV_clusters (s : State) (r : VReg) (x : Vec) : (s.setV r x).clusters = s.clusters := rfl
@[simp] theorem State.setV_slices (s : State) (r : VReg) (x : Vec) : (s.setV r x).slices = s.slices := rfl
@[simp] theorem State.setV_parts (s : State) (r : VReg) (x : Vec) : (s.setV r x).parts = s.parts := rfl
@[simp] theorem State.setV_mem (s : State) (r : VReg) (x : Vec) : (s.setV r x).mem = s.mem := rfl
@[simp] theorem State.setV_cm (s : State) (r : VReg) (x : Vec) : (s.setV r x).cm = s.cm := rfl
@[simp] theorem State.setV_sp (s : State) (r : VReg) (x : Vec) : (s.setV r x).sp = s.sp := rfl
@[simp] theorem State.setV_ls (s : State) (r : VReg) (x : Vec) : (s.setV r x).ls = s.ls := rfl
@[simp] theorem State.setV_poison (s : State) (r : VReg) (x : Vec) : (s.setV r x).poison = s.poison := rfl
@[simp] theorem State.setV_latent (s : State) (r : VReg) (x : Vec) : (s.setV r x).latent = s.latent := rfl
@[simp] theorem State.setV_localPoison (s : State) (r : VReg) (x : Vec) : (s.setV r x).localPoison = s.localPoison := rfl
@[simp] theorem State.setV_localLatent (s : State) (r : VReg) (x : Vec) : (s.setV r x).localLatent = s.localLatent := rfl
@[simp] theorem State.setV_nextTid (s : State) (r : VReg) (x : Vec) : (s.setV r x).nextTid = s.nextTid := rfl
@[simp] theorem State.setV_nextOp (s : State) (r : VReg) (x : Vec) : (s.setV r x).nextOp = s.nextOp := rfl
@[simp] theorem State.setV_roles (s : State) (r : VReg) (x : Vec) : (s.setV r x).roles = s.roles := rfl
@[simp] theorem State.setV_slow (s : State) (r : VReg) (x : Vec) : (s.setV r x).slow = s.slow := rfl
@[simp] theorem State.setV_limit (s : State) (r : VReg) (x : Vec) : (s.setV r x).limit = s.limit := rfl
@[simp] theorem State.setV_throttle (s : State) (r : VReg) (x : Vec) : (s.setV r x).throttle = s.throttle := rfl
@[simp] theorem State.setV_harvested (s : State) (r : VReg) (x : Vec) : (s.setV r x).harvested = s.harvested := rfl
@[simp] theorem State.setV_peri (s : State) (r : VReg) (x : Vec) : (s.setV r x).peri = s.peri := rfl
@[simp] theorem State.setV_pod (s : State) (r : VReg) (x : Vec) : (s.setV r x).pod = s.pod := rfl
@[simp] theorem State.setV_msix (s : State) (r : VReg) (x : Vec) : (s.setV r x).msix = s.msix := rfl
@[simp] theorem State.setV_outs (s : State) (r : VReg) (x : Vec) : (s.setV r x).outs = s.outs := rfl
@[simp] theorem State.setV_ats (s : State) (r : VReg) (x : Vec) : (s.setV r x).ats = s.ats := rfl
@[simp] theorem State.setV_pri (s : State) (r : VReg) (x : Vec) : (s.setV r x).pri = s.pri := rfl
@[simp] theorem State.setV_hostWrites (s : State) (r : VReg) (x : Vec) : (s.setV r x).hostWrites = s.hostWrites := rfl
@[simp] theorem State.setV_sentRemote (s : State) (r : VReg) (x : Vec) : (s.setV r x).sentRemote = s.sentRemote := rfl
@[simp] theorem State.setV_fabricOut (s : State) (r : VReg) (x : Vec) : (s.setV r x).fabricOut = s.fabricOut := rfl
@[simp] theorem State.setV_colls (s : State) (r : VReg) (x : Vec) : (s.setV r x).colls = s.colls := rfl
@[simp] theorem State.setV_capWaits (s : State) (r : VReg) (x : Vec) : (s.setV r x).capWaits = s.capWaits := rfl
@[simp] theorem State.setV_completions (s : State) (r : VReg) (x : Vec) : (s.setV r x).completions = s.completions := rfl
@[simp] theorem State.setV_pcieErr (s : State) (r : VReg) (x : Vec) : (s.setV r x).pcieErr = s.pcieErr := rfl
@[simp] theorem State.setV_peerReplies (s : State) (r : VReg) (x : Vec) : (s.setV r x).peerReplies = s.peerReplies := rfl
@[simp] theorem State.setV_mgmtOut (s : State) (r : VReg) (x : Vec) : (s.setV r x).mgmtOut = s.mgmtOut := rfl
@[simp] theorem State.setV_msixTab (s : State) (r : VReg) (x : Vec) : (s.setV r x).msixTab = s.msixTab := rfl
@[simp] theorem State.setV_vports (s : State) (r : VReg) (x : Vec) : (s.setV r x).vports = s.vports := rfl
@[simp] theorem State.setV_lost (s : State) (r : VReg) (x : Vec) : (s.setV r x).lost = s.lost := rfl
@[simp] theorem State.setV_stopped (s : State) (r : VReg) (x : Vec) : (s.setV r x).stopped = s.stopped := rfl
@[simp] theorem State.setV_recovery (s : State) (r : VReg) (x : Vec) : (s.setV r x).recovery = s.recovery := rfl
@[simp] theorem State.setV_power (s : State) (r : VReg) (x : Vec) : (s.setV r x).power = s.power := rfl
@[simp] theorem State.setV_deviceId (s : State) (r : VReg) (x : Vec) : (s.setV r x).deviceId = s.deviceId := rfl
@[simp] theorem State.setV_peers (s : State) (r : VReg) (x : Vec) : (s.setV r x).peers = s.peers := rfl
@[simp] theorem State.setV_images (s : State) (r : VReg) (x : Vec) : (s.setV r x).images = s.images := rfl
@[simp] theorem State.setV_drains (s : State) (r : VReg) (x : Vec) : (s.setV r x).drains = s.drains := rfl
@[simp] theorem State.setV_lastWake (s : State) (r : VReg) (x : Vec) : (s.setV r x).lastWake = s.lastWake := rfl
@[simp] theorem State.setV_fwOk (s : State) (r : VReg) (x : Vec) : (s.setV r x).fwOk = s.fwOk := rfl
@[simp] theorem State.setV_waits (s : State) (r : VReg) (x : Vec) : (s.setV r x).waits = s.waits := rfl
@[simp] theorem State.setV_agenda (s : State) (r : VReg) (x : Vec) : (s.setV r x).agenda = s.agenda := rfl
@[simp] theorem State.setV_turns (s : State) (r : VReg) (x : Vec) : (s.setV r x).turns = s.turns := rfl
@[simp] theorem State.setV_ev (s : State) (r : VReg) (x : Vec) : (s.setV r x).ev = s.ev := rfl
@[simp] theorem State.setV_clock (s : State) (r : VReg) (x : Vec) : (s.setV r x).clock = s.clock := rfl
@[simp] theorem State.setV_stamp (s : State) (r : VReg) (x : Vec) : (s.setV r x).stamp = s.stamp := rfl
@[simp] theorem State.setV_freeCount (s : State) (r : VReg) (x : Vec) : (s.setV r x).freeCount = s.freeCount := rfl
@[simp] theorem State.setV_poisonOut (s : State) (r : VReg) (x : Vec) : (s.setV r x).poisonOut = s.poisonOut := rfl
@[simp] theorem State.setV_drainFull (s : State) (r : VReg) (x : Vec) : (s.setV r x).drainFull = s.drainFull := rfl

/-! ### State.setPc -/

@[simp] theorem State.setPc_me (s : State) (x : Word) : (s.setPc x).me = { s.me with pc := x } := rfl
@[simp] theorem State.setPc_core (s : State) (x : Word) : (s.setPc x).core = s.core := rfl
@[simp] theorem State.setPc_tasks (s : State) (x : Word) : (s.setPc x).tasks = s.tasks := rfl
@[simp] theorem State.setPc_cores (s : State) (x : Word) : (s.setPc x).cores = s.cores := rfl
@[simp] theorem State.setPc_clusters (s : State) (x : Word) : (s.setPc x).clusters = s.clusters := rfl
@[simp] theorem State.setPc_slices (s : State) (x : Word) : (s.setPc x).slices = s.slices := rfl
@[simp] theorem State.setPc_parts (s : State) (x : Word) : (s.setPc x).parts = s.parts := rfl
@[simp] theorem State.setPc_mem (s : State) (x : Word) : (s.setPc x).mem = s.mem := rfl
@[simp] theorem State.setPc_cm (s : State) (x : Word) : (s.setPc x).cm = s.cm := rfl
@[simp] theorem State.setPc_sp (s : State) (x : Word) : (s.setPc x).sp = s.sp := rfl
@[simp] theorem State.setPc_ls (s : State) (x : Word) : (s.setPc x).ls = s.ls := rfl
@[simp] theorem State.setPc_poison (s : State) (x : Word) : (s.setPc x).poison = s.poison := rfl
@[simp] theorem State.setPc_latent (s : State) (x : Word) : (s.setPc x).latent = s.latent := rfl
@[simp] theorem State.setPc_localPoison (s : State) (x : Word) : (s.setPc x).localPoison = s.localPoison := rfl
@[simp] theorem State.setPc_localLatent (s : State) (x : Word) : (s.setPc x).localLatent = s.localLatent := rfl
@[simp] theorem State.setPc_nextTid (s : State) (x : Word) : (s.setPc x).nextTid = s.nextTid := rfl
@[simp] theorem State.setPc_nextOp (s : State) (x : Word) : (s.setPc x).nextOp = s.nextOp := rfl
@[simp] theorem State.setPc_roles (s : State) (x : Word) : (s.setPc x).roles = s.roles := rfl
@[simp] theorem State.setPc_slow (s : State) (x : Word) : (s.setPc x).slow = s.slow := rfl
@[simp] theorem State.setPc_limit (s : State) (x : Word) : (s.setPc x).limit = s.limit := rfl
@[simp] theorem State.setPc_throttle (s : State) (x : Word) : (s.setPc x).throttle = s.throttle := rfl
@[simp] theorem State.setPc_harvested (s : State) (x : Word) : (s.setPc x).harvested = s.harvested := rfl
@[simp] theorem State.setPc_peri (s : State) (x : Word) : (s.setPc x).peri = s.peri := rfl
@[simp] theorem State.setPc_pod (s : State) (x : Word) : (s.setPc x).pod = s.pod := rfl
@[simp] theorem State.setPc_msix (s : State) (x : Word) : (s.setPc x).msix = s.msix := rfl
@[simp] theorem State.setPc_outs (s : State) (x : Word) : (s.setPc x).outs = s.outs := rfl
@[simp] theorem State.setPc_ats (s : State) (x : Word) : (s.setPc x).ats = s.ats := rfl
@[simp] theorem State.setPc_pri (s : State) (x : Word) : (s.setPc x).pri = s.pri := rfl
@[simp] theorem State.setPc_hostWrites (s : State) (x : Word) : (s.setPc x).hostWrites = s.hostWrites := rfl
@[simp] theorem State.setPc_sentRemote (s : State) (x : Word) : (s.setPc x).sentRemote = s.sentRemote := rfl
@[simp] theorem State.setPc_fabricOut (s : State) (x : Word) : (s.setPc x).fabricOut = s.fabricOut := rfl
@[simp] theorem State.setPc_colls (s : State) (x : Word) : (s.setPc x).colls = s.colls := rfl
@[simp] theorem State.setPc_capWaits (s : State) (x : Word) : (s.setPc x).capWaits = s.capWaits := rfl
@[simp] theorem State.setPc_completions (s : State) (x : Word) : (s.setPc x).completions = s.completions := rfl
@[simp] theorem State.setPc_pcieErr (s : State) (x : Word) : (s.setPc x).pcieErr = s.pcieErr := rfl
@[simp] theorem State.setPc_peerReplies (s : State) (x : Word) : (s.setPc x).peerReplies = s.peerReplies := rfl
@[simp] theorem State.setPc_mgmtOut (s : State) (x : Word) : (s.setPc x).mgmtOut = s.mgmtOut := rfl
@[simp] theorem State.setPc_msixTab (s : State) (x : Word) : (s.setPc x).msixTab = s.msixTab := rfl
@[simp] theorem State.setPc_vports (s : State) (x : Word) : (s.setPc x).vports = s.vports := rfl
@[simp] theorem State.setPc_lost (s : State) (x : Word) : (s.setPc x).lost = s.lost := rfl
@[simp] theorem State.setPc_stopped (s : State) (x : Word) : (s.setPc x).stopped = s.stopped := rfl
@[simp] theorem State.setPc_recovery (s : State) (x : Word) : (s.setPc x).recovery = s.recovery := rfl
@[simp] theorem State.setPc_power (s : State) (x : Word) : (s.setPc x).power = s.power := rfl
@[simp] theorem State.setPc_deviceId (s : State) (x : Word) : (s.setPc x).deviceId = s.deviceId := rfl
@[simp] theorem State.setPc_peers (s : State) (x : Word) : (s.setPc x).peers = s.peers := rfl
@[simp] theorem State.setPc_images (s : State) (x : Word) : (s.setPc x).images = s.images := rfl
@[simp] theorem State.setPc_drains (s : State) (x : Word) : (s.setPc x).drains = s.drains := rfl
@[simp] theorem State.setPc_lastWake (s : State) (x : Word) : (s.setPc x).lastWake = s.lastWake := rfl
@[simp] theorem State.setPc_fwOk (s : State) (x : Word) : (s.setPc x).fwOk = s.fwOk := rfl
@[simp] theorem State.setPc_waits (s : State) (x : Word) : (s.setPc x).waits = s.waits := rfl
@[simp] theorem State.setPc_agenda (s : State) (x : Word) : (s.setPc x).agenda = s.agenda := rfl
@[simp] theorem State.setPc_turns (s : State) (x : Word) : (s.setPc x).turns = s.turns := rfl
@[simp] theorem State.setPc_ev (s : State) (x : Word) : (s.setPc x).ev = s.ev := rfl
@[simp] theorem State.setPc_clock (s : State) (x : Word) : (s.setPc x).clock = s.clock := rfl
@[simp] theorem State.setPc_stamp (s : State) (x : Word) : (s.setPc x).stamp = s.stamp := rfl
@[simp] theorem State.setPc_freeCount (s : State) (x : Word) : (s.setPc x).freeCount = s.freeCount := rfl
@[simp] theorem State.setPc_poisonOut (s : State) (x : Word) : (s.setPc x).poisonOut = s.poisonOut := rfl
@[simp] theorem State.setPc_drainFull (s : State) (x : Word) : (s.setPc x).drainFull = s.drainFull := rfl

/-! ### State.onMe -/

@[simp] theorem State.onMe_me (s : State) (f : Task → Task) : (s.onMe f).me = f s.me := rfl
@[simp] theorem State.onMe_core (s : State) (f : Task → Task) : (s.onMe f).core = s.core := rfl
@[simp] theorem State.onMe_tasks (s : State) (f : Task → Task) : (s.onMe f).tasks = s.tasks := rfl
@[simp] theorem State.onMe_cores (s : State) (f : Task → Task) : (s.onMe f).cores = s.cores := rfl
@[simp] theorem State.onMe_clusters (s : State) (f : Task → Task) : (s.onMe f).clusters = s.clusters := rfl
@[simp] theorem State.onMe_slices (s : State) (f : Task → Task) : (s.onMe f).slices = s.slices := rfl
@[simp] theorem State.onMe_parts (s : State) (f : Task → Task) : (s.onMe f).parts = s.parts := rfl
@[simp] theorem State.onMe_mem (s : State) (f : Task → Task) : (s.onMe f).mem = s.mem := rfl
@[simp] theorem State.onMe_cm (s : State) (f : Task → Task) : (s.onMe f).cm = s.cm := rfl
@[simp] theorem State.onMe_sp (s : State) (f : Task → Task) : (s.onMe f).sp = s.sp := rfl
@[simp] theorem State.onMe_ls (s : State) (f : Task → Task) : (s.onMe f).ls = s.ls := rfl
@[simp] theorem State.onMe_poison (s : State) (f : Task → Task) : (s.onMe f).poison = s.poison := rfl
@[simp] theorem State.onMe_latent (s : State) (f : Task → Task) : (s.onMe f).latent = s.latent := rfl
@[simp] theorem State.onMe_localPoison (s : State) (f : Task → Task) : (s.onMe f).localPoison = s.localPoison := rfl
@[simp] theorem State.onMe_localLatent (s : State) (f : Task → Task) : (s.onMe f).localLatent = s.localLatent := rfl
@[simp] theorem State.onMe_nextTid (s : State) (f : Task → Task) : (s.onMe f).nextTid = s.nextTid := rfl
@[simp] theorem State.onMe_nextOp (s : State) (f : Task → Task) : (s.onMe f).nextOp = s.nextOp := rfl
@[simp] theorem State.onMe_roles (s : State) (f : Task → Task) : (s.onMe f).roles = s.roles := rfl
@[simp] theorem State.onMe_slow (s : State) (f : Task → Task) : (s.onMe f).slow = s.slow := rfl
@[simp] theorem State.onMe_limit (s : State) (f : Task → Task) : (s.onMe f).limit = s.limit := rfl
@[simp] theorem State.onMe_throttle (s : State) (f : Task → Task) : (s.onMe f).throttle = s.throttle := rfl
@[simp] theorem State.onMe_harvested (s : State) (f : Task → Task) : (s.onMe f).harvested = s.harvested := rfl
@[simp] theorem State.onMe_peri (s : State) (f : Task → Task) : (s.onMe f).peri = s.peri := rfl
@[simp] theorem State.onMe_pod (s : State) (f : Task → Task) : (s.onMe f).pod = s.pod := rfl
@[simp] theorem State.onMe_msix (s : State) (f : Task → Task) : (s.onMe f).msix = s.msix := rfl
@[simp] theorem State.onMe_outs (s : State) (f : Task → Task) : (s.onMe f).outs = s.outs := rfl
@[simp] theorem State.onMe_ats (s : State) (f : Task → Task) : (s.onMe f).ats = s.ats := rfl
@[simp] theorem State.onMe_pri (s : State) (f : Task → Task) : (s.onMe f).pri = s.pri := rfl
@[simp] theorem State.onMe_hostWrites (s : State) (f : Task → Task) : (s.onMe f).hostWrites = s.hostWrites := rfl
@[simp] theorem State.onMe_sentRemote (s : State) (f : Task → Task) : (s.onMe f).sentRemote = s.sentRemote := rfl
@[simp] theorem State.onMe_fabricOut (s : State) (f : Task → Task) : (s.onMe f).fabricOut = s.fabricOut := rfl
@[simp] theorem State.onMe_colls (s : State) (f : Task → Task) : (s.onMe f).colls = s.colls := rfl
@[simp] theorem State.onMe_capWaits (s : State) (f : Task → Task) : (s.onMe f).capWaits = s.capWaits := rfl
@[simp] theorem State.onMe_completions (s : State) (f : Task → Task) : (s.onMe f).completions = s.completions := rfl
@[simp] theorem State.onMe_pcieErr (s : State) (f : Task → Task) : (s.onMe f).pcieErr = s.pcieErr := rfl
@[simp] theorem State.onMe_peerReplies (s : State) (f : Task → Task) : (s.onMe f).peerReplies = s.peerReplies := rfl
@[simp] theorem State.onMe_mgmtOut (s : State) (f : Task → Task) : (s.onMe f).mgmtOut = s.mgmtOut := rfl
@[simp] theorem State.onMe_msixTab (s : State) (f : Task → Task) : (s.onMe f).msixTab = s.msixTab := rfl
@[simp] theorem State.onMe_vports (s : State) (f : Task → Task) : (s.onMe f).vports = s.vports := rfl
@[simp] theorem State.onMe_lost (s : State) (f : Task → Task) : (s.onMe f).lost = s.lost := rfl
@[simp] theorem State.onMe_stopped (s : State) (f : Task → Task) : (s.onMe f).stopped = s.stopped := rfl
@[simp] theorem State.onMe_recovery (s : State) (f : Task → Task) : (s.onMe f).recovery = s.recovery := rfl
@[simp] theorem State.onMe_power (s : State) (f : Task → Task) : (s.onMe f).power = s.power := rfl
@[simp] theorem State.onMe_deviceId (s : State) (f : Task → Task) : (s.onMe f).deviceId = s.deviceId := rfl
@[simp] theorem State.onMe_peers (s : State) (f : Task → Task) : (s.onMe f).peers = s.peers := rfl
@[simp] theorem State.onMe_images (s : State) (f : Task → Task) : (s.onMe f).images = s.images := rfl
@[simp] theorem State.onMe_drains (s : State) (f : Task → Task) : (s.onMe f).drains = s.drains := rfl
@[simp] theorem State.onMe_lastWake (s : State) (f : Task → Task) : (s.onMe f).lastWake = s.lastWake := rfl
@[simp] theorem State.onMe_fwOk (s : State) (f : Task → Task) : (s.onMe f).fwOk = s.fwOk := rfl
@[simp] theorem State.onMe_waits (s : State) (f : Task → Task) : (s.onMe f).waits = s.waits := rfl
@[simp] theorem State.onMe_agenda (s : State) (f : Task → Task) : (s.onMe f).agenda = s.agenda := rfl
@[simp] theorem State.onMe_turns (s : State) (f : Task → Task) : (s.onMe f).turns = s.turns := rfl
@[simp] theorem State.onMe_ev (s : State) (f : Task → Task) : (s.onMe f).ev = s.ev := rfl
@[simp] theorem State.onMe_clock (s : State) (f : Task → Task) : (s.onMe f).clock = s.clock := rfl
@[simp] theorem State.onMe_stamp (s : State) (f : Task → Task) : (s.onMe f).stamp = s.stamp := rfl
@[simp] theorem State.onMe_freeCount (s : State) (f : Task → Task) : (s.onMe f).freeCount = s.freeCount := rfl
@[simp] theorem State.onMe_poisonOut (s : State) (f : Task → Task) : (s.onMe f).poisonOut = s.poisonOut := rfl
@[simp] theorem State.onMe_drainFull (s : State) (f : Task → Task) : (s.onMe f).drainFull = s.drainFull := rfl

/-! ### State.onCore -/

@[simp] theorem State.onCore_me (s : State) (f : Core → Core) : (s.onCore f).me = s.me := rfl
@[simp] theorem State.onCore_core (s : State) (f : Core → Core) : (s.onCore f).core = f s.core := rfl
@[simp] theorem State.onCore_tasks (s : State) (f : Core → Core) : (s.onCore f).tasks = s.tasks := rfl
@[simp] theorem State.onCore_cores (s : State) (f : Core → Core) : (s.onCore f).cores = s.cores := rfl
@[simp] theorem State.onCore_clusters (s : State) (f : Core → Core) : (s.onCore f).clusters = s.clusters := rfl
@[simp] theorem State.onCore_slices (s : State) (f : Core → Core) : (s.onCore f).slices = s.slices := rfl
@[simp] theorem State.onCore_parts (s : State) (f : Core → Core) : (s.onCore f).parts = s.parts := rfl
@[simp] theorem State.onCore_mem (s : State) (f : Core → Core) : (s.onCore f).mem = s.mem := rfl
@[simp] theorem State.onCore_cm (s : State) (f : Core → Core) : (s.onCore f).cm = s.cm := rfl
@[simp] theorem State.onCore_sp (s : State) (f : Core → Core) : (s.onCore f).sp = s.sp := rfl
@[simp] theorem State.onCore_ls (s : State) (f : Core → Core) : (s.onCore f).ls = s.ls := rfl
@[simp] theorem State.onCore_poison (s : State) (f : Core → Core) : (s.onCore f).poison = s.poison := rfl
@[simp] theorem State.onCore_latent (s : State) (f : Core → Core) : (s.onCore f).latent = s.latent := rfl
@[simp] theorem State.onCore_localPoison (s : State) (f : Core → Core) : (s.onCore f).localPoison = s.localPoison := rfl
@[simp] theorem State.onCore_localLatent (s : State) (f : Core → Core) : (s.onCore f).localLatent = s.localLatent := rfl
@[simp] theorem State.onCore_nextTid (s : State) (f : Core → Core) : (s.onCore f).nextTid = s.nextTid := rfl
@[simp] theorem State.onCore_nextOp (s : State) (f : Core → Core) : (s.onCore f).nextOp = s.nextOp := rfl
@[simp] theorem State.onCore_roles (s : State) (f : Core → Core) : (s.onCore f).roles = s.roles := rfl
@[simp] theorem State.onCore_slow (s : State) (f : Core → Core) : (s.onCore f).slow = s.slow := rfl
@[simp] theorem State.onCore_limit (s : State) (f : Core → Core) : (s.onCore f).limit = s.limit := rfl
@[simp] theorem State.onCore_throttle (s : State) (f : Core → Core) : (s.onCore f).throttle = s.throttle := rfl
@[simp] theorem State.onCore_harvested (s : State) (f : Core → Core) : (s.onCore f).harvested = s.harvested := rfl
@[simp] theorem State.onCore_peri (s : State) (f : Core → Core) : (s.onCore f).peri = s.peri := rfl
@[simp] theorem State.onCore_pod (s : State) (f : Core → Core) : (s.onCore f).pod = s.pod := rfl
@[simp] theorem State.onCore_msix (s : State) (f : Core → Core) : (s.onCore f).msix = s.msix := rfl
@[simp] theorem State.onCore_outs (s : State) (f : Core → Core) : (s.onCore f).outs = s.outs := rfl
@[simp] theorem State.onCore_ats (s : State) (f : Core → Core) : (s.onCore f).ats = s.ats := rfl
@[simp] theorem State.onCore_pri (s : State) (f : Core → Core) : (s.onCore f).pri = s.pri := rfl
@[simp] theorem State.onCore_hostWrites (s : State) (f : Core → Core) : (s.onCore f).hostWrites = s.hostWrites := rfl
@[simp] theorem State.onCore_sentRemote (s : State) (f : Core → Core) : (s.onCore f).sentRemote = s.sentRemote := rfl
@[simp] theorem State.onCore_fabricOut (s : State) (f : Core → Core) : (s.onCore f).fabricOut = s.fabricOut := rfl
@[simp] theorem State.onCore_colls (s : State) (f : Core → Core) : (s.onCore f).colls = s.colls := rfl
@[simp] theorem State.onCore_capWaits (s : State) (f : Core → Core) : (s.onCore f).capWaits = s.capWaits := rfl
@[simp] theorem State.onCore_completions (s : State) (f : Core → Core) : (s.onCore f).completions = s.completions := rfl
@[simp] theorem State.onCore_pcieErr (s : State) (f : Core → Core) : (s.onCore f).pcieErr = s.pcieErr := rfl
@[simp] theorem State.onCore_peerReplies (s : State) (f : Core → Core) : (s.onCore f).peerReplies = s.peerReplies := rfl
@[simp] theorem State.onCore_mgmtOut (s : State) (f : Core → Core) : (s.onCore f).mgmtOut = s.mgmtOut := rfl
@[simp] theorem State.onCore_msixTab (s : State) (f : Core → Core) : (s.onCore f).msixTab = s.msixTab := rfl
@[simp] theorem State.onCore_vports (s : State) (f : Core → Core) : (s.onCore f).vports = s.vports := rfl
@[simp] theorem State.onCore_lost (s : State) (f : Core → Core) : (s.onCore f).lost = s.lost := rfl
@[simp] theorem State.onCore_stopped (s : State) (f : Core → Core) : (s.onCore f).stopped = s.stopped := rfl
@[simp] theorem State.onCore_recovery (s : State) (f : Core → Core) : (s.onCore f).recovery = s.recovery := rfl
@[simp] theorem State.onCore_power (s : State) (f : Core → Core) : (s.onCore f).power = s.power := rfl
@[simp] theorem State.onCore_deviceId (s : State) (f : Core → Core) : (s.onCore f).deviceId = s.deviceId := rfl
@[simp] theorem State.onCore_peers (s : State) (f : Core → Core) : (s.onCore f).peers = s.peers := rfl
@[simp] theorem State.onCore_images (s : State) (f : Core → Core) : (s.onCore f).images = s.images := rfl
@[simp] theorem State.onCore_drains (s : State) (f : Core → Core) : (s.onCore f).drains = s.drains := rfl
@[simp] theorem State.onCore_lastWake (s : State) (f : Core → Core) : (s.onCore f).lastWake = s.lastWake := rfl
@[simp] theorem State.onCore_fwOk (s : State) (f : Core → Core) : (s.onCore f).fwOk = s.fwOk := rfl
@[simp] theorem State.onCore_waits (s : State) (f : Core → Core) : (s.onCore f).waits = s.waits := rfl
@[simp] theorem State.onCore_agenda (s : State) (f : Core → Core) : (s.onCore f).agenda = s.agenda := rfl
@[simp] theorem State.onCore_turns (s : State) (f : Core → Core) : (s.onCore f).turns = s.turns := rfl
@[simp] theorem State.onCore_ev (s : State) (f : Core → Core) : (s.onCore f).ev = s.ev := rfl
@[simp] theorem State.onCore_clock (s : State) (f : Core → Core) : (s.onCore f).clock = s.clock := rfl
@[simp] theorem State.onCore_stamp (s : State) (f : Core → Core) : (s.onCore f).stamp = s.stamp := rfl
@[simp] theorem State.onCore_freeCount (s : State) (f : Core → Core) : (s.onCore f).freeCount = s.freeCount := rfl
@[simp] theorem State.onCore_poisonOut (s : State) (f : Core → Core) : (s.onCore f).poisonOut = s.poisonOut := rfl
@[simp] theorem State.onCore_drainFull (s : State) (f : Core → Core) : (s.onCore f).drainFull = s.drainFull := rfl

/-! ### State.onPart -/

@[simp] theorem State.onPart_me (s : State) (p : BitVec 2) (f : Partition → Partition) : (s.onPart p f).me = s.me := rfl
@[simp] theorem State.onPart_core (s : State) (p : BitVec 2) (f : Partition → Partition) : (s.onPart p f).core = s.core := rfl
@[simp] theorem State.onPart_tasks (s : State) (p : BitVec 2) (f : Partition → Partition) : (s.onPart p f).tasks = s.tasks := rfl
@[simp] theorem State.onPart_cores (s : State) (p : BitVec 2) (f : Partition → Partition) : (s.onPart p f).cores = s.cores := rfl
@[simp] theorem State.onPart_clusters (s : State) (p : BitVec 2) (f : Partition → Partition) : (s.onPart p f).clusters = s.clusters := rfl
@[simp] theorem State.onPart_slices (s : State) (p : BitVec 2) (f : Partition → Partition) : (s.onPart p f).slices = s.slices := rfl
@[simp] theorem State.onPart_parts (s : State) (p : BitVec 2) (f : Partition → Partition) : (s.onPart p f).parts = wr s.parts p (f (rd s.parts p)) := rfl
@[simp] theorem State.onPart_mem (s : State) (p : BitVec 2) (f : Partition → Partition) : (s.onPart p f).mem = s.mem := rfl
@[simp] theorem State.onPart_cm (s : State) (p : BitVec 2) (f : Partition → Partition) : (s.onPart p f).cm = s.cm := rfl
@[simp] theorem State.onPart_sp (s : State) (p : BitVec 2) (f : Partition → Partition) : (s.onPart p f).sp = s.sp := rfl
@[simp] theorem State.onPart_ls (s : State) (p : BitVec 2) (f : Partition → Partition) : (s.onPart p f).ls = s.ls := rfl
@[simp] theorem State.onPart_poison (s : State) (p : BitVec 2) (f : Partition → Partition) : (s.onPart p f).poison = s.poison := rfl
@[simp] theorem State.onPart_latent (s : State) (p : BitVec 2) (f : Partition → Partition) : (s.onPart p f).latent = s.latent := rfl
@[simp] theorem State.onPart_localPoison (s : State) (p : BitVec 2) (f : Partition → Partition) : (s.onPart p f).localPoison = s.localPoison := rfl
@[simp] theorem State.onPart_localLatent (s : State) (p : BitVec 2) (f : Partition → Partition) : (s.onPart p f).localLatent = s.localLatent := rfl
@[simp] theorem State.onPart_nextTid (s : State) (p : BitVec 2) (f : Partition → Partition) : (s.onPart p f).nextTid = s.nextTid := rfl
@[simp] theorem State.onPart_nextOp (s : State) (p : BitVec 2) (f : Partition → Partition) : (s.onPart p f).nextOp = s.nextOp := rfl
@[simp] theorem State.onPart_roles (s : State) (p : BitVec 2) (f : Partition → Partition) : (s.onPart p f).roles = s.roles := rfl
@[simp] theorem State.onPart_slow (s : State) (p : BitVec 2) (f : Partition → Partition) : (s.onPart p f).slow = s.slow := rfl
@[simp] theorem State.onPart_limit (s : State) (p : BitVec 2) (f : Partition → Partition) : (s.onPart p f).limit = s.limit := rfl
@[simp] theorem State.onPart_throttle (s : State) (p : BitVec 2) (f : Partition → Partition) : (s.onPart p f).throttle = s.throttle := rfl
@[simp] theorem State.onPart_harvested (s : State) (p : BitVec 2) (f : Partition → Partition) : (s.onPart p f).harvested = s.harvested := rfl
@[simp] theorem State.onPart_peri (s : State) (p : BitVec 2) (f : Partition → Partition) : (s.onPart p f).peri = s.peri := rfl
@[simp] theorem State.onPart_pod (s : State) (p : BitVec 2) (f : Partition → Partition) : (s.onPart p f).pod = s.pod := rfl
@[simp] theorem State.onPart_msix (s : State) (p : BitVec 2) (f : Partition → Partition) : (s.onPart p f).msix = s.msix := rfl
@[simp] theorem State.onPart_outs (s : State) (p : BitVec 2) (f : Partition → Partition) : (s.onPart p f).outs = s.outs := rfl
@[simp] theorem State.onPart_ats (s : State) (p : BitVec 2) (f : Partition → Partition) : (s.onPart p f).ats = s.ats := rfl
@[simp] theorem State.onPart_pri (s : State) (p : BitVec 2) (f : Partition → Partition) : (s.onPart p f).pri = s.pri := rfl
@[simp] theorem State.onPart_hostWrites (s : State) (p : BitVec 2) (f : Partition → Partition) : (s.onPart p f).hostWrites = s.hostWrites := rfl
@[simp] theorem State.onPart_sentRemote (s : State) (p : BitVec 2) (f : Partition → Partition) : (s.onPart p f).sentRemote = s.sentRemote := rfl
@[simp] theorem State.onPart_fabricOut (s : State) (p : BitVec 2) (f : Partition → Partition) : (s.onPart p f).fabricOut = s.fabricOut := rfl
@[simp] theorem State.onPart_colls (s : State) (p : BitVec 2) (f : Partition → Partition) : (s.onPart p f).colls = s.colls := rfl
@[simp] theorem State.onPart_capWaits (s : State) (p : BitVec 2) (f : Partition → Partition) : (s.onPart p f).capWaits = s.capWaits := rfl
@[simp] theorem State.onPart_completions (s : State) (p : BitVec 2) (f : Partition → Partition) : (s.onPart p f).completions = s.completions := rfl
@[simp] theorem State.onPart_pcieErr (s : State) (p : BitVec 2) (f : Partition → Partition) : (s.onPart p f).pcieErr = s.pcieErr := rfl
@[simp] theorem State.onPart_peerReplies (s : State) (p : BitVec 2) (f : Partition → Partition) : (s.onPart p f).peerReplies = s.peerReplies := rfl
@[simp] theorem State.onPart_mgmtOut (s : State) (p : BitVec 2) (f : Partition → Partition) : (s.onPart p f).mgmtOut = s.mgmtOut := rfl
@[simp] theorem State.onPart_msixTab (s : State) (p : BitVec 2) (f : Partition → Partition) : (s.onPart p f).msixTab = s.msixTab := rfl
@[simp] theorem State.onPart_vports (s : State) (p : BitVec 2) (f : Partition → Partition) : (s.onPart p f).vports = s.vports := rfl
@[simp] theorem State.onPart_lost (s : State) (p : BitVec 2) (f : Partition → Partition) : (s.onPart p f).lost = s.lost := rfl
@[simp] theorem State.onPart_stopped (s : State) (p : BitVec 2) (f : Partition → Partition) : (s.onPart p f).stopped = s.stopped := rfl
@[simp] theorem State.onPart_recovery (s : State) (p : BitVec 2) (f : Partition → Partition) : (s.onPart p f).recovery = s.recovery := rfl
@[simp] theorem State.onPart_power (s : State) (p : BitVec 2) (f : Partition → Partition) : (s.onPart p f).power = s.power := rfl
@[simp] theorem State.onPart_deviceId (s : State) (p : BitVec 2) (f : Partition → Partition) : (s.onPart p f).deviceId = s.deviceId := rfl
@[simp] theorem State.onPart_peers (s : State) (p : BitVec 2) (f : Partition → Partition) : (s.onPart p f).peers = s.peers := rfl
@[simp] theorem State.onPart_images (s : State) (p : BitVec 2) (f : Partition → Partition) : (s.onPart p f).images = s.images := rfl
@[simp] theorem State.onPart_drains (s : State) (p : BitVec 2) (f : Partition → Partition) : (s.onPart p f).drains = s.drains := rfl
@[simp] theorem State.onPart_lastWake (s : State) (p : BitVec 2) (f : Partition → Partition) : (s.onPart p f).lastWake = s.lastWake := rfl
@[simp] theorem State.onPart_fwOk (s : State) (p : BitVec 2) (f : Partition → Partition) : (s.onPart p f).fwOk = s.fwOk := rfl
@[simp] theorem State.onPart_waits (s : State) (p : BitVec 2) (f : Partition → Partition) : (s.onPart p f).waits = s.waits := rfl
@[simp] theorem State.onPart_agenda (s : State) (p : BitVec 2) (f : Partition → Partition) : (s.onPart p f).agenda = s.agenda := rfl
@[simp] theorem State.onPart_turns (s : State) (p : BitVec 2) (f : Partition → Partition) : (s.onPart p f).turns = s.turns := rfl
@[simp] theorem State.onPart_ev (s : State) (p : BitVec 2) (f : Partition → Partition) : (s.onPart p f).ev = s.ev := rfl
@[simp] theorem State.onPart_clock (s : State) (p : BitVec 2) (f : Partition → Partition) : (s.onPart p f).clock = s.clock := rfl
@[simp] theorem State.onPart_stamp (s : State) (p : BitVec 2) (f : Partition → Partition) : (s.onPart p f).stamp = s.stamp := rfl
@[simp] theorem State.onPart_freeCount (s : State) (p : BitVec 2) (f : Partition → Partition) : (s.onPart p f).freeCount = s.freeCount := rfl
@[simp] theorem State.onPart_poisonOut (s : State) (p : BitVec 2) (f : Partition → Partition) : (s.onPart p f).poisonOut = s.poisonOut := rfl
@[simp] theorem State.onPart_drainFull (s : State) (p : BitVec 2) (f : Partition → Partition) : (s.onPart p f).drainFull = s.drainFull := rfl

/-! ### State.putCluster -/

@[simp] theorem State.putCluster_me (s : State) (x : Cluster) : (s.putCluster x).me = s.me := rfl
@[simp] theorem State.putCluster_core (s : State) (x : Cluster) : (s.putCluster x).core = s.core := rfl
@[simp] theorem State.putCluster_tasks (s : State) (x : Cluster) : (s.putCluster x).tasks = s.tasks := rfl
@[simp] theorem State.putCluster_cores (s : State) (x : Cluster) : (s.putCluster x).cores = s.cores := rfl
@[simp] theorem State.putCluster_clusters (s : State) (x : Cluster) : (s.putCluster x).clusters = putBy Cluster.key x s.clusters := rfl
@[simp] theorem State.putCluster_slices (s : State) (x : Cluster) : (s.putCluster x).slices = s.slices := rfl
@[simp] theorem State.putCluster_parts (s : State) (x : Cluster) : (s.putCluster x).parts = s.parts := rfl
@[simp] theorem State.putCluster_mem (s : State) (x : Cluster) : (s.putCluster x).mem = s.mem := rfl
@[simp] theorem State.putCluster_cm (s : State) (x : Cluster) : (s.putCluster x).cm = s.cm := rfl
@[simp] theorem State.putCluster_sp (s : State) (x : Cluster) : (s.putCluster x).sp = s.sp := rfl
@[simp] theorem State.putCluster_ls (s : State) (x : Cluster) : (s.putCluster x).ls = s.ls := rfl
@[simp] theorem State.putCluster_poison (s : State) (x : Cluster) : (s.putCluster x).poison = s.poison := rfl
@[simp] theorem State.putCluster_latent (s : State) (x : Cluster) : (s.putCluster x).latent = s.latent := rfl
@[simp] theorem State.putCluster_localPoison (s : State) (x : Cluster) : (s.putCluster x).localPoison = s.localPoison := rfl
@[simp] theorem State.putCluster_localLatent (s : State) (x : Cluster) : (s.putCluster x).localLatent = s.localLatent := rfl
@[simp] theorem State.putCluster_nextTid (s : State) (x : Cluster) : (s.putCluster x).nextTid = s.nextTid := rfl
@[simp] theorem State.putCluster_nextOp (s : State) (x : Cluster) : (s.putCluster x).nextOp = s.nextOp := rfl
@[simp] theorem State.putCluster_roles (s : State) (x : Cluster) : (s.putCluster x).roles = s.roles := rfl
@[simp] theorem State.putCluster_slow (s : State) (x : Cluster) : (s.putCluster x).slow = s.slow := rfl
@[simp] theorem State.putCluster_limit (s : State) (x : Cluster) : (s.putCluster x).limit = s.limit := rfl
@[simp] theorem State.putCluster_throttle (s : State) (x : Cluster) : (s.putCluster x).throttle = s.throttle := rfl
@[simp] theorem State.putCluster_harvested (s : State) (x : Cluster) : (s.putCluster x).harvested = s.harvested := rfl
@[simp] theorem State.putCluster_peri (s : State) (x : Cluster) : (s.putCluster x).peri = s.peri := rfl
@[simp] theorem State.putCluster_pod (s : State) (x : Cluster) : (s.putCluster x).pod = s.pod := rfl
@[simp] theorem State.putCluster_msix (s : State) (x : Cluster) : (s.putCluster x).msix = s.msix := rfl
@[simp] theorem State.putCluster_outs (s : State) (x : Cluster) : (s.putCluster x).outs = s.outs := rfl
@[simp] theorem State.putCluster_ats (s : State) (x : Cluster) : (s.putCluster x).ats = s.ats := rfl
@[simp] theorem State.putCluster_pri (s : State) (x : Cluster) : (s.putCluster x).pri = s.pri := rfl
@[simp] theorem State.putCluster_hostWrites (s : State) (x : Cluster) : (s.putCluster x).hostWrites = s.hostWrites := rfl
@[simp] theorem State.putCluster_sentRemote (s : State) (x : Cluster) : (s.putCluster x).sentRemote = s.sentRemote := rfl
@[simp] theorem State.putCluster_fabricOut (s : State) (x : Cluster) : (s.putCluster x).fabricOut = s.fabricOut := rfl
@[simp] theorem State.putCluster_colls (s : State) (x : Cluster) : (s.putCluster x).colls = s.colls := rfl
@[simp] theorem State.putCluster_capWaits (s : State) (x : Cluster) : (s.putCluster x).capWaits = s.capWaits := rfl
@[simp] theorem State.putCluster_completions (s : State) (x : Cluster) : (s.putCluster x).completions = s.completions := rfl
@[simp] theorem State.putCluster_pcieErr (s : State) (x : Cluster) : (s.putCluster x).pcieErr = s.pcieErr := rfl
@[simp] theorem State.putCluster_peerReplies (s : State) (x : Cluster) : (s.putCluster x).peerReplies = s.peerReplies := rfl
@[simp] theorem State.putCluster_mgmtOut (s : State) (x : Cluster) : (s.putCluster x).mgmtOut = s.mgmtOut := rfl
@[simp] theorem State.putCluster_msixTab (s : State) (x : Cluster) : (s.putCluster x).msixTab = s.msixTab := rfl
@[simp] theorem State.putCluster_vports (s : State) (x : Cluster) : (s.putCluster x).vports = s.vports := rfl
@[simp] theorem State.putCluster_lost (s : State) (x : Cluster) : (s.putCluster x).lost = s.lost := rfl
@[simp] theorem State.putCluster_stopped (s : State) (x : Cluster) : (s.putCluster x).stopped = s.stopped := rfl
@[simp] theorem State.putCluster_recovery (s : State) (x : Cluster) : (s.putCluster x).recovery = s.recovery := rfl
@[simp] theorem State.putCluster_power (s : State) (x : Cluster) : (s.putCluster x).power = s.power := rfl
@[simp] theorem State.putCluster_deviceId (s : State) (x : Cluster) : (s.putCluster x).deviceId = s.deviceId := rfl
@[simp] theorem State.putCluster_peers (s : State) (x : Cluster) : (s.putCluster x).peers = s.peers := rfl
@[simp] theorem State.putCluster_images (s : State) (x : Cluster) : (s.putCluster x).images = s.images := rfl
@[simp] theorem State.putCluster_drains (s : State) (x : Cluster) : (s.putCluster x).drains = s.drains := rfl
@[simp] theorem State.putCluster_lastWake (s : State) (x : Cluster) : (s.putCluster x).lastWake = s.lastWake := rfl
@[simp] theorem State.putCluster_fwOk (s : State) (x : Cluster) : (s.putCluster x).fwOk = s.fwOk := rfl
@[simp] theorem State.putCluster_waits (s : State) (x : Cluster) : (s.putCluster x).waits = s.waits := rfl
@[simp] theorem State.putCluster_agenda (s : State) (x : Cluster) : (s.putCluster x).agenda = s.agenda := rfl
@[simp] theorem State.putCluster_turns (s : State) (x : Cluster) : (s.putCluster x).turns = s.turns := rfl
@[simp] theorem State.putCluster_ev (s : State) (x : Cluster) : (s.putCluster x).ev = s.ev := rfl
@[simp] theorem State.putCluster_clock (s : State) (x : Cluster) : (s.putCluster x).clock = s.clock := rfl
@[simp] theorem State.putCluster_stamp (s : State) (x : Cluster) : (s.putCluster x).stamp = s.stamp := rfl
@[simp] theorem State.putCluster_freeCount (s : State) (x : Cluster) : (s.putCluster x).freeCount = s.freeCount := rfl
@[simp] theorem State.putCluster_poisonOut (s : State) (x : Cluster) : (s.putCluster x).poisonOut = s.poisonOut := rfl
@[simp] theorem State.putCluster_drainFull (s : State) (x : Cluster) : (s.putCluster x).drainFull = s.drainFull := rfl

/-! ### State.putSlice -/

@[simp] theorem State.putSlice_me (s : State) (x : Slice) : (s.putSlice x).me = s.me := rfl
@[simp] theorem State.putSlice_core (s : State) (x : Slice) : (s.putSlice x).core = s.core := rfl
@[simp] theorem State.putSlice_tasks (s : State) (x : Slice) : (s.putSlice x).tasks = s.tasks := rfl
@[simp] theorem State.putSlice_cores (s : State) (x : Slice) : (s.putSlice x).cores = s.cores := rfl
@[simp] theorem State.putSlice_clusters (s : State) (x : Slice) : (s.putSlice x).clusters = s.clusters := rfl
@[simp] theorem State.putSlice_slices (s : State) (x : Slice) : (s.putSlice x).slices = putBy Slice.key x s.slices := rfl
@[simp] theorem State.putSlice_parts (s : State) (x : Slice) : (s.putSlice x).parts = s.parts := rfl
@[simp] theorem State.putSlice_mem (s : State) (x : Slice) : (s.putSlice x).mem = s.mem := rfl
@[simp] theorem State.putSlice_cm (s : State) (x : Slice) : (s.putSlice x).cm = s.cm := rfl
@[simp] theorem State.putSlice_sp (s : State) (x : Slice) : (s.putSlice x).sp = s.sp := rfl
@[simp] theorem State.putSlice_ls (s : State) (x : Slice) : (s.putSlice x).ls = s.ls := rfl
@[simp] theorem State.putSlice_poison (s : State) (x : Slice) : (s.putSlice x).poison = s.poison := rfl
@[simp] theorem State.putSlice_latent (s : State) (x : Slice) : (s.putSlice x).latent = s.latent := rfl
@[simp] theorem State.putSlice_localPoison (s : State) (x : Slice) : (s.putSlice x).localPoison = s.localPoison := rfl
@[simp] theorem State.putSlice_localLatent (s : State) (x : Slice) : (s.putSlice x).localLatent = s.localLatent := rfl
@[simp] theorem State.putSlice_nextTid (s : State) (x : Slice) : (s.putSlice x).nextTid = s.nextTid := rfl
@[simp] theorem State.putSlice_nextOp (s : State) (x : Slice) : (s.putSlice x).nextOp = s.nextOp := rfl
@[simp] theorem State.putSlice_roles (s : State) (x : Slice) : (s.putSlice x).roles = s.roles := rfl
@[simp] theorem State.putSlice_slow (s : State) (x : Slice) : (s.putSlice x).slow = s.slow := rfl
@[simp] theorem State.putSlice_limit (s : State) (x : Slice) : (s.putSlice x).limit = s.limit := rfl
@[simp] theorem State.putSlice_throttle (s : State) (x : Slice) : (s.putSlice x).throttle = s.throttle := rfl
@[simp] theorem State.putSlice_harvested (s : State) (x : Slice) : (s.putSlice x).harvested = s.harvested := rfl
@[simp] theorem State.putSlice_peri (s : State) (x : Slice) : (s.putSlice x).peri = s.peri := rfl
@[simp] theorem State.putSlice_pod (s : State) (x : Slice) : (s.putSlice x).pod = s.pod := rfl
@[simp] theorem State.putSlice_msix (s : State) (x : Slice) : (s.putSlice x).msix = s.msix := rfl
@[simp] theorem State.putSlice_outs (s : State) (x : Slice) : (s.putSlice x).outs = s.outs := rfl
@[simp] theorem State.putSlice_ats (s : State) (x : Slice) : (s.putSlice x).ats = s.ats := rfl
@[simp] theorem State.putSlice_pri (s : State) (x : Slice) : (s.putSlice x).pri = s.pri := rfl
@[simp] theorem State.putSlice_hostWrites (s : State) (x : Slice) : (s.putSlice x).hostWrites = s.hostWrites := rfl
@[simp] theorem State.putSlice_sentRemote (s : State) (x : Slice) : (s.putSlice x).sentRemote = s.sentRemote := rfl
@[simp] theorem State.putSlice_fabricOut (s : State) (x : Slice) : (s.putSlice x).fabricOut = s.fabricOut := rfl
@[simp] theorem State.putSlice_colls (s : State) (x : Slice) : (s.putSlice x).colls = s.colls := rfl
@[simp] theorem State.putSlice_capWaits (s : State) (x : Slice) : (s.putSlice x).capWaits = s.capWaits := rfl
@[simp] theorem State.putSlice_completions (s : State) (x : Slice) : (s.putSlice x).completions = s.completions := rfl
@[simp] theorem State.putSlice_pcieErr (s : State) (x : Slice) : (s.putSlice x).pcieErr = s.pcieErr := rfl
@[simp] theorem State.putSlice_peerReplies (s : State) (x : Slice) : (s.putSlice x).peerReplies = s.peerReplies := rfl
@[simp] theorem State.putSlice_mgmtOut (s : State) (x : Slice) : (s.putSlice x).mgmtOut = s.mgmtOut := rfl
@[simp] theorem State.putSlice_msixTab (s : State) (x : Slice) : (s.putSlice x).msixTab = s.msixTab := rfl
@[simp] theorem State.putSlice_vports (s : State) (x : Slice) : (s.putSlice x).vports = s.vports := rfl
@[simp] theorem State.putSlice_lost (s : State) (x : Slice) : (s.putSlice x).lost = s.lost := rfl
@[simp] theorem State.putSlice_stopped (s : State) (x : Slice) : (s.putSlice x).stopped = s.stopped := rfl
@[simp] theorem State.putSlice_recovery (s : State) (x : Slice) : (s.putSlice x).recovery = s.recovery := rfl
@[simp] theorem State.putSlice_power (s : State) (x : Slice) : (s.putSlice x).power = s.power := rfl
@[simp] theorem State.putSlice_deviceId (s : State) (x : Slice) : (s.putSlice x).deviceId = s.deviceId := rfl
@[simp] theorem State.putSlice_peers (s : State) (x : Slice) : (s.putSlice x).peers = s.peers := rfl
@[simp] theorem State.putSlice_images (s : State) (x : Slice) : (s.putSlice x).images = s.images := rfl
@[simp] theorem State.putSlice_drains (s : State) (x : Slice) : (s.putSlice x).drains = s.drains := rfl
@[simp] theorem State.putSlice_lastWake (s : State) (x : Slice) : (s.putSlice x).lastWake = s.lastWake := rfl
@[simp] theorem State.putSlice_fwOk (s : State) (x : Slice) : (s.putSlice x).fwOk = s.fwOk := rfl
@[simp] theorem State.putSlice_waits (s : State) (x : Slice) : (s.putSlice x).waits = s.waits := rfl
@[simp] theorem State.putSlice_agenda (s : State) (x : Slice) : (s.putSlice x).agenda = s.agenda := rfl
@[simp] theorem State.putSlice_turns (s : State) (x : Slice) : (s.putSlice x).turns = s.turns := rfl
@[simp] theorem State.putSlice_ev (s : State) (x : Slice) : (s.putSlice x).ev = s.ev := rfl
@[simp] theorem State.putSlice_clock (s : State) (x : Slice) : (s.putSlice x).clock = s.clock := rfl
@[simp] theorem State.putSlice_stamp (s : State) (x : Slice) : (s.putSlice x).stamp = s.stamp := rfl
@[simp] theorem State.putSlice_freeCount (s : State) (x : Slice) : (s.putSlice x).freeCount = s.freeCount := rfl
@[simp] theorem State.putSlice_poisonOut (s : State) (x : Slice) : (s.putSlice x).poisonOut = s.poisonOut := rfl
@[simp] theorem State.putSlice_drainFull (s : State) (x : Slice) : (s.putSlice x).drainFull = s.drainFull := rfl

/-! ### Task.writeG -/

@[simp] theorem Task.writeG_tid (t : Task) (r : GReg) (x : Word) : (t.writeG r x).tid = t.tid := rfl
@[simp] theorem Task.writeG_pid (t : Task) (r : GReg) (x : Word) : (t.writeG r x).pid = t.pid := rfl
@[simp] theorem Task.writeG_asid (t : Task) (r : GReg) (x : Word) : (t.writeG r x).asid = t.asid := rfl
@[simp] theorem Task.writeG_st (t : Task) (r : GReg) (x : Word) : (t.writeG r x).st = t.st := rfl
@[simp] theorem Task.writeG_pc (t : Task) (r : GReg) (x : Word) : (t.writeG r x).pc = t.pc := rfl
@[simp] theorem Task.writeG_v (t : Task) (r : GReg) (x : Word) : (t.writeG r x).v = t.v := rfl
@[simp] theorem Task.writeG_q (t : Task) (r : GReg) (x : Word) : (t.writeG r x).q = t.q := rfl
@[simp] theorem Task.writeG_fflags (t : Task) (r : GReg) (x : Word) : (t.writeG r x).fflags = t.fflags := rfl
@[simp] theorem Task.writeG_self (t : Task) (r : GReg) (x : Word) : (t.writeG r x).self = t.self := rfl
@[simp] theorem Task.writeG_mclk (t : Task) (r : GReg) (x : Word) : (t.writeG r x).mclk = t.mclk := rfl
@[simp] theorem Task.writeG_budget (t : Task) (r : GReg) (x : Word) : (t.writeG r x).budget = t.budget := rfl
@[simp] theorem Task.writeG_spawned (t : Task) (r : GReg) (x : Word) : (t.writeG r x).spawned = t.spawned := rfl
@[simp] theorem Task.writeG_cause (t : Task) (r : GReg) (x : Word) : (t.writeG r x).cause = t.cause := rfl
@[simp] theorem Task.writeG_tval (t : Task) (r : GReg) (x : Word) : (t.writeG r x).tval = t.tval := rfl
@[simp] theorem Task.writeG_tpc (t : Task) (r : GReg) (x : Word) : (t.writeG r x).tpc = t.tpc := rfl
@[simp] theorem Task.writeG_thandler (t : Task) (r : GReg) (x : Word) : (t.writeG r x).thandler = t.thandler := rfl
@[simp] theorem Task.writeG_nuddef (t : Task) (r : GReg) (x : Word) : (t.writeG r x).nuddef = t.nuddef := rfl
@[simp] theorem Task.writeG_smiss (t : Task) (r : GReg) (x : Word) : (t.writeG r x).smiss = t.smiss := rfl
@[simp] theorem Task.writeG_laviol (t : Task) (r : GReg) (x : Word) : (t.writeG r x).laviol = t.laviol := rfl
@[simp] theorem Task.writeG_lost (t : Task) (r : GReg) (x : Word) : (t.writeG r x).lost = t.lost := rfl
@[simp] theorem Task.writeG_capsule (t : Task) (r : GReg) (x : Word) : (t.writeG r x).capsule = t.capsule := rfl
@[simp] theorem Task.writeG_intrap (t : Task) (r : GReg) (x : Word) : (t.writeG r x).intrap = t.intrap := rfl
@[simp] theorem Task.writeG_det (t : Task) (r : GReg) (x : Word) : (t.writeG r x).det = t.det := rfl
@[simp] theorem Task.writeG_replayable (t : Task) (r : GReg) (x : Word) : (t.writeG r x).replayable = t.replayable := rfl
@[simp] theorem Task.writeG_tw (t : Task) (r : GReg) (x : Word) : (t.writeG r x).tw = t.tw := rfl
@[simp] theorem Task.writeG_resultSlot (t : Task) (r : GReg) (x : Word) : (t.writeG r x).resultSlot = t.resultSlot := rfl
@[simp] theorem Task.writeG_launched (t : Task) (r : GReg) (x : Word) : (t.writeG r x).launched = t.launched := rfl
@[simp] theorem Task.writeG_tag (t : Task) (r : GReg) (x : Word) : (t.writeG r x).tag = t.tag := rfl
@[simp] theorem Task.writeG_parkCause (t : Task) (r : GReg) (x : Word) : (t.writeG r x).parkCause = t.parkCause := rfl
@[simp] theorem Task.writeG_parkArg (t : Task) (r : GReg) (x : Word) : (t.writeG r x).parkArg = t.parkArg := rfl
@[simp] theorem Task.writeG_trapTval (t : Task) (r : GReg) (x : Word) : (t.writeG r x).trapTval = t.trapTval := rfl
@[simp] theorem Task.writeG_core (t : Task) (r : GReg) (x : Word) : (t.writeG r x).core = t.core := rfl
@[simp] theorem Task.writeG_cl (t : Task) (r : GReg) (x : Word) : (t.writeG r x).cl = t.cl := rfl
@[simp] theorem Task.writeG_slot (t : Task) (r : GReg) (x : Word) : (t.writeG r x).slot = t.slot := rfl
@[simp] theorem Task.writeG_away (t : Task) (r : GReg) (x : Word) : (t.writeG r x).away = t.away := rfl
@[simp] theorem Task.writeG_imgAway (t : Task) (r : GReg) (x : Word) : (t.writeG r x).imgAway = t.imgAway := rfl
@[simp] theorem Task.writeG_mxAway (t : Task) (r : GReg) (x : Word) : (t.writeG r x).mxAway = t.mxAway := rfl
@[simp] theorem Task.writeG_ctxBad (t : Task) (r : GReg) (x : Word) : (t.writeG r x).ctxBad = t.ctxBad := rfl
@[simp] theorem Task.writeG_desched (t : Task) (r : GReg) (x : Word) : (t.writeG r x).desched = t.desched := rfl
@[simp] theorem Task.writeG_dispatched (t : Task) (r : GReg) (x : Word) : (t.writeG r x).dispatched = t.dispatched := rfl
@[simp] theorem Task.writeG_ran (t : Task) (r : GReg) (x : Word) : (t.writeG r x).ran = t.ran := rfl
@[simp] theorem Task.writeG_rollbacks (t : Task) (r : GReg) (x : Word) : (t.writeG r x).rollbacks = t.rollbacks := rfl
@[simp] theorem Task.writeG_cap (t : Task) (r : GReg) (x : Word) : (t.writeG r x).cap = t.cap := rfl
@[simp] theorem Task.writeG_ret (t : Task) (r : GReg) (x : Word) : (t.writeG r x).ret = t.ret := rfl
@[simp] theorem Task.writeG_spill (t : Task) (r : GReg) (x : Word) : (t.writeG r x).spill = t.spill := rfl
@[simp] theorem Task.writeG_staged (t : Task) (r : GReg) (x : Word) : (t.writeG r x).staged = t.staged := rfl
@[simp] theorem Task.writeG_stagedCore (t : Task) (r : GReg) (x : Word) : (t.writeG r x).stagedCore = t.stagedCore := rfl
@[simp] theorem Task.writeG_shadows (t : Task) (r : GReg) (x : Word) : (t.writeG r x).shadows = t.shadows := rfl
@[simp] theorem Task.writeG_retired (t : Task) (r : GReg) (x : Word) : (t.writeG r x).retired = t.retired := rfl
@[simp] theorem Task.writeG_mctx (t : Task) (r : GReg) (x : Word) : (t.writeG r x).mctx = t.mctx := rfl
@[simp] theorem Task.writeG_reissue (t : Task) (r : GReg) (x : Word) : (t.writeG r x).reissue = t.reissue := rfl
@[simp] theorem Task.writeG_msg (t : Task) (r : GReg) (x : Word) : (t.writeG r x).msg = t.msg := rfl
@[simp] theorem Task.writeG_sends (t : Task) (r : GReg) (x : Word) : (t.writeG r x).sends = t.sends := rfl
@[simp] theorem Task.writeG_started (t : Task) (r : GReg) (x : Word) : (t.writeG r x).started = t.started := rfl
@[simp] theorem Task.writeG_retiring (t : Task) (r : GReg) (x : Word) : (t.writeG r x).retiring = t.retiring := rfl
@[simp] theorem Task.writeG_detSpawn (t : Task) (r : GReg) (x : Word) : (t.writeG r x).detSpawn = t.detSpawn := rfl
@[simp] theorem Task.writeG_unseen (t : Task) (r : GReg) (x : Word) : (t.writeG r x).unseen = t.unseen := rfl
@[simp] theorem Task.writeG_relStaged (t : Task) (r : GReg) (x : Word) : (t.writeG r x).relStaged = t.relStaged := rfl

/-! ### Task.writeQ -/

@[simp] theorem Task.writeQ_tid (t : Task) (r : QReg) (x : Word) : (t.writeQ r x).tid = t.tid := rfl
@[simp] theorem Task.writeQ_pid (t : Task) (r : QReg) (x : Word) : (t.writeQ r x).pid = t.pid := rfl
@[simp] theorem Task.writeQ_asid (t : Task) (r : QReg) (x : Word) : (t.writeQ r x).asid = t.asid := rfl
@[simp] theorem Task.writeQ_st (t : Task) (r : QReg) (x : Word) : (t.writeQ r x).st = t.st := rfl
@[simp] theorem Task.writeQ_pc (t : Task) (r : QReg) (x : Word) : (t.writeQ r x).pc = t.pc := rfl
@[simp] theorem Task.writeQ_g (t : Task) (r : QReg) (x : Word) : (t.writeQ r x).g = t.g := rfl
@[simp] theorem Task.writeQ_v (t : Task) (r : QReg) (x : Word) : (t.writeQ r x).v = t.v := rfl
@[simp] theorem Task.writeQ_fflags (t : Task) (r : QReg) (x : Word) : (t.writeQ r x).fflags = t.fflags := rfl
@[simp] theorem Task.writeQ_self (t : Task) (r : QReg) (x : Word) : (t.writeQ r x).self = t.self := rfl
@[simp] theorem Task.writeQ_mclk (t : Task) (r : QReg) (x : Word) : (t.writeQ r x).mclk = t.mclk := rfl
@[simp] theorem Task.writeQ_budget (t : Task) (r : QReg) (x : Word) : (t.writeQ r x).budget = t.budget := rfl
@[simp] theorem Task.writeQ_spawned (t : Task) (r : QReg) (x : Word) : (t.writeQ r x).spawned = t.spawned := rfl
@[simp] theorem Task.writeQ_cause (t : Task) (r : QReg) (x : Word) : (t.writeQ r x).cause = t.cause := rfl
@[simp] theorem Task.writeQ_tval (t : Task) (r : QReg) (x : Word) : (t.writeQ r x).tval = t.tval := rfl
@[simp] theorem Task.writeQ_tpc (t : Task) (r : QReg) (x : Word) : (t.writeQ r x).tpc = t.tpc := rfl
@[simp] theorem Task.writeQ_thandler (t : Task) (r : QReg) (x : Word) : (t.writeQ r x).thandler = t.thandler := rfl
@[simp] theorem Task.writeQ_nuddef (t : Task) (r : QReg) (x : Word) : (t.writeQ r x).nuddef = t.nuddef := rfl
@[simp] theorem Task.writeQ_smiss (t : Task) (r : QReg) (x : Word) : (t.writeQ r x).smiss = t.smiss := rfl
@[simp] theorem Task.writeQ_laviol (t : Task) (r : QReg) (x : Word) : (t.writeQ r x).laviol = t.laviol := rfl
@[simp] theorem Task.writeQ_lost (t : Task) (r : QReg) (x : Word) : (t.writeQ r x).lost = t.lost := rfl
@[simp] theorem Task.writeQ_capsule (t : Task) (r : QReg) (x : Word) : (t.writeQ r x).capsule = t.capsule := rfl
@[simp] theorem Task.writeQ_intrap (t : Task) (r : QReg) (x : Word) : (t.writeQ r x).intrap = t.intrap := rfl
@[simp] theorem Task.writeQ_det (t : Task) (r : QReg) (x : Word) : (t.writeQ r x).det = t.det := rfl
@[simp] theorem Task.writeQ_replayable (t : Task) (r : QReg) (x : Word) : (t.writeQ r x).replayable = t.replayable := rfl
@[simp] theorem Task.writeQ_tw (t : Task) (r : QReg) (x : Word) : (t.writeQ r x).tw = t.tw := rfl
@[simp] theorem Task.writeQ_resultSlot (t : Task) (r : QReg) (x : Word) : (t.writeQ r x).resultSlot = t.resultSlot := rfl
@[simp] theorem Task.writeQ_launched (t : Task) (r : QReg) (x : Word) : (t.writeQ r x).launched = t.launched := rfl
@[simp] theorem Task.writeQ_tag (t : Task) (r : QReg) (x : Word) : (t.writeQ r x).tag = t.tag := rfl
@[simp] theorem Task.writeQ_parkCause (t : Task) (r : QReg) (x : Word) : (t.writeQ r x).parkCause = t.parkCause := rfl
@[simp] theorem Task.writeQ_parkArg (t : Task) (r : QReg) (x : Word) : (t.writeQ r x).parkArg = t.parkArg := rfl
@[simp] theorem Task.writeQ_trapTval (t : Task) (r : QReg) (x : Word) : (t.writeQ r x).trapTval = t.trapTval := rfl
@[simp] theorem Task.writeQ_core (t : Task) (r : QReg) (x : Word) : (t.writeQ r x).core = t.core := rfl
@[simp] theorem Task.writeQ_cl (t : Task) (r : QReg) (x : Word) : (t.writeQ r x).cl = t.cl := rfl
@[simp] theorem Task.writeQ_slot (t : Task) (r : QReg) (x : Word) : (t.writeQ r x).slot = t.slot := rfl
@[simp] theorem Task.writeQ_away (t : Task) (r : QReg) (x : Word) : (t.writeQ r x).away = t.away := rfl
@[simp] theorem Task.writeQ_imgAway (t : Task) (r : QReg) (x : Word) : (t.writeQ r x).imgAway = t.imgAway := rfl
@[simp] theorem Task.writeQ_mxAway (t : Task) (r : QReg) (x : Word) : (t.writeQ r x).mxAway = t.mxAway := rfl
@[simp] theorem Task.writeQ_ctxBad (t : Task) (r : QReg) (x : Word) : (t.writeQ r x).ctxBad = t.ctxBad := rfl
@[simp] theorem Task.writeQ_desched (t : Task) (r : QReg) (x : Word) : (t.writeQ r x).desched = t.desched := rfl
@[simp] theorem Task.writeQ_dispatched (t : Task) (r : QReg) (x : Word) : (t.writeQ r x).dispatched = t.dispatched := rfl
@[simp] theorem Task.writeQ_ran (t : Task) (r : QReg) (x : Word) : (t.writeQ r x).ran = t.ran := rfl
@[simp] theorem Task.writeQ_rollbacks (t : Task) (r : QReg) (x : Word) : (t.writeQ r x).rollbacks = t.rollbacks := rfl
@[simp] theorem Task.writeQ_cap (t : Task) (r : QReg) (x : Word) : (t.writeQ r x).cap = t.cap := rfl
@[simp] theorem Task.writeQ_ret (t : Task) (r : QReg) (x : Word) : (t.writeQ r x).ret = t.ret := rfl
@[simp] theorem Task.writeQ_spill (t : Task) (r : QReg) (x : Word) : (t.writeQ r x).spill = t.spill := rfl
@[simp] theorem Task.writeQ_staged (t : Task) (r : QReg) (x : Word) : (t.writeQ r x).staged = t.staged := rfl
@[simp] theorem Task.writeQ_stagedCore (t : Task) (r : QReg) (x : Word) : (t.writeQ r x).stagedCore = t.stagedCore := rfl
@[simp] theorem Task.writeQ_shadows (t : Task) (r : QReg) (x : Word) : (t.writeQ r x).shadows = t.shadows := rfl
@[simp] theorem Task.writeQ_retired (t : Task) (r : QReg) (x : Word) : (t.writeQ r x).retired = t.retired := rfl
@[simp] theorem Task.writeQ_mctx (t : Task) (r : QReg) (x : Word) : (t.writeQ r x).mctx = t.mctx := rfl
@[simp] theorem Task.writeQ_reissue (t : Task) (r : QReg) (x : Word) : (t.writeQ r x).reissue = t.reissue := rfl
@[simp] theorem Task.writeQ_msg (t : Task) (r : QReg) (x : Word) : (t.writeQ r x).msg = t.msg := rfl
@[simp] theorem Task.writeQ_sends (t : Task) (r : QReg) (x : Word) : (t.writeQ r x).sends = t.sends := rfl
@[simp] theorem Task.writeQ_started (t : Task) (r : QReg) (x : Word) : (t.writeQ r x).started = t.started := rfl
@[simp] theorem Task.writeQ_retiring (t : Task) (r : QReg) (x : Word) : (t.writeQ r x).retiring = t.retiring := rfl
@[simp] theorem Task.writeQ_detSpawn (t : Task) (r : QReg) (x : Word) : (t.writeQ r x).detSpawn = t.detSpawn := rfl
@[simp] theorem Task.writeQ_unseen (t : Task) (r : QReg) (x : Word) : (t.writeQ r x).unseen = t.unseen := rfl
@[simp] theorem Task.writeQ_relStaged (t : Task) (r : QReg) (x : Word) : (t.writeQ r x).relStaged = t.relStaged := rfl

/-! ### Task.writeV -/

@[simp] theorem Task.writeV_tid (t : Task) (r : VReg) (x : Vec) : (t.writeV r x).tid = t.tid := rfl
@[simp] theorem Task.writeV_pid (t : Task) (r : VReg) (x : Vec) : (t.writeV r x).pid = t.pid := rfl
@[simp] theorem Task.writeV_asid (t : Task) (r : VReg) (x : Vec) : (t.writeV r x).asid = t.asid := rfl
@[simp] theorem Task.writeV_st (t : Task) (r : VReg) (x : Vec) : (t.writeV r x).st = t.st := rfl
@[simp] theorem Task.writeV_pc (t : Task) (r : VReg) (x : Vec) : (t.writeV r x).pc = t.pc := rfl
@[simp] theorem Task.writeV_g (t : Task) (r : VReg) (x : Vec) : (t.writeV r x).g = t.g := rfl
@[simp] theorem Task.writeV_q (t : Task) (r : VReg) (x : Vec) : (t.writeV r x).q = t.q := rfl
@[simp] theorem Task.writeV_fflags (t : Task) (r : VReg) (x : Vec) : (t.writeV r x).fflags = t.fflags := rfl
@[simp] theorem Task.writeV_self (t : Task) (r : VReg) (x : Vec) : (t.writeV r x).self = t.self := rfl
@[simp] theorem Task.writeV_mclk (t : Task) (r : VReg) (x : Vec) : (t.writeV r x).mclk = t.mclk := rfl
@[simp] theorem Task.writeV_budget (t : Task) (r : VReg) (x : Vec) : (t.writeV r x).budget = t.budget := rfl
@[simp] theorem Task.writeV_spawned (t : Task) (r : VReg) (x : Vec) : (t.writeV r x).spawned = t.spawned := rfl
@[simp] theorem Task.writeV_cause (t : Task) (r : VReg) (x : Vec) : (t.writeV r x).cause = t.cause := rfl
@[simp] theorem Task.writeV_tval (t : Task) (r : VReg) (x : Vec) : (t.writeV r x).tval = t.tval := rfl
@[simp] theorem Task.writeV_tpc (t : Task) (r : VReg) (x : Vec) : (t.writeV r x).tpc = t.tpc := rfl
@[simp] theorem Task.writeV_thandler (t : Task) (r : VReg) (x : Vec) : (t.writeV r x).thandler = t.thandler := rfl
@[simp] theorem Task.writeV_nuddef (t : Task) (r : VReg) (x : Vec) : (t.writeV r x).nuddef = t.nuddef := rfl
@[simp] theorem Task.writeV_smiss (t : Task) (r : VReg) (x : Vec) : (t.writeV r x).smiss = t.smiss := rfl
@[simp] theorem Task.writeV_laviol (t : Task) (r : VReg) (x : Vec) : (t.writeV r x).laviol = t.laviol := rfl
@[simp] theorem Task.writeV_lost (t : Task) (r : VReg) (x : Vec) : (t.writeV r x).lost = t.lost := rfl
@[simp] theorem Task.writeV_capsule (t : Task) (r : VReg) (x : Vec) : (t.writeV r x).capsule = t.capsule := rfl
@[simp] theorem Task.writeV_intrap (t : Task) (r : VReg) (x : Vec) : (t.writeV r x).intrap = t.intrap := rfl
@[simp] theorem Task.writeV_det (t : Task) (r : VReg) (x : Vec) : (t.writeV r x).det = t.det := rfl
@[simp] theorem Task.writeV_replayable (t : Task) (r : VReg) (x : Vec) : (t.writeV r x).replayable = t.replayable := rfl
@[simp] theorem Task.writeV_tw (t : Task) (r : VReg) (x : Vec) : (t.writeV r x).tw = t.tw := rfl
@[simp] theorem Task.writeV_resultSlot (t : Task) (r : VReg) (x : Vec) : (t.writeV r x).resultSlot = t.resultSlot := rfl
@[simp] theorem Task.writeV_launched (t : Task) (r : VReg) (x : Vec) : (t.writeV r x).launched = t.launched := rfl
@[simp] theorem Task.writeV_tag (t : Task) (r : VReg) (x : Vec) : (t.writeV r x).tag = t.tag := rfl
@[simp] theorem Task.writeV_parkCause (t : Task) (r : VReg) (x : Vec) : (t.writeV r x).parkCause = t.parkCause := rfl
@[simp] theorem Task.writeV_parkArg (t : Task) (r : VReg) (x : Vec) : (t.writeV r x).parkArg = t.parkArg := rfl
@[simp] theorem Task.writeV_trapTval (t : Task) (r : VReg) (x : Vec) : (t.writeV r x).trapTval = t.trapTval := rfl
@[simp] theorem Task.writeV_core (t : Task) (r : VReg) (x : Vec) : (t.writeV r x).core = t.core := rfl
@[simp] theorem Task.writeV_cl (t : Task) (r : VReg) (x : Vec) : (t.writeV r x).cl = t.cl := rfl
@[simp] theorem Task.writeV_slot (t : Task) (r : VReg) (x : Vec) : (t.writeV r x).slot = t.slot := rfl
@[simp] theorem Task.writeV_away (t : Task) (r : VReg) (x : Vec) : (t.writeV r x).away = t.away := rfl
@[simp] theorem Task.writeV_imgAway (t : Task) (r : VReg) (x : Vec) : (t.writeV r x).imgAway = t.imgAway := rfl
@[simp] theorem Task.writeV_mxAway (t : Task) (r : VReg) (x : Vec) : (t.writeV r x).mxAway = t.mxAway := rfl
@[simp] theorem Task.writeV_ctxBad (t : Task) (r : VReg) (x : Vec) : (t.writeV r x).ctxBad = t.ctxBad := rfl
@[simp] theorem Task.writeV_desched (t : Task) (r : VReg) (x : Vec) : (t.writeV r x).desched = t.desched := rfl
@[simp] theorem Task.writeV_dispatched (t : Task) (r : VReg) (x : Vec) : (t.writeV r x).dispatched = t.dispatched := rfl
@[simp] theorem Task.writeV_ran (t : Task) (r : VReg) (x : Vec) : (t.writeV r x).ran = t.ran := rfl
@[simp] theorem Task.writeV_rollbacks (t : Task) (r : VReg) (x : Vec) : (t.writeV r x).rollbacks = t.rollbacks := rfl
@[simp] theorem Task.writeV_cap (t : Task) (r : VReg) (x : Vec) : (t.writeV r x).cap = t.cap := rfl
@[simp] theorem Task.writeV_ret (t : Task) (r : VReg) (x : Vec) : (t.writeV r x).ret = t.ret := rfl
@[simp] theorem Task.writeV_spill (t : Task) (r : VReg) (x : Vec) : (t.writeV r x).spill = t.spill := rfl
@[simp] theorem Task.writeV_staged (t : Task) (r : VReg) (x : Vec) : (t.writeV r x).staged = t.staged := rfl
@[simp] theorem Task.writeV_stagedCore (t : Task) (r : VReg) (x : Vec) : (t.writeV r x).stagedCore = t.stagedCore := rfl
@[simp] theorem Task.writeV_shadows (t : Task) (r : VReg) (x : Vec) : (t.writeV r x).shadows = t.shadows := rfl
@[simp] theorem Task.writeV_retired (t : Task) (r : VReg) (x : Vec) : (t.writeV r x).retired = t.retired := rfl
@[simp] theorem Task.writeV_mctx (t : Task) (r : VReg) (x : Vec) : (t.writeV r x).mctx = t.mctx := rfl
@[simp] theorem Task.writeV_reissue (t : Task) (r : VReg) (x : Vec) : (t.writeV r x).reissue = t.reissue := rfl
@[simp] theorem Task.writeV_msg (t : Task) (r : VReg) (x : Vec) : (t.writeV r x).msg = t.msg := rfl
@[simp] theorem Task.writeV_sends (t : Task) (r : VReg) (x : Vec) : (t.writeV r x).sends = t.sends := rfl
@[simp] theorem Task.writeV_started (t : Task) (r : VReg) (x : Vec) : (t.writeV r x).started = t.started := rfl
@[simp] theorem Task.writeV_retiring (t : Task) (r : VReg) (x : Vec) : (t.writeV r x).retiring = t.retiring := rfl
@[simp] theorem Task.writeV_detSpawn (t : Task) (r : VReg) (x : Vec) : (t.writeV r x).detSpawn = t.detSpawn := rfl
@[simp] theorem Task.writeV_unseen (t : Task) (r : VReg) (x : Vec) : (t.writeV r x).unseen = t.unseen := rfl
@[simp] theorem Task.writeV_relStaged (t : Task) (r : VReg) (x : Vec) : (t.writeV r x).relStaged = t.relStaged := rfl

/-! ### What was written is read -/

@[simp] theorem State.g_zero (s : State) : s.g 0 = 0 := rfl
@[simp] theorem State.q_zero (s : State) : s.q 0 = BitVec.allOnes 64 := rfl

theorem rd_wr {α : Type} {n w : Nat} (v : Vector α n) (r d : BitVec w) (x : α) (h : 2 ^ w ≤ n) :
    rd (wr v d x h) r h = if d = r then x else rd v r h := by
  simp only [rd, wr, Vector.getElem_set, BitVec.toNat_inj]

theorem State.g_setG (s : State) (d r : GReg) (x : Word) : (s.setG d x).g r = if d = r ∧ d ≠ 0 then x else s.g r := by
  show (if r = 0 then 0 else rd (if d = 0 then s.me.g else wr s.me.g d x) r) = if d = r ∧ d ≠ 0 then x else if r = 0 then 0 else rd s.me.g r
  by_cases hd : d = 0
  · rw [if_pos hd, if_neg (c := d = r ∧ d ≠ 0) fun h => h.2 hd]
  · rw [if_neg hd, rd_wr]
    by_cases hr : d = r
    · subst hr; rw [if_neg hd, if_pos rfl, if_pos ⟨rfl, hd⟩]
    · rw [if_neg hr, if_neg (c := d = r ∧ d ≠ 0) fun h => hr h.1]

theorem State.q_setQ (s : State) (d r : QReg) (x : Word) : (s.setQ d x).q r = if d = r ∧ d ≠ 0 then x else s.q r := by
  show (if r = 0 then BitVec.allOnes 64 else rd (if d = 0 then s.me.q else wr s.me.q d x) r) = if d = r ∧ d ≠ 0 then x else if r = 0 then BitVec.allOnes 64 else rd s.me.q r
  by_cases hd : d = 0
  · rw [if_pos hd, if_neg (c := d = r ∧ d ≠ 0) fun h => h.2 hd]
  · rw [if_neg hd, rd_wr]
    by_cases hr : d = r
    · subst hr; rw [if_neg hd, if_pos rfl, if_pos ⟨rfl, hd⟩]
    · rw [if_neg hr, if_neg (c := d = r ∧ d ≠ 0) fun h => hr h.1]

theorem State.v_setV (s : State) (d r : VReg) (x : Vec) : (s.setV d x).v r = if d = r then x else s.v r :=
  rd_wr s.me.v r d x (by decide)

end Sys2Proof.Machine
end

