-- ==== Sys2Proof/Tests/Slice0.lean ====
section
/-!
SUPPORT. Tests: words that decode to their instructions, ill-formed terms that the checks refuse, one step on small states, and for every
statement a state and operands that meet its hypotheses.
-/

namespace Sys2Proof.Tests

open Sys2Proof.Machine

set_option Elab.async false

/-! ### Decoding

The words are laid out from R88 to R99, R122, R180, R241, R282, R315 and R368, with the numbers of R101; those of a family stand with the
instructions that they name. -/

/-- X of form M, and of form F, in the order of R97 and R98. -/
def tM (disp : BitVec 24) (size scope : BitVec 3) (space scale : BitVec 2) (mod nud : BitVec 6) (l1p : BitVec 2) : MX :=
  { disp := disp, size := size, scope := scope, space := space, scale := scale, mod := mod, hint := { nud := nud, l1p := l1p } }

def tF (fmt fmt2 : BitVec 6) (rnd : BitVec 2) (nanp sat : Bool) (opm : BitVec 8) (mask : Option QReg) : FX :=
  { fmt := fmt, rnd := rnd, fmt2 := fmt2, nanp := nanp, sat := sat, opm := opm, mask := mask }

/-- Every word decodes to the instruction beside it, which is well-formed. -/
def tReads (l : List (Nat × Instr)) : Bool := l.all fun p => decide (decodeTableWord 96 p.1 = some p.2) && p.2.wf

theorem test_decode_control : tReads [
    (0x0000_0000_0909_0900_0000_0009, .ill),
    (0x0010_0000_0000_0000_0000_0000, .nop),
    (0x0020_0000_8300_0000_0000_0000, .follow 3),
    (0x0030_0000_0000_0000_0000_0000, .leave),
    (0x0040_0000_0000_0000_0000_0000, .yield),
    (0x0050_0000_0000_0012_3456_7890, .brk 0x1234567890),
    (0x0060_0000_00C5_0000_0000_0007, .trap 7 (.k 5)),
    (0x0070_0000_0900_0000_0000_0103, .sysr 9 0x103),
    (0x0070_0000_090A_0000_0000_1008, .sysrX 9 (.g 10) 8),
    (0x0080_0000_000A_0000_0000_0100, .sysw 0x100 (.g 10)),
    (0x0080_0000_000A_0000_0000_0107, .syswClasstab (.g 10)),
    (0x0080_0000_00C1_0000_0000_010C, .syswLotseed (.k 1)),
    (0x0080_0000_000A_0000_0000_0109, .syswTenscale (.g 10)),
    (0x0090_0000_0000_0000_0000_0000, .ifence),
    (0x00A0_0000_3F00_0000_0000_0000, .getmc 63),
    (0x00B0_0000_0000_0000_0000_0000, .eret),
    (0x00C0_0000_0000_0000_0000_003D, .setnud 61),
    (0x00D0_0000_0000_0000_0000_0000, .unassignedEncoding),
    (0x1300_0000_0000_0000_0000_0000, .unassignedEncoding),
    (0xFFF0_0000_0909_0900_0000_0009, .unassignedEncoding)] = true := by
  decide +kernel

theorem test_decode_integer : tReads [
    (0x0100_0000_0AC4_3F00_0000_0000, .add 10 (.k 4) (.g 63)),
    (0x0110_0000_0AC4_3F00_0000_0000, .sub 10 (.k 4) (.g 63)),
    (0x0120_0000_0AC4_3F00_0000_0000, .mul 10 (.k 4) (.g 63)),
    (0x0130_0000_0AC4_3F00_0000_0000, .mulh 10 (.k 4) (.g 63)),
    (0x0140_0000_0AC4_3F00_0000_0000, .mulhn 10 (.k 4) (.g 63)),
    (0x0150_0000_0AC4_3F00_0000_0000, .div 10 (.k 4) (.g 63)),
    (0x0160_0000_0AC4_3F00_0000_0000, .divn 10 (.k 4) (.g 63)),
    (0x0170_0000_0AC4_3F00_0000_0000, .rem 10 (.k 4) (.g 63)),
    (0x0180_0000_0AC4_3F00_0000_0000, .remn 10 (.k 4) (.g 63)),
    (0x0190_0000_0AC4_3F00_0000_0000, .and 10 (.k 4) (.g 63)),
    (0x01A0_0000_0AC4_3F00_0000_0000, .or 10 (.k 4) (.g 63)),
    (0x01B0_0000_0AC4_3F00_0000_0000, .xor 10 (.k 4) (.g 63)),
    (0x01C0_0000_0AC4_3F00_0000_0000, .andn 10 (.k 4) (.g 63)),
    (0x01D0_0000_0AC4_3F00_0000_0000, .shl 10 (.k 4) (.g 63)),
    (0x01E0_0000_0AC4_3F00_0000_0000, .shr 10 (.k 4) (.g 63)),
    (0x01F0_0000_0AC4_3F00_0000_0000, .sha 10 (.k 4) (.g 63))] = true := by
  decide +kernel

theorem test_decode_immediate : tReads [
    (0x0200_0000_0C01_00FF_FFFF_FFFE, .addi 12 (.g 1) 0xFFFFFFFFFE),
    (0x0210_0000_0C01_00FF_FFFF_FFFE, .muli 12 (.g 1) 0xFFFFFFFFFE),
    (0x0220_0000_0C01_00FF_FFFF_FFFE, .andi 12 (.g 1) 0xFFFFFFFFFE),
    (0x0230_0000_0C01_00FF_FFFF_FFFE, .ori 12 (.g 1) 0xFFFFFFFFFE),
    (0x0240_0000_0C01_00FF_FFFF_FFFE, .xori 12 (.g 1) 0xFFFFFFFFFE),
    (0x0250_0000_0C01_0000_0000_003F, .shli 12 (.g 1) 63),
    (0x0260_0000_0C01_0000_0000_003F, .shri 12 (.g 1) 63),
    (0x0270_0000_0C01_0000_0000_003F, .shai 12 (.g 1) 63),
    (0x0280_0000_0C00_0080_0000_0001, .ldi 12 0x8000000001),
    (0x0290_0000_0C01_00FF_FFFF_FFFE, .ldhi 12 (.g 1) 0xFFFFFFFFFE),
    (0x02A0_0000_8102_0000_0000_0020, .cmpi 1 (.g 2) 2 0)] = true := by
  decide +kernel

theorem test_decode_compare : tReads [
    (0x0300_0000_8702_C300_0000_000B, .cmp 7 (.g 2) (.k 3) 11),
    (0x0310_0000_0A0B_FF00_0000_0000, .sel 10 (.g 11) (.k 63)),
    (0x0320_0000_0A0B_FF00_0000_0000, .min 10 (.g 11) (.k 63)),
    (0x0330_0000_0A0B_FF00_0000_0000, .max 10 (.g 11) (.k 63)),
    (0x0340_0000_0A0B_FF00_0000_0000, .minn 10 (.g 11) (.k 63)),
    (0x0350_0000_0A0B_FF00_0000_0000, .maxn 10 (.g 11) (.k 63)),
    (0x0360_0000_0A0B_0000_0000_0000, .clz 10 11),
    (0x0370_0000_0A0B_0000_0000_0000, .ctz 10 11),
    (0x0380_0000_0A0B_0000_0000_0000, .popc 10 11),
    (0x03B0_0000_0A0B_0000_0000_0000, .abs 10 11),
    (0x0390_0000_0A0B_0000_0000_11E8, .bext 10 11 40 7 true),
    (0x03A0_0000_0AC3_0000_0000_01E8, .bins 10 (.k 3) 40 7),
    (0x03C0_0000_0A0B_0000_0000_001F, .sext 10 11 31),
    (0x03D0_0000_0A0B_0000_0000_000F, .zext 10 11 15)] = true := by
  decide +kernel

theorem test_decode_address : tReads [
    (0x0400_0000_0A0B_0CFF_FFF8_00C0, .lea 10 (.g 11) (.g 12) (tM 16777208 0 0 0 3 0 0 0)),
    (0x0410_0000_0A0B_0C00_0008_003F, .lea2 10 (.g 11) (.g 12) (tM 8 0 0 0 0 63 0 0)),
    (0x0420_0000_0A00_0000_0000_0005, .getid 10 5)] = true := by
  decide +kernel

theorem test_decode_predicate : tReads [
    (0x0500_0000_8182_8700_0000_0000, .pand 1 2 7),
    (0x0510_0000_8182_8700_0000_0000, .por 1 2 7),
    (0x0520_0000_8182_8700_0000_0000, .pxor 1 2 7),
    (0x0560_0000_8182_8700_0000_0000, .pany 1 2 7),
    (0x0570_0000_8182_8700_0000_0000, .pall 1 2 7),
    (0x0530_0000_8182_0000_0000_0000, .pnot 1 2),
    (0x0540_0000_8182_0000_0000_0000, .pmov 1 2),
    (0x0550_0000_0A82_0000_0000_0000, .qmov (.toG 10 2)),
    (0x0550_0000_820A_0000_0000_0000, .qmov (.toQ 2 10)),
    (0x0580_0000_810A_0000_0000_0003, .pset 1 (.g 10) 3)] = true := by
  decide +kernel

theorem test_decode_transfer : tReads [
    (0x0600_0000_0000_00FF_FFFF_FFFE, .bra 0xFFFFFFFFFE),
    (0x0610_0000_0009_0000_0000_0000, .jmp 9),
    (0x0620_0000_0900_0000_0000_0005, .call 9 5),
    (0x0630_0000_090A_0000_0000_0000, .callr 9 10),
    (0x0640_0000_0009_0000_0000_0000, .ret 9),
    (0x0650_0000_0C00_00FF_FFFF_FFFB, .loop 12 0xFFFFFFFFFB),
    (0x0660_0000_000F_0000_0000_0000, .exit (.g 15))] = true := by
  decide +kernel

theorem test_decode_future : tReads [
    (0x0700_0000_0A0B_0C00_0000_0000, .spawn 10 11 12),
    (0x0710_0000_0C14_0000_0000_0000, .spawnr 12 20 0),
    (0x0720_0000_0A0B_0000_0000_8301, .join 10 11 (some 3)),
    (0x0720_0000_0E0D_0000_0000_0000, .join 14 13 none),
    (0x0730_0000_0A0B_0000_0000_8001, .touch 10 11 (some 0)),
    (0x0740_0000_0A0B_0000_0000_8300, .touchq 10 11 3),
    (0x0750_0000_000A_C900_0000_0000, .resolve 10 (.k 9)),
    (0x0760_0000_000A_0B00_0000_0000, .poison 10 (.g 11)),
    (0x0770_0000_000A_0000_0000_0000, .cancel 10),
    (0x0780_0000_0A0B_0000_0000_0000, .fstat 10 11),
    (0x0790_0000_000B_0000_0000_0000, .fdup 11),
    (0x07A0_0000_000B_0000_0000_0000, .fdrop 11),
    (0x07B0_0000_0A00_0000_0000_0000, .self 10),
    (0x07B0_0000_0A00_0000_0000_0001, .selfDup 10)] = true := by
  decide +kernel

theorem test_decode_counter : tReads [
    (0x0800_0000_0002_C100_0010_6000, .ctradd 2 (.k 1) (tM 16 3 0 0 0 0 0 0)),
    (0x0810_0000_0603_0700_0000_7001, .ctrwait 6 3 (.g 7) (tM 0 3 4 0 0 1 0 0)),
    (0x0820_0000_0603_0000_0010_6000, .ctrread 6 3 (tM 16 3 0 0 0 0 0 0)),
    (0x0830_0000_0603_0700_0010_6000, .ctrarm 6 3 (.g 7) (tM 16 3 0 0 0 0 0 0)),
    (0x0840_0000_0603_0000_0010_6000, .ctrdisarm 6 3 (tM 16 3 0 0 0 0 0 0)),
    (0x0850_0000_8203_0700_0010_6000, .ctrwaitq 2 3 (.g 7) (tM 16 3 0 0 0 0 0 0))] = true := by
  decide +kernel

theorem test_decode_atomic : tReads [
    (0x0900_0000_0A02_0500_0010_7000, .aadd 10 2 (.g 5) (tM 16 3 4 0 0 0 0 0)),
    (0x0910_0000_0A02_0500_0010_7000, .amin 10 2 (.g 5) (tM 16 3 4 0 0 0 0 0)),
    (0x0920_0000_0A02_0500_0010_7000, .amax 10 2 (.g 5) (tM 16 3 4 0 0 0 0 0)),
    (0x0930_0000_0A02_0500_0010_7000, .aminn 10 2 (.g 5) (tM 16 3 4 0 0 0 0 0)),
    (0x0940_0000_0A02_0500_0010_7000, .amaxn 10 2 (.g 5) (tM 16 3 4 0 0 0 0 0)),
    (0x0950_0000_0A02_0500_0010_7000, .aand 10 2 (.g 5) (tM 16 3 4 0 0 0 0 0)),
    (0x0960_0000_0A02_0500_0010_7000, .aor 10 2 (.g 5) (tM 16 3 4 0 0 0 0 0)),
    (0x0970_0000_0A02_0500_0010_7000, .axor 10 2 (.g 5) (tM 16 3 4 0 0 0 0 0)),
    (0x0980_0000_0A02_0500_0010_7000, .aswp 10 2 (.g 5) (tM 16 3 4 0 0 0 0 0)),
    (0x0990_0000_0A02_0500_0010_7000, .acas 10 2 (.g 5) (tM 16 3 4 0 0 0 0 0)),
    (0x09A0_0000_0A02_0500_0000_3601, .afadd 10 2 (.g 5) (tM 0 1 5 2 0 1 0 0)),
    (0x09B0_0000_0A02_0500_0000_3601, .afmin 10 2 (.g 5) (tM 0 1 5 2 0 1 0 0)),
    (0x09C0_0000_0A02_0500_0000_3601, .afmax 10 2 (.g 5) (tM 0 1 5 2 0 1 0 0))] = true := by
  decide +kernel

theorem test_decode_reduction : tReads [
    (0x0A00_0020_0002_0500_0008_4000, .rdadd 2 (.g 5) (tM 8 2 0 0 0 0 0 2)),
    (0x0A10_0020_0002_0500_0008_4001, .rdmin 2 (.g 5) (tM 8 2 0 0 0 1 0 2)),
    (0x0A20_0020_0002_0500_0008_4001, .rdmax 2 (.g 5) (tM 8 2 0 0 0 1 0 2)),
    (0x0A30_0020_0002_0500_0008_4000, .rdor 2 (.g 5) (tM 8 2 0 0 0 0 0 2)),
    (0x0A40_0020_0002_0500_0000_4000, .rdfadd 2 (.g 5) (tM 0 2 0 0 0 0 0 2)),
    (0x0A50_0000_0002_0000_0000_0000, .rdflush 2 (tM 0 0 0 0 0 0 0 0)),
    (0x0B00_0000_00C1_C400_0000_0000, .fence 1 4)] = true := by
  decide +kernel

theorem test_decode_message : tReads [
    (0x0C00_0000_8108_0900_0000_6000, .qput 1 8 (.g 9) (tM 0 3 0 0 0 0 0 0)),
    (0x0C10_0000_8108_4900_0000_C000, .qget 1 8 (.v 9) (tM 0 6 0 0 0 0 0 0)),
    (0x0C20_0000_0A04_1432_0000_0000, .msend 10 4 20 3 2),
    (0x0C30_0000_0A04_5432_0000_0000, .msendv 10 4 20 3 2),
    (0x0C40_0000_0000_0000_0000_0006, .mmask 6),
    (0x0C50_0000_0000_0000_0000_7FFF, .munmask 0x7FFF),
    (0x0C60_0000_4500_C200_0000_0000, .marg (.v 5) (.k 2)),
    (0x0C70_0000_0A00_0000_0000_0000, .mid 10)] = true := by
  decide +kernel

theorem test_decode_capsule : tReads [
    (0x0D00_0000_0002_0000_0080_0000, .capenter 2 (tM 128 0 0 0 0 0 0 0)),
    (0x0D10_0000_0000_0000_0000_0000, .capstep { nud := 0, l1p := 0 }),
    (0x0D20_0000_0000_0000_0000_0000, .capexit { nud := 0, l1p := 0 }),
    (0x0D30_0000_0A00_0000_0000_0002, .capres 10 2 { nud := 0, l1p := 0 }),
    (0x0E00_0000_000A_0000_0000_0000, .coll 10),
    (0x0E10_0000_000A_0000_0000_0000, .collwait 10)] = true := by
  decide +kernel

theorem test_decode_system : tReads [
    (0x0F00_0000_0004_0000_0000_0007, .tlbinvPage 4 7),
    (0x0F00_0000_0004_0500_0001_0007, .tlbinvRange 4 5 7),
    (0x0F00_0000_0000_0000_0002_0007, .tlbinvAsid 7),
    (0x0F00_0000_0000_0000_0003_0007, .tlbinvAsidg 7),
    (0x0F00_0000_0000_0000_0004_0000, .tlbinvAll),
    (0x0F10_0000_0A00_0000_0000_0000, .replayAll 10),
    (0x0F10_0000_0A00_0B00_0001_0000, .replayResume 10 11),
    (0x0F10_0000_0A00_0B00_0002_0000, .replayFail 10 11),
    (0x0F20_0000_0A02_0300_0000_0000, .ctxsave 10 2 3),
    (0x0F20_0000_0A02_0300_0001_0000, .ctxsaveT 10 2 3),
    (0x0F30_0000_0A02_0000_0000_0000, .ctxload 10 2),
    (0x0F30_0000_0A02_0B00_0001_0000, .ctxloadT 10 2 11)] = true := by
  decide +kernel

theorem test_decode_memory : tReads [
    (0x1000_0FC0_0B01_0000_0008_6000, .ld 11 (.g 1) (.g 0) (tM 8 3 0 0 0 0 63 0)),
    (0x1010_0000_1002_0000_0038_2000, .st 16 (.g 2) (.g 0) (tM 56 1 0 0 0 0 0 0)),
    (0x1020_0000_0B01_0000_0000_4C01, .lda 11 (.g 1) (.g 0) (tM 0 2 3 0 0 1 0 0)),
    (0x1030_0000_0B01_C200_0000_74C0, .stl 11 (.g 1) (.k 2) (tM 0 3 5 0 3 0 0 0)),
    (0x1040_0000_0001_0200_0000_0001, .pref (.g 1) (.g 2) (tM 0 0 0 0 0 1 0 0)),
    (0x1050_0000_0001_0200_0000_0001, .dcwb (.g 1) (.g 2) (tM 0 0 0 0 0 1 0 0))] = true := by
  decide +kernel

theorem test_decode_vectormemory : tReads [
    (0x1100_0000_5002_0000_0040_C020, .vld 16 (.g 2) (.g 0) (tM 64 6 0 0 0 32 0 0)),
    (0x1110_0000_5002_0000_0040_C020, .vst 16 (.g 2) (.g 0) (tM 64 6 0 0 0 32 0 0)),
    (0x1120_0000_5002_4300_0000_60F0, .vgath 16 2 3 (tM 0 3 0 0 3 48 0 0)),
    (0x1130_0000_5002_4300_0000_60F0, .vscat 16 2 3 (tM 0 3 0 0 3 48 0 0)),
    (0x1140_0000_5002_0000_0000_4020, .vbld 16 (.g 2) (.g 0) (tM 0 2 0 0 0 32 0 0)),
    (0x1150_0000_5002_0000_0000_6330, .vlsl 16 (.g 2) (.g 0) (tM 0 3 0 3 0 48 0 0)),
    (0x1160_0000_5002_0000_0000_6330, .vlss 16 (.g 2) (.g 0) (tM 0 3 0 3 0 48 0 0)),
    (0x1170_0000_5002_0000_0005_C000, .vspill 16 (.g 2) (.g 0) (tM 5 6 0 0 0 0 0 0)),
    (0x1180_0000_5002_0000_0005_C000, .vfill 16 (.g 2) (.g 0) (tM 5 6 0 0 0 0 0 0))] = true := by
  decide +kernel

theorem test_decode_tile : tReads [
    (0x1200_0000_0A05_0200_0000_62C0, .tld 10 5 (.g 2) (tM 0 3 0 2 3 0 0 0)),
    (0x1210_0000_0A05_0200_0000_6200, .tsv 10 5 (.g 2) (tM 0 3 0 2 0 0 0 0)),
    (0x1220_0000_0A0B_0C85_0001_0203, .tcp 10 11 12 { dk := true, sk := false, cnud := 5, ctr := 1, amt := 2, recp := 3 }),
    (0x1230_0000_0A0B_0C85_0001_0203, .tshape 10 11 12 true { dk := false, sk := false, cnud := 5, ctr := 1, amt := 2, recp := 3 }),
    (0x1240_0000_0000_0000_0000_0000, .rcfence),
    (0x1250_0000_0005_0000_0000_0000, .twait 5),
    (0x1260_0000_0A05_0000_0000_0000, .tstat 10 5),
    (0x1270_0000_0A05_0000_0000_0000, .talloc 10 5),
    (0x1280_0000_0005_0000_0001_0203, .tfree 5 { dk := false, sk := false, cnud := 0, ctr := 1, amt := 2, recp := 3 }),
    (0x1290_0000_4105_0200_0000_C220, .tldv 1 5 (.g 2) (tM 0 6 0 2 0 32 0 0)),
    (0x12A0_0000_4105_0200_0000_C220, .tsvv 1 5 (.g 2) (tM 0 6 0 2 0 32 0 0))] = true := by
  decide +kernel

theorem test_decode_vectorfloat : tReads [
    (0x1800_0000_4142_4307_FE00_8500, .vadd 1 2 (.v 3) (tF 1 63 3 true false 0 (some 5))),
    (0x1810_0000_4142_4307_FE00_8500, .vsub 1 2 (.v 3) (tF 1 63 3 true false 0 (some 5))),
    (0x1820_0000_4142_4307_FE00_8500, .vmul 1 2 (.v 3) (tF 1 63 3 true false 0 (some 5))),
    (0x1890_0000_4142_4307_FE00_8500, .vdiv 1 2 (.v 3) (tF 1 63 3 true false 0 (some 5))),
    (0x1830_0000_4142_0A0C_FC00_0044, .vfma 1 2 (.g 10) (.v 4) (tF 3 63 0 false false 0 none)),
    (0x1840_0000_4142_0A0C_FC00_0044, .vfms 1 2 (.g 10) (.v 4) (tF 3 63 0 false false 0 none)),
    (0x1850_0000_4142_C108_FC00_8000, .vmin 1 2 (.k 1) (tF 2 63 0 false false 0 (some 0))),
    (0x1860_0000_4142_C108_FC00_8000, .vmax 1 2 (.k 1) (tF 2 63 0 false false 0 (some 0))),
    (0x1870_0000_5F42_0000_FC00_0000, .vabs 31 2 (tF 0 63 0 false false 0 none)),
    (0x1880_0000_5F42_0000_FC00_0000, .vneg 31 2 (tF 0 63 0 false false 0 none)),
    (0x18A0_0000_5F42_0000_FC00_0000, .vsqrt 31 2 (tF 0 63 0 false false 0 none)),
    (0x18B0_0000_5F42_0000_FC00_0000, .vrcp 31 2 (tF 0 63 0 false false 0 none)),
    (0x18C0_0000_5F42_0000_FC00_0000, .vrsq 31 2 (tF 0 63 0 false false 0 none)),
    (0x18D0_0000_5F42_0000_FC00_0000, .vexp2 31 2 (tF 0 63 0 false false 0 none)),
    (0x18E0_0000_5F42_0000_FC00_0000, .vlog2 31 2 (tF 0 63 0 false false 0 none))] = true := by
  decide +kernel

theorem test_decode_vectorinteger : tReads [
    (0x1900_0000_4142_4328_FD01_0000, .viadd 1 2 (.v 3) (tF 10 63 0 false true 1 none)),
    (0x1910_0000_4142_4328_FC01_0000, .visub 1 2 (.v 3) (tF 10 63 0 false false 1 none)),
    (0x1920_0000_4142_4328_FD00_0000, .vimul 1 2 (.v 3) (tF 10 63 0 false true 0 none)),
    (0x1940_0000_4142_4328_FC01_0000, .vimin 1 2 (.v 3) (tF 10 63 0 false false 1 none)),
    (0x1950_0000_4142_4328_FC00_0000, .vimax 1 2 (.v 3) (tF 10 63 0 false false 0 none)),
    (0x1960_0000_4142_4328_FC00_0000, .vand 1 2 (.v 3) (tF 10 63 0 false false 0 none)),
    (0x1970_0000_4142_4328_FC00_0000, .vor 1 2 (.v 3) (tF 10 63 0 false false 0 none)),
    (0x1980_0000_4142_4328_FC00_0000, .vxor 1 2 (.v 3) (tF 10 63 0 false false 0 none)),
    (0x1990_0000_4142_4328_FC00_0000, .vshl 1 2 (.v 3) (tF 10 63 0 false false 0 none)),
    (0x19A0_0000_4142_4328_FC00_0000, .vshr 1 2 (.v 3) (tF 10 63 0 false false 0 none)),
    (0x19B0_0000_4142_4328_FC00_0000, .vsha 1 2 (.v 3) (tF 10 63 0 false false 0 none)),
    (0x1930_0000_4142_4330_FC00_0044, .vimad 1 2 (.v 3) (.v 4) (tF 12 63 0 false false 0 none))] = true := by
  decide +kernel

theorem test_decode_permute : tReads [
    (0x1A00_0000_8642_4304_FC0D_0000, .vcmp 6 2 (.v 3) (tF 1 63 0 false false 13 none)),
    (0x1A10_0000_4142_4314_FC00_0084, .vsel 1 2 (.v 3) 4 (tF 5 63 0 false false 0 none)),
    (0x1A20_0000_4142_4328_FC00_0044, .vshuf 1 2 3 4 (tF 10 63 0 false false 0 none)),
    (0x1A30_0000_4142_0004_FC0F_0000, .vbcast 1 (.v 2) (tF 1 63 0 false false 15 none)),
    (0x1A40_0000_4142_0024_FC00_0000, .vmov 1 2 (tF 9 63 0 false false 0 none)),
    (0x1A50_0000_410B_D028_FC00_0000, .viota 1 (.g 11) (.k 16) (tF 10 63 0 false false 0 none)),
    (0x1A60_0000_0A42_C304_FC00_0000, .vext 10 2 (.k 3) (tF 1 63 0 false false 0 none)),
    (0x1A70_0000_410A_C304_FC00_0000, .vins 1 (.g 10) (.k 3) (tF 1 63 0 false false 0 none)),
    (0x1A80_0000_4142_0A04_FC00_8100, .vcomp 1 2 (.g 10) (tF 1 63 0 false false 0 (some 1)))] = true := by
  decide +kernel

theorem test_decode_convert : tReads [
    (0x1B00_0000_4141_0004_2800_0000, .vcvt 1 1 0 (tF 1 10 0 false false 0 none)),
    (0x1B10_0000_0A42_0B28_FC07_0000, .vred 10 2 (.g 11) (tF 10 63 0 false false 7 none)),
    (0x1B20_0000_4142_0B04_FC02_0000, .vscan 1 2 (.g 11) (tF 1 63 0 false false 2 none)),
    (0x1B30_0000_4142_4330_2800_0000, .vdot4 1 2 3 (tF 12 10 0 false false 0 none)),
    (0x1B40_0000_410A_0B24_FC00_0000, .vrng 1 10 11 (tF 9 63 0 false false 0 none)),
    (0x1B50_0000_0441_0090_0400_0000, .vscale 4 1 (tF 36 1 0 false false 0 none))] = true := by
  decide +kernel

theorem test_decode_matrix : tReads [
    (0x1C00_0000_0000_0000_0003_0005, .mclaim 5 3),
    (0x1C10_0000_0000_0000_8000_0001, .mrel 1 0x8000),
    (0x1C20_0FC0_730A_C414_5FFE_0000, .mlds 3 10 (.k 4) 5 1 31 127 { nud := 63, l1p := 0 }),
    (0x1C30_0000_0073_0014_2010_3E00, .mlatch 3 5 true 32 31),
    (0x1C40_0000_6F73_0014_1F10_0000, .mma 15 3 5 31 32),
    (0x1C50_0000_6F00_0004_0000_0000, .mzero 15 1),
    (0x1C60_0000_6F0A_0B0E_A700_0000, .mstz 15 10 (.g 11) 3 2 2 true 7),
    (0x1C70_0000_416F_C100_0000_0001, .mrdz 1 15 (.k 1) true),
    (0x1C80_0000_6F41_C100_0000_0000, .mwrz 15 1 (.k 1) false),
    (0x1C90_0000_0000_0000_0000_0000, .mwait),
    (0x1CA0_0000_0A00_0000_0000_007F, .mstat 10 0x7F),
    (0x1CA0_0000_0A00_0000_0000_0100, .mstatSnapshot 10),
    (0x1CB0_0000_6E0A_0091_0000_0000, .mscale 14 10 0x24 1)] = true := by
  decide +kernel

/-! ### Well-formedness: one ill-formed term for each check, which the check refuses -/

theorem test_wf_accepts : Instr.wf (.ld 1 (.g 2) (.g 0) (tM 8 3 0 0 0 1 63 1)) = true := by decide
/-- R91: L1P 10 is a reduction's, and a hint is defined in space 00 alone. -/
theorem test_wf_hint : Instr.hintOk (.ld 1 (.g 2) (.g 0) (tM 8 3 0 0 0 1 63 2)) = false ∧ Instr.hintOk (.ld 1 (.g 2) (.g 0) (tM 8 3 0 1 0 1 63 0)) = false ∧
    Instr.wf (.ld 1 (.g 2) (.g 0) (tM 8 3 0 1 0 1 63 0)) = false := by decide
/-- R158: a constant with 8-bit floating elements. -/
theorem test_wf_operand : Instr.opOk (.vsel 1 2 (.k 3) 4 (tF 4 0x3F 0 false false 0 none)) = false ∧ Instr.wf (.vcomp 1 2 (.g 3) (tF 1 0x3F 0 false false 0 none)) = false := by decide
/-- R162: VADD of an integer format. -/
theorem test_wf_format : Instr.fmtOk (.vadd 1 2 (.v 3) (tF 9 0x3F 0 false false 0 none)) = false ∧ Instr.wf (.vadd 1 2 (.v 3) (tF 9 0x3F 0 false false 0 none)) = false := by decide
/-- R97, R137, R315: a reserved size, a condition above 11, class 15 of a mask. -/
theorem test_wf_x : Instr.xOk (.ld 1 (.g 2) (.g 0) (tM 8 7 0 0 0 0 0 0)) = false ∧ Instr.wf (.cmp 1 (.g 2) (.g 3) 12) = false ∧ Instr.wf (.mmask 0x8000) = false := by decide
/-- R89: GNEG with guard 0. -/
theorem test_wf_header : Header.wf { gneg := true, guard := 0, la := 0 } = false ∧ Header.wf { gneg := true, guard := 1, la := 3 } = true := by decide

/-- The fault that the decoder names. -/
def tFault (w : BitVec 96) : Option DecodeFault := match decode w with | .error e => some e | .ok _ => none

/-- R100: each check of a word, by name. -/
theorem test_refused_words :
    tFault 0x0100_0001_0A01_0200_0000_0000 = some .word ∧ tFault 0x0108_0000_0A01_0200_0000_0000 = some .guard ∧
    tFault 0x0100_0010_0A01_0200_0000_0000 = some .hint ∧ tFault 0x0200_0000_0A01_0500_0000_0001 = some .unused ∧
    tFault 0x0100_0000_4501_0200_0000_0000 = some .cls ∧ tFault 0x0100_0000_0A01_0200_0000_0001 = some .xField ∧
    tFault 0x1800_0000_4142_4300_0000_0000 = some .format ∧ tFault 0x0C40_0000_0000_0000_0000_8000 = some .xField := by
  decide +kernel

/-- R100, check 6: the operands are judged one by one, in the order D, A, B, MASK, C, each in full. QMOV with a vector register in D and a reserved code
in A; VSEL in an FP8 format with a constant in B and a reserved code in MASK; the same with a register in B. -/
theorem test_operand_order :
    tFault 0x0550_0000_4190_0000_0000_0000 = some .cls ∧ tFault 0x1A10_0000_4142_C310_FC00_0090 = some .cls ∧
    tFault 0x1A10_0000_4142_4310_FC00_0090 = some .encoding := by
  decide +kernel

/-- A slot of eight doublewords (R45). -/
def tSlot (l : List Word) : Except Cause Instr := decodeCommand 0 1 (l ++ List.replicate (8 - l.length) 0)

def tHdr : CmdHdr := { pid := 0, stream := 1, tag := 7 }

/-- R45: every opcode of a command slot, and slots that are refused. -/
theorem test_command_slots :
    tSlot [0x7_0000_0001, 64, 128, 16] = .ok (.cmdLaunch tHdr 64 128 16) ∧ tSlot [0x7_0000_0002, 64, 8, 16] = .ok (.cmdLaunchn tHdr 64 8 16) ∧
    tSlot [0x7_0000_0003, 256, 1] = .ok (.cmdLoop tHdr 256 1) ∧ tSlot [0x7_0000_0304, 8, 5, 255] = .ok (.cmdIf tHdr 8 5 255 3) ∧
    tSlot [0x7_0000_0005, 8, 5] = .ok (.cmdWaitctr tHdr 8 5) ∧ tSlot [0x7_0000_0006, 8, 5] = .ok (.cmdAddctr tHdr 8 5) ∧
    tSlot [0x7_0000_0007, 64, 128, 256, 8, 2] = .ok (.cmdCopy tHdr 64 128 256 8 2) ∧ tSlot [0x7_0000_0008] = .ok (.cmdFence tHdr) ∧
    tSlot [0x7_0000_0108] = .ok (.cmdFenceReload tHdr) ∧ tSlot [0x7_0000_0009] = .ok (.cmdReplay tHdr) ∧
    tSlot [0x7_0000_000A, 3, 2, 1, 8] = .ok (.cmdRole tHdr 3 2 1 8) ∧ tSlot [0x7_0000_00FF] = .ok (.cmdBadOpcode tHdr 0xFF) ∧
    tSlot [0x7_0000_0003, 257, 1] = .error 0x169 ∧ tSlot [0x7_0001_0009] = .error 0x169 ∧ tSlot [0x7_0000_0009, 1] = .error 0x169 := by
  decide +kernel

/-! ### States -/

/-- A device that has come up, with one task in the system address space on core 0: VA 0 to 2^29 − 1 are mapped to PA 2^29 and up by one leaf. -/
def tBase : State := State.reset.withFetchWord 96 0x0010_0000_0000_0000_0000_0000

/-- The same with g1 = v. -/
def tG (v : Word) : State := tBase.setG 1 v

/-- The same with a change of the task. -/
def tMe (f : Task → Task) : State := tBase.onMe f

/-- The same task in an address space of its own, without system privilege. -/
def tUser : State := tBase.onPart 0 fun p => { p with sysasid := 1 }

/-- Tasks that trap are held: HOLD stands in the trap ring at VA 0x100000. -/
def tHold : State :=
  ({ tBase with mem := tBase.mem.write (2 ^ 29 + 0x100018) 8 1 } : State).onPart 0 fun p => { p with regs := { p.regs with trapring := 0x100006 } }

theorem tAll {α : Type} {l : List α} {p : α → Prop} [DecidablePred p] (h : (l.all fun x => decide (p x)) = true) : ∀ x ∈ l, p x := by
  simpa using h

/-! ### Memory that a task reaches -/

/-- The leaf that the tables give. -/
def tLeaf (s : State) (va : Word) (acc : Access) : Leaf :=
  match s.walk s.me.pid s.me.asid (s.privileged s.me) va acc with
  | .ok l => l
  | .error _ => { ent := { pid := 0, asid := 0, log := 16, page := 0, kind := 0, pa := 0, ord := 0, perms := 0 }, pteKey := 0, pte := 0, pa := 0 }

def tCalmB (s : State) : Bool :=
  !s.mxBusy && s.core.mx.shade.isEmpty && !s.me.replayable && !s.me.det && s.colls.isEmpty && s.outs.isEmpty && s.me.staged.isEmpty

theorem tCalm {s : State} (h : tCalmB s = true) : s.Calm := by
  simp only [tCalmB, Bool.and_eq_true, Bool.not_eq_true', List.isEmpty_iff] at h
  obtain ⟨⟨⟨⟨⟨⟨a, b⟩, c⟩, d⟩, e⟩, f⟩, g⟩ := h
  exact ⟨a, b, c, d, e, f, g⟩

def tMapB (s : State) (va : Word) (acc : Access) : Bool :=
  (s.pendingFault (clusterOf s.core.id) s.me.pid s.me.asid va).isNone && (s.tlbsFor va).isEmpty &&
    (match s.walk s.me.pid s.me.asid (s.privileged s.me) va acc with | .ok _ => true | .error _ => false)

theorem tMapped {s : State} {va : Word} {acc : Access} (h : tMapB s va acc = true) : Mapped s va acc (tLeaf s va acc) := by
  simp only [tMapB, Bool.and_eq_true, Option.isNone_iff_eq_none, List.isEmpty_iff] at h
  obtain ⟨⟨a, b⟩, c⟩ := h
  refine ⟨a, ?_, by simp [b]⟩
  unfold tLeaf
  split at c
  · next _ hw => rw [hw]
  · exact nomatch c

def tNoPartialsB (s : State) : Bool := s.core.ulines.isEmpty && s.cores.all fun k => k.ulines.isEmpty

theorem tNoPartials {s : State} (h : tNoPartialsB s = true) : s.NoPartials := by
  simp only [tNoPartialsB, Bool.and_eq_true, List.all_eq_true, List.isEmpty_iff] at h
  exact h

def tNoWatchB (s : State) : Bool := s.capWaits.isEmpty && s.slices.all fun l => l.watch.isEmpty && l.marks.isEmpty

theorem tNoWatch {s : State} (h : tNoWatchB s = true) : s.NoWatch := by
  simp only [tNoWatchB, Bool.and_eq_true, List.all_eq_true, List.isEmpty_iff] at h
  exact h

def tReachB (s : State) (va : Word) (n : Nat) (acc : Access) : Bool :=
  tCalmB s && decide (va.toNat % 65536 + n ≤ 65536) && decide (0 < n) && tMapB s va acc && (tLeaf s va acc).marked acc &&
    tNoPartialsB s && decide ((tLeaf s va acc).place.kind ≠ 3 ∧ (tLeaf s va acc).place.kind ≠ 4) && !s.windowBad (tLeaf s va acc).place

theorem tReaches {s : State} {va : Word} {n : Nat} {acc : Access} (h : tReachB s va n acc = true) : Reaches s va n acc (tLeaf s va acc) := by
  simp only [tReachB, Bool.and_eq_true, Bool.not_eq_true', decide_eq_true_eq] at h
  obtain ⟨⟨⟨⟨⟨⟨⟨a, b⟩, c⟩, d⟩, e⟩, f⟩, g⟩, i⟩ := h
  exact ⟨tCalm a, b, c, tMapped d, e, tNoPartials f, g, i⟩

def tTogetherB (s : State) (va : Word) (l : Leaf) (va' : Word) (l' : Leaf) : Bool :=
  (l.ent :: s.tlbsFor va).all fun e => decide (e.pid = s.me.pid → e.asid = s.me.asid → e.page = va'.toNat / 2 ^ e.log → e.place va' = l'.place)

theorem tTogether {s : State} {va : Word} {l : Leaf} {va' : Word} {l' : Leaf} (h : tTogetherB s va l va' l' = true) : s.Together va l va' l' := by
  unfold State.Together
  simpa only [tTogetherB, List.all_eq_true, decide_eq_true_eq] using h

theorem tPaged {s : State} {va : Word} (h : (s.tlbsFor va).all (fun e => decide (16 ≤ e.log)) = true) : s.Paged va := tAll h

def tLocalB (s : State) (space : BitVec 2) (ea : Word) (n align : Nat) : Bool :=
  tCalmB s && decide (space ≠ 0 ∧ ea.toNat + n ≤ (if space = 1 then 0x1C000 else if space = 2 then 0x800000 else 0x2000) ∧ ea.toNat % align = 0 ∧ 0 < n) &&
    (space != 2 || (List.range ((ea.toNat + n - 1) / 4096 - ea.toNat / 4096 + 1)).all fun i =>
      match s.ownTile (ea.toNat / 4096 + i) with | some t => !t.failed && t.st == .ready | none => false)

theorem tLocal {s : State} {space : BitVec 2} {ea : Word} {n align : Nat} (h : tLocalB s space ea n align = true) : Local s space ea n align := by
  simp only [tLocalB, Bool.and_eq_true, decide_eq_true_eq, Bool.or_eq_true, bne_iff_ne, ne_eq, List.all_eq_true, List.mem_range] at h
  obtain ⟨⟨a, b, c, d, e⟩, f⟩ := h
  refine ⟨tCalm a, b, c, d, fun h2 k lo hi => ?_, e⟩
  rcases f with f | f
  · exact absurd h2 f
  · have := f (k - ea.toNat / 4096) (by omega)
    rw [show ea.toNat / 4096 + (k - ea.toNat / 4096) = k by omega] at this
    split at this
    · next t ht => exact ⟨t, ht, by simpa using this⟩
    · exact nomatch this

def tLocalGoodB (s : State) (space : BitVec 2) (ea : Word) (n : Nat) : Bool :=
  (localLines (localStore space) (s.localKey space ea) n).all fun a => !s.localPoison.contains a && !s.localLatent.contains a

theorem tLocalGood {s : State} {space : BitVec 2} {ea : Word} {n : Nat} (h : tLocalGoodB s space ea n = true) : s.localGood space ea n := by
  intro a ha
  simp only [tLocalGoodB, List.all_eq_true, Bool.and_eq_true, Bool.not_eq_true', List.contains_eq_mem, decide_eq_false_iff_not] at h
  exact h a ha

/-- The base state with 4 frames of cluster memory, from frame 1, in a READY tile of the task. -/
def tTile : State :=
  tBase.onCluster 0 fun c => { c with tiles := [{ frame := 1, frames := 4, st := .ready, mode := .inout, va := 0x10000, bytes := 16384, segs := [], asid := 0, owner := 1 }] }

/-- Line 2^23 of HBM (PA 2^29) poisoned, and one with an error that nothing has met. -/
def tBad (latent : Bool) : State := if latent then { tBase with latent := [2 ^ 23] } else { tBase with poison := [2 ^ 23] }

/-! ### Witnesses: states and operands that meet the hypotheses of each statement, at the ends of their ranges -/

theorem witness_Divisions :
    ((tG 1).gk (.g 1) ≠ 0) ∧ ((tG 0).gk (.g 1) = 0 ∧ (tG 0).mxBusy = false) ∧
    ((tG 0x8000000000000000).gk (.g 1) = 0x8000000000000000 ∧ (tG 0x8000000000000000).gk (.k 0x3F) = BitVec.allOnes 64) ∧
    ((tG 2).gk (.k 0x3F) = BitVec.allOnes 64 ∧ (tG 2).gk (.g 1) = 2) := by decide +kernel

theorem witness_IntegerResults : (0 : BitVec 4).toNat < 12 ∧ (11 : BitVec 4).toNat < 12 := by decide

theorem witness_AddressesAndMiscellaneous : (1 : BitVec 6) ≠ 0 ∧ (63 : BitVec 6) ≠ 0 := by decide

theorem witness_RegistersAndBytes :
    ((63 : GReg) ≠ 0 ∧ (1 : GReg) ≠ 63) ∧ ((7 : QReg) ≠ 0 ∧ (1 : QReg) ≠ 7) ∧ ((0 : VReg) ≠ 31) ∧
    (tBase.mem.wf = true ∧ (5 : Nat) ≠ 4 ∧ (3 < 4 ∨ 4 + 8 ≤ 3) ∧ (12 < 4 ∨ 4 + 8 ≤ 12) ∧ 7 < 8) := by decide +kernel

theorem witness_ControlTransfers :
    ((tG 0xFFFFFFFFFFFFFFFC).g 1).extractLsb' 0 2 = 0 ∧ (((tG 3).g 1).extractLsb' 0 2 ≠ 0 ∧ (tG 3).mxBusy = false) := by decide +kernel

theorem witness_TrapInstructions : tBase.mxBusy = false ∧ tBase.me.intrap = false ∧ (tMe fun t => { t with intrap := true }).me.intrap = true ∧
    (tMe fun t => { t with intrap := true }).core.mx.held = none := by decide +kernel

/-- A handler outside its task's trap, no handler, and a trap inside the handler. -/
theorem witness_TrapDelivery :
    (let s := tMe fun t => { t with thandler := 64 }
     s.me.isHandler = false ∧ s.me.capsule = false ∧ s.me.thandler ≠ 0 ∧ s.me.intrap = false ∧ (0x128 : Cause).toNat / 8 ∉ [8, 9, 11, 21, 40, 41, 45, 47]) ∧
    (let s := tHold
     s.me.isHandler = false ∧ s.me.thandler = 0 ∧ s.me.tid ≠ 0 ∧ (0x128 : Cause).toNat / 8 ≠ 15 ∧ (0x128 : Cause).toNat / 8 ≠ 16 ∧ s.hold s.me.pid = true) ∧
    (let s := tHold.onMe fun t => { t with thandler := 64, intrap := true }
     s.me.isHandler = false ∧ s.me.intrap = true ∧ s.me.tid ≠ 0 ∧ s.hold s.me.pid = true) := by decide +kernel

theorem witness_SystemRegisterReads :
    tBase.me.asid = (tBase.part tBase.me.pid).sysasid ∧ tBase.mxBusy = false ∧
    (0x00D ≤ (0x00D : BitVec 12).toNat ∧ (0x00F : BitVec 12).toNat ≤ 0x00F) ∧ (0x014 ≤ (0x014 : BitVec 12).toNat ∧ (0x0FF : BitVec 12).toNat ≤ 0x0FF) ∧
    0x10F ≤ (0x10F : BitVec 12).toNat ∧
    (tUser.mxBusy = false ∧ tUser.me.asid ≠ (tUser.part tUser.me.pid).sysasid ∧ 0x100 ≤ (0x100 : BitVec 12).toNat ∧ (0x10E : BitVec 12).toNat ≤ 0x10E) := by decide +kernel

theorem witness_SystemRegisterWrites :
    tBase.me.asid = (tBase.part tBase.me.pid).sysasid ∧
    (((tG 63).gk (.g 1)).extractLsb' 0 6 ≠ 0) ∧
    ([(1 : Word), 512].all fun v => decide (1 ≤ (v &&& 0x3FF).toNat ∧ (v &&& 0x3FF).toNat ≤ 512)) ∧
    ([(0 : Word), 0x1009, 0x1018].all fun v => decide (v &&& 0xFFFFFFFFFFFFF000 = 0 ∨ (9 ≤ v.toNat % 64 ∧ v.toNat % 64 ≤ 24))) ∧
    ([(0x1006 : Word), 0x1014].all fun v => decide (v &&& 0xFFFFFFFFFFFFF000 = 0 ∨ (6 ≤ v.toNat % 64 ∧ v.toNat % 64 ≤ 20))) ∧
    ([(0x1003 : Word), 0x1014].all fun v => decide (v &&& 0xFFFFFFFFFFFFF000 = 0 ∨ (3 ≤ v.toNat % 64 ∧ v.toNat % 64 ≤ 20))) ∧
    (1 ≤ ((0x1_0000_0011 : Word) &&& 0xFFFFFFFFFF).toNat / 2 ^ 32 ∧ 17 ≤ ((0x1_0000_0011 : Word) &&& 0xFFFFFFFF).toNat) ∧
    ((2 : Word) &&& 1 = 0) ∧
    ([(1 : Word), 0x80000000].all fun v => decide (1 ≤ (v &&& 0xFFFFFFFF).toNat ∧ (v &&& 0xFFFFFFFF).toNat ≤ 2 ^ 31)) ∧
    ([(1 : Word), 4].all fun v => decide (1 ≤ (v &&& 7).toNat ∧ (v &&& 7).toNat ≤ 4)) ∧
    ([(0x10 : Word), 0x1000].all fun v => decide (0x10 ≤ (v &&& 0xFFFF).toNat ∧ (v &&& 0xFFFF).toNat ≤ 0x1000)) ∧
    (tUser.mxBusy = false ∧ tUser.me.asid ≠ (tUser.part tUser.me.pid).sysasid) := by decide +kernel

/-- A core that leads; one that stands alone with no mate that runs a task; one whose mate waits at its address. -/
theorem witness_FollowAndYield :
    ((tBase.onCore fun c => { c with members := [1] }).core.members ≠ []) ∧
    (tBase.core.members = [] ∧ tBase.core.leader = none ∧ tBase.core.id &&& 0xFFFC = tBase.core.id ∧
      ∀ m ∈ cellMates tBase.core.id, (tBase.getCore m).running = 0 ∨ (tBase.getTask (tBase.getCore m).running).asid ≠ tBase.me.asid ∨
        (tBase.getCore m).waitsAt tBase.pc = true) ∧
    (let s := ({ tBase with tasks := [{ tid := 2, pc := tBase.pc }] } : State).putCore { id := 1, running := 2, followAt := some (tBase.pc, 0) }
     (s.core.members = [] ∧ s.core.leader = none) ∧
      ∀ m ∈ cellMates s.core.id, (s.getCore m).running = 0 ∨ (s.getTask (s.getCore m).running).asid ≠ s.me.asid ∨ (s.getCore m).waitsAt s.pc = true) ∧
    ((3 : QReg) ≠ 0 ∧ tBase.mxBusy = false ∧ tBase.me.isHandler = false ∧ (tBase.part tBase.me.pid).stopping = false ∧
      tBase.heldCore tBase.me.pid tBase.core.id = false ∧ tBase.me.tid ≠ 0) :=
  ⟨by decide +kernel, ⟨by decide +kernel, by decide +kernel, by decide +kernel, tAll (by decide +kernel)⟩,
    ⟨by decide +kernel, tAll (by decide +kernel)⟩, by decide +kernel⟩

theorem witness_ScalarLoads :
    ((Instr.ld 1 (.g 0) (.g 0) (tM 0xFFF8 3 0 0 0 1 0 0)).wf = true ∧ tBase.me.capsule = false ∧
      Reaches tBase (tBase.ea (.g 0) (.g 0) (tM 0xFFF8 3 0 0 0 1 0 0)) 8 .read (tLeaf tBase 0xFFF8 .read) ∧ Good tBase (tLeaf tBase 0xFFF8 .read).place 8) ∧
    ((Instr.lda 1 (.g 0) (.g 0) (tM 0 3 4 0 0 0 0 0)).wf = true ∧ (tBase.ea (.g 0) (.g 0) (tM 0 3 4 0 0 0 0 0)).toNat % 8 = 0 ∧
      Reaches tBase (tBase.ea (.g 0) (.g 0) (tM 0 3 4 0 0 0 0 0)) 8 .read (tLeaf tBase 0 .read) ∧ Good tBase (tLeaf tBase 0 .read).place 8) ∧
    ((Instr.ld 1 (.g 0) (.g 0) (tM 0x1BFF8 3 0 1 0 0 0 0)).wf = true ∧ Local tBase 1 (tBase.ea (.g 0) (.g 0) (tM 0x1BFF8 3 0 1 0 0 0 0)) 8 8 ∧
      tBase.localGood 1 0x1BFF8 8) ∧
    ((Instr.ld 1 (.g 0) (.g 0) (tM 0x4FFF 0 0 2 0 0 0 0)).wf = true ∧ Local tTile 2 (tTile.ea (.g 0) (.g 0) (tM 0x4FFF 0 0 2 0 0 0 0)) 1 1 ∧ tTile.localGood 2 0x4FFF 1) ∧
    ((tBad false).me.capsule = false ∧ Reaches (tBad false) 0 8 .read (tLeaf (tBad false) 0 .read) ∧ (tBad false).badLine (tLeaf (tBad false) 0 .read).place.key 8 = some (2 ^ 23, false)) ∧
    ((tBad true).me.capsule = false ∧ Reaches (tBad true) 0x38 8 .read (tLeaf (tBad true) 0x38 .read) ∧ (tBad true).badLine (tLeaf (tBad true) 0x38 .read).place.key 8 = some (2 ^ 23, true)) ∧
    (tBase.Calm ∧ tBase.NoPartials ∧ tBase.me.tid ≠ 0 ∧ tBase.me.isHandler = false ∧ (0x20000000 : Word).toNat % 65536 + 8 ≤ 65536 ∧
      tBase.pendingFault (clusterOf tBase.core.id) tBase.me.pid tBase.me.asid 0x20000000 = none ∧ tBase.tlbsFor 0x20000000 = [] ∧ (0x043 : Cause).toNat / 8 = 8 ∧
      (tBase.part tBase.me.pid).regs.faultring = 0 ∧ tBase.walk tBase.me.pid tBase.me.asid (tBase.privileged tBase.me) 0x20000000 .read = .error 0x043 ∧
      tBase.walk tBase.me.pid tBase.me.asid (tBase.privileged tBase.me) 0x20000000 .write = .error 0x043) :=
  ⟨⟨by decide, by decide +kernel, tReaches (by decide +kernel), ⟨by decide +kernel, by decide +kernel⟩⟩,
    ⟨by decide, by decide +kernel, tReaches (by decide +kernel), ⟨by decide +kernel, by decide +kernel⟩⟩,
    ⟨by decide, tLocal (by decide +kernel), tLocalGood (by decide +kernel)⟩, ⟨by decide, tLocal (by decide +kernel), tLocalGood (by decide +kernel)⟩,
    ⟨by decide +kernel, tReaches (by decide +kernel), by decide +kernel⟩, ⟨by decide +kernel, tReaches (by decide +kernel), by decide +kernel⟩,
    ⟨tCalm (by decide +kernel), tNoPartials (by decide +kernel), by decide +kernel⟩⟩

/-- A fault of the page at VA 2^29, which nothing maps, is pending. -/
def tPending : State := tBase.onCluster 0 fun c => { c with pend := [{ pid := 0, asid := tBase.me.asid, page := 0x2000, cause := 0x043 }] }

theorem tMarked {s : State} {va : Word} {acc : Access}
    (h : (match s.walk s.me.pid s.me.asid (s.privileged s.me) va acc with | .ok l => l.marked acc | .error _ => true) = true) :
    ∀ l, s.walk s.me.pid s.me.asid (s.privileged s.me) va acc = .ok l → l.marked acc = true := by
  intro l hl
  simpa only [hl] using h

theorem witness_ScalarStores :
    ((Instr.st 1 (.g 0) (.g 0) (tM 0xFFF8 3 0 0 0 0 0 0)).wf = true ∧ tBase.me.capsule = false ∧
      Reaches tBase (tBase.ea (.g 0) (.g 0) (tM 0xFFF8 3 0 0 0 0 0 0)) 8 .write (tLeaf tBase 0xFFF8 .write) ∧ tBase.NoWatch) ∧
    ((Instr.stl 1 (.g 0) (.g 0) (tM 2 1 5 0 0 0 0 0)).wf = true ∧ (tBase.ea (.g 0) (.g 0) (tM 2 1 5 0 0 0 0 0)).toNat % 2 = 0 ∧
      Reaches tBase (tBase.ea (.g 0) (.g 0) (tM 2 1 5 0 0 0 0 0)) 2 .write (tLeaf tBase 2 .write)) ∧
    ((Instr.st 1 (.g 0) (.g 0) (tM 0x1BFF8 3 0 1 0 0 0 0)).wf = true ∧ Local tBase 1 (tBase.ea (.g 0) (.g 0) (tM 0x1BFF8 3 0 1 0 0 0 0)) 8 8 ∧ tBase.localGood 1 0x1BFF8 8) ∧
    ((Instr.st 1 (.g 0) (.g 0) (tM 0x1FFE 1 0 3 0 0 0 0)).wf = true ∧ Local tBase 3 (tBase.ea (.g 0) (.g 0) (tM 0x1FFE 1 0 3 0 0 0 0)) 2 2 ∧ tBase.localGood 3 0x1FFE 2) ∧
    (tBase.mxBusy = false ∧ (tBase.ea (.g 0) (.g 0) (tM 4 3 1 0 0 0 0 0)).toNat % 8 ≠ 0 ∧
      0x1C000 < (tBase.ea (.g 0) (.g 0) (tM 0x1BFF9 3 0 1 0 0 0 0)).toNat + 8 ∧
      ((tBase.ea (.g 0) (.g 0) (tM 0x1BFF4 3 0 1 0 0 0 0)).toNat + 8 ≤ 0x1C000 ∧ (tBase.ea (.g 0) (.g 0) (tM 0x1BFF4 3 0 1 0 0 0 0)).toNat % 8 ≠ 0) ∧
      ((tBase.ea (.g 0) (.g 0) (tM 0x7FFFF8 3 0 2 0 0 0 0)).toNat + 8 ≤ 0x800000 ∧ tBase.ownTile ((tBase.ea (.g 0) (.g 0) (tM 0x7FFFF8 3 0 2 0 0 0 0)).toNat / 4096) = none)) ∧
    (tBase.NoPartials ∧ (∀ l, tBase.walk tBase.me.pid tBase.me.asid (tBase.privileged tBase.me) 64 .read = .ok l → l.marked .read = true) ∧
      (∀ l, tBase.walk tBase.me.pid tBase.me.asid (tBase.privileged tBase.me) 0x20000000 .read = .ok l → l.marked .read = true) ∧
      tPending.pendingFault (clusterOf tPending.core.id) tPending.me.pid tPending.me.asid 0x20000000 ≠ none) :=
  ⟨⟨by decide, by decide +kernel, tReaches (by decide +kernel), tNoWatch (by decide +kernel)⟩, ⟨by decide, by decide +kernel, tReaches (by decide +kernel)⟩,
    ⟨by decide, tLocal (by decide +kernel), tLocalGood (by decide +kernel)⟩, ⟨by decide, tLocal (by decide +kernel), tLocalGood (by decide +kernel)⟩,
    by decide +kernel, tNoPartials (by decide +kernel), tMarked (by decide +kernel), tMarked (by decide +kernel), by decide +kernel⟩

theorem witness_VectorAccesses :
    ((Instr.vld 1 (.g 0) (.g 0) (tM 0xFFC0 6 0 0 0 0x20 0 0)).wf = true ∧ Reaches tBase 0xFFC0 64 .read (tLeaf tBase 0xFFC0 .read) ∧ Good tBase (tLeaf tBase 0xFFC0 .read).place 64 ∧ tBase.Paged 0xFFC0 ∧
      tBase.ea (.g 0) (.g 0) (tM 0xFFC0 6 0 0 0 0x20 0 0) = 0xFFC0) ∧
    ((Instr.vld 1 (.g 0) (.g 0) (tM 0x1BFF0 4 0 1 0 0x18 0 0)).wf = true ∧ Local tBase 1 (tBase.ea (.g 0) (.g 0) (tM 0x1BFF0 4 0 1 0 0x18 0 0)) 16 2 ∧ tBase.localGood 1 0x1BFF0 16) ∧
    ((Instr.vbld 1 (.g 0) (.g 0) (tM 8 3 0 0 0 0x30 0 0)).wf = true ∧ Reaches tBase (tBase.ea (.g 0) (.g 0) (tM 8 3 0 0 0 0x30 0 0)) 8 .read (tLeaf tBase 8 .read) ∧ Good tBase (tLeaf tBase 8 .read).place 8) ∧
    ((Instr.vbld 1 (.g 0) (.g 0) (tM 0x1FFF 0 0 3 0 0 0 0)).wf = true ∧ Local tBase 3 (tBase.ea (.g 0) (.g 0) (tM 0x1FFF 0 0 3 0 0 0 0)) 1 1 ∧ tBase.localGood 3 0x1FFF 1) ∧
    ((Instr.vst 1 (.g 0) (.g 0) (tM 0xFFC0 6 0 0 0 0x20 0 0)).wf = true ∧ Reaches tBase 0xFFC0 64 .write (tLeaf tBase 0xFFC0 .write) ∧ tBase.Paged 0xFFC0 ∧ tBase.NoWatch ∧
      ∀ i < 64 / 4, (if (0x20 : BitVec 6).getLsbD 3 then (tBase.q ((0x20 : BitVec 6).extractLsb' 0 3)).getLsbD i else true) = true) ∧
    ((Instr.vst 1 (.g 0) (.g 0) (tM 0xFFC0 6 0 0 0 0x29 0 0)).wf = true ∧ Reaches tBase 0xFFC0 64 .write (tLeaf tBase 0xFFC0 .write) ∧ tBase.Paged 0xFFC0 ∧ tBase.NoWatch ∧
      ¬ ∀ i < 64 / 4, (if (0x29 : BitVec 6).getLsbD 3 then (tBase.q ((0x29 : BitVec 6).extractLsb' 0 3)).getLsbD i else true) = true) ∧
    ((Instr.vst 1 (.g 0) (.g 0) (tM 0x1BFC0 6 0 1 0 0x20 0 0)).wf = true ∧ Local tBase 1 (tBase.ea (.g 0) (.g 0) (tM 0x1BFC0 6 0 1 0 0x20 0 0)) 64 4 ∧ tBase.localGood 1 0x1BFC0 64) :=
  ⟨⟨by decide, tReaches (by decide +kernel), ⟨by decide +kernel, by decide +kernel⟩, tPaged (by decide +kernel), by decide +kernel⟩,
    ⟨by decide, tLocal (by decide +kernel), tLocalGood (by decide +kernel)⟩, ⟨by decide, tReaches (by decide +kernel), ⟨by decide +kernel, by decide +kernel⟩⟩, ⟨by decide, tLocal (by decide +kernel), tLocalGood (by decide +kernel)⟩,
    ⟨by decide, tReaches (by decide +kernel), tPaged (by decide +kernel), tNoWatch (by decide +kernel), by decide +kernel⟩,
    ⟨by decide, tReaches (by decide +kernel), tPaged (by decide +kernel), tNoWatch (by decide +kernel), by decide +kernel⟩, ⟨by decide, tLocal (by decide +kernel), tLocalGood (by decide +kernel)⟩⟩

/-- Elements of 8 bytes under q1, whose bits 0 and 7 are set; element i of v2 is 8 × i. -/
def tGath (q : Word) : State :=
  (tBase.setQ 1 q).setV 2 (0x38 <<< 448 + 0x30 <<< 384 + 0x28 <<< 320 + 0x20 <<< 256 + 0x18 <<< 192 + 0x10 <<< 128 + 0x08 <<< 64)

/-- The address of element i, as the statement says it. -/
def tAt (s : State) (x : MX) (i : Nat) : Word :=
  s.g 0 + ((BitVec.ofNat 64 (elem 64 (s.v 2) i)).signExtend 64 <<< x.scale.toNat) + x.disp.signExtend 64

theorem tLt8 {p : Nat → Prop} (h0 : p 0) (h1 : p 1) (h2 : p 2) (h3 : p 3) (h4 : p 4) (h5 : p 5) (h6 : p 6) (h7 : p 7) : ∀ i < 8, p i := by
  intro i hi
  match i, hi with
  | 0, _ => exact h0 | 1, _ => exact h1 | 2, _ => exact h2 | 3, _ => exact h3 | 4, _ => exact h4 | 5, _ => exact h5 | 6, _ => exact h6 | 7, _ => exact h7

theorem witness_GatherScatter :
    let s := tGath 0x81
    let x := tM 0x1000 3 0 0 0 0x39 0 0
    let y := tM 0x1000 3 0 1 0 0x39 0 0
    let z := tM 0x1004 3 0 1 0 0x39 0 0
    let on (i : Nat) : Bool := if x.mod.getLsbD 3 then (s.q (x.mod.extractLsb' 0 3)).getLsbD i else true
    let l (i : Nat) := tLeaf s (tAt s x i) .read
    let w (i : Nat) := tLeaf s (tAt s x i) .write
    ((Instr.vgath 1 0 2 x).wf = true ∧ (Instr.vscat 1 0 2 x).wf = true ∧ (Instr.vgath 1 0 2 y).wf = true ∧ (Instr.vscat 1 0 2 y).wf = true) ∧ s.Calm ∧ s.NoWatch ∧
    (∀ i < 8, on i = true → Reaches s (tAt s x i) 8 .read (l i) ∧ Good s (l i).place 8) ∧
    (∀ i < 8, ∀ j < 8, on i = true → on j = true → s.Together (tAt s x i) (l i) (tAt s x j) (l j)) ∧
    (∀ i < 8, on i = true → Local s 1 (tAt s y i) 8 8 ∧ s.localGood 1 (tAt s y i) 8) ∧
    (∀ i < 8, on i = true → Reaches s (tAt s x i) 8 .write (w i)) ∧
    (∀ i < 8, ∀ j < 8, on i = true → on j = true → s.Together (tAt s x i) (w i) (tAt s x j) (w j)) ∧
    (on 0 = true ∧ (tAt s z 0).toNat + 8 ≤ 0x1C000 ∧ (tAt s z 0).toNat % 8 ≠ 0) := by
  have together (acc : Access) (h : ((List.range 8).all fun i => (List.range 8).all fun j =>
      tTogetherB (tGath 0x81) (tAt (tGath 0x81) (tM 0x1000 3 0 0 0 0x39 0 0) i) (tLeaf (tGath 0x81) (tAt (tGath 0x81) (tM 0x1000 3 0 0 0 0x39 0 0) i) acc)
        (tAt (tGath 0x81) (tM 0x1000 3 0 0 0 0x39 0 0) j) (tLeaf (tGath 0x81) (tAt (tGath 0x81) (tM 0x1000 3 0 0 0 0x39 0 0) j) acc)) = true) (i : Nat) (hi : i < 8)
      (j : Nat) (hj : j < 8) := tTogether (List.all_eq_true.mp (List.all_eq_true.mp h i (List.mem_range.mpr hi)) j (List.mem_range.mpr hj))
  refine ⟨by decide, tCalm (by decide +kernel), tNoWatch (by decide +kernel), ?_, fun i hi j hj _ _ => together .read (by decide +kernel) i hi j hj, ?_, ?_,
    fun i hi j hj _ _ => together .write (by decide +kernel) i hi j hj, by decide +kernel⟩
  · refine tLt8 ?_ ?_ ?_ ?_ ?_ ?_ ?_ ?_ <;> intro h <;> first
      | exact absurd h (by decide +kernel)
      | exact ⟨tReaches (by decide +kernel), ⟨by decide +kernel, by decide +kernel⟩⟩
  · refine tLt8 ?_ ?_ ?_ ?_ ?_ ?_ ?_ ?_ <;> intro h <;> first
      | exact absurd h (by decide +kernel)
      | exact ⟨tLocal (by decide +kernel), tLocalGood (by decide +kernel)⟩
  · refine tLt8 ?_ ?_ ?_ ?_ ?_ ?_ ?_ ?_ <;> intro h <;> first
      | exact absurd h (by decide +kernel)
      | exact tReaches (by decide +kernel)

theorem witness_LaneSlicesAndSpills :
    (tBase.Calm ∧ (1016 : Word).toNat < 1024 ∧ (1016 : Word).toNat % 8 = 0 ∧ (∀ j < 8, tBase.localGood 3 (BitVec.ofNat 64 (1024 * j) + 1016) 8) ∧
      (Instr.vlsl 1 (.g 0) (.g 0) (tM 1016 3 0 3 0 0x30 0 0)).wf = true ∧ (Instr.vlss 1 (.g 0) (.g 0) (tM 1016 3 0 3 0 0x30 0 0)).wf = true ∧
      tBase.ea (.g 0) (.g 0) (tM 1016 3 0 3 0 0x30 0 0) = 1016) ∧
    (tBase.mxBusy = false ∧ 1024 ≤ (tBase.ea (.g 0) (.g 0) (tM 1024 3 0 3 0 0x30 0 0)).toNat ∧
      (tBase.ea (.g 0) (.g 0) (tM 1020 3 0 3 0 0x30 0 0)).toNat < 1024 ∧ (tBase.ea (.g 0) (.g 0) (tM 1020 3 0 3 0 0x30 0 0)).toNat % 8 ≠ 0) ∧
    ((tBase.ea (.g 0) (.g 0) (tM 63 6 0 0 0 0 0 0)).toNat ≤ 63 ∧ 63 < (tBase.ea (.g 0) (.g 0) (tM 64 6 0 0 0 0 0 0)).toNat ∧ tBase.me.spillEnt 63 = none) ∧
    (let s := tMe fun t => { t with slot := some 2, spill := [(1, .row 0), (63, .row 1)] }
     s.me.tid ≠ 0 ∧ s.me.slot.isSome = true ∧ s.core.mx.img.wf = true ∧ s.sp.wf = true ∧ (1 : Nat) ≤ 63 ∧ (1 : Nat) ≠ 63 ∧
      s.me.spillEnt 1 = some (.row 0) ∧ s.me.spillEnt 63 ≠ some (.row 0)) :=
  ⟨⟨tCalm (by decide +kernel), by decide, by decide, tLt8 (tLocalGood (by decide +kernel)) (tLocalGood (by decide +kernel)) (tLocalGood (by decide +kernel))
      (tLocalGood (by decide +kernel)) (tLocalGood (by decide +kernel)) (tLocalGood (by decide +kernel)) (tLocalGood (by decide +kernel)) (tLocalGood (by decide +kernel)),
      by decide, by decide, by decide +kernel⟩, by decide +kernel, by decide +kernel, by decide +kernel⟩

/-- An EMPTY entry that the task itself does not produce. -/
def tEnt : Fut := { slot := 5, ent := 5, gen := 7, producer := 9 }

/-- Every layer computes, and g1 names an entry of cluster 0. -/
def tFut (f : Fut) : State :=
  (({ tBase with roles := Vector.replicate 4 .compute } : State).onCluster 0 fun c => { c with futs := [f] }).setG 1 (handleOf 0 0 f.ent f.gen)

def tHasB (s : State) (h : Word) (f : Fut) : Bool :=
  decide (s.handleCause h = none ∧ hDev h = s.deviceId ∧ (s.getCluster (hCl h)).futs.find? (fun f => f.ent == hEnt h && f.gen == hGen h) = some f ∧ f.free = false ∧
    (s.getCluster (hCl h)).awake = true)

theorem tHas {s : State} {h : Word} {f : Fut} (k : tHasB s h f = true) : HasFut s h f := by
  obtain ⟨a, b, c, d, e⟩ := of_decide_eq_true k
  exact ⟨a, b, c, d, e⟩

/-- Handles whose tag, low bits, cluster or layer is wrong; one of a device that is no peer; entries at both ends of their count; FSTAT. -/
theorem witness_FutureReferences :
    ((0x4000000000000000 : Word).extractLsb' 62 2 ≠ 2 ∧ (0x8000000000000001 : Word).extractLsb' 0 19 ≠ 0 ∧ 47 < ((0x8003000000000000 : Word).extractLsb' 44 6).toNat ∧
      ((tBase.setG 1 0x8000000000000000).role 0 ≠ .compute ∧ tBase.clusters.all fun c => c.standing = false)) ∧
    ((tFut tEnt).role 0 = .compute ∧ ((tFut tEnt).g 1).extractLsb' 62 2 = 2 ∧ ((tFut tEnt).g 1).extractLsb' 0 19 = 0 ∧ (((tFut tEnt).g 1).extractLsb' 44 6).toNat ≤ 47 ∧
      (0x8002F00000000000 : Word).extractLsb' 44 6 = 47) ∧
    (tBase.mxBusy = false ∧ tBase.outs = [] ∧ (tG 1).handleCause ((tG 1).g 1) = some 0x098 ∧
      ((tFut tEnt).setG 1 0x8010000000000000).handleCause 0x8010000000000000 = some 0x09A) ∧
    (tBase.me.replayable = false ∧ tBase.me.det = false ∧ HasFut (tFut tEnt) ((tFut tEnt).g 1) tEnt ∧ tEnt.refs ≠ BitVec.allOnes 32 ∧ tEnt.refs ≠ 0 ∧ Fut.free { tEnt with refs := tEnt.refs - 1 } = false) ∧
    (let f : Fut := { tEnt with st := .resolved, live := false }
     HasFut (tFut f) ((tFut f).g 1) f ∧ f.refs ≠ 0 ∧ Fut.free { f with refs := f.refs - 1 } = true) ∧
    (let f : Fut := { tEnt with refs := 0xFFFFFFFF }
     HasFut (tFut f) ((tFut f).g 1) f ∧ f.refs = BitVec.allOnes 32) ∧
    (let f : Fut := { tEnt with refs := 0 }
     HasFut (tFut f) ((tFut f).g 1) f ∧ f.refs = 0) ∧
    (tBase.me.self = 0 ∧
     (let s := (tFut tEnt).onMe fun t => { t with self := handleOf 0 0 5 7 }
      s.me.self ≠ 0 ∧ HasFut s s.me.self tEnt)) :=
  ⟨by decide +kernel, by decide +kernel, by decide +kernel, ⟨by decide +kernel, by decide +kernel, tHas (by decide +kernel), by decide, by decide, by decide⟩,
    ⟨tHas (by decide +kernel), by decide, by decide⟩, ⟨tHas (by decide +kernel), by decide⟩, ⟨tHas (by decide +kernel), by decide⟩, by decide +kernel, by decide +kernel, tHas (by decide +kernel)⟩

theorem witness_FutureSettlement :
    ((tFut tEnt).Calm ∧ HasFut (tFut tEnt) ((tFut tEnt).g 1) tEnt ∧ tEnt.st = .empty ∧ tEnt.live = true ∧ tEnt.waiters = [] ∧ (tFut tEnt).findTask tEnt.producer = none ∧
      ((tFut tEnt).gk (.k 0x1F)).toNat ≤ 0x17F ∧ 0x17F < ((tFut tEnt).gk (.g 1)).toNat ∧ (tFut tEnt).mxBusy = false) ∧
    (let f : Fut := { tEnt with st := .cancelPending }
     (tFut f).Calm ∧ HasFut (tFut f) ((tFut f).g 1) f) ∧
    (let f : Fut := { tEnt with st := .poisoned, val := 0xB8 }
     (tFut f).Calm ∧ HasFut (tFut f) ((tFut f).g 1) f ∧ f.st ≠ .empty) ∧
    (let f : Fut := { tEnt with producer := 1 }
     HasFut (tFut f) ((tFut f).g 1) f ∧ (tFut f).hasStarted f.producer = true) ∧
    (let x : Task := { tid := 9, st := .queued }
     let s : State := { tFut tEnt with tasks := [x] }
     s.Calm ∧ HasFut s (s.g 1) tEnt ∧ tEnt.refs ≠ 0 ∧ s.findTask tEnt.producer = some x ∧ x.st = .queued ∧ x.launched = none ∧ x.tw[6] = 0 ∧ s.me.tid ≠ tEnt.producer) :=
  ⟨⟨tCalm (by decide +kernel), tHas (by decide +kernel), by decide +kernel⟩, ⟨tCalm (by decide +kernel), tHas (by decide +kernel)⟩,
    ⟨tCalm (by decide +kernel), tHas (by decide +kernel), by decide +kernel⟩, ⟨tHas (by decide +kernel), by decide +kernel⟩,
    tCalm (by decide +kernel), tHas (by decide +kernel), by decide +kernel⟩

theorem witness_FutureResults :
    (let f : Fut := { tEnt with st := .resolved, val := 5 }
     (tFut f).Calm ∧ HasFut (tFut f) ((tFut f).g 1) f ∧ f.refs ≠ 0 ∧ Fut.free { f with refs := f.refs - 1 } = false ∧ Fut.free { f with refs := f.refs - 1, live := false } = true) ∧
    (let f : Fut := { tEnt with st := .resolved, live := false }
     (tFut f).Calm ∧ HasFut (tFut f) ((tFut f).g 1) f ∧ Fut.free { f with refs := f.refs - 1 } = true) ∧
    (let f : Fut := { tEnt with st := .poisoned, val := 0x7B, refs := 2 }
     (tFut f).Calm ∧ HasFut (tFut f) ((tFut f).g 1) f ∧ Fut.free { f with refs := f.refs - 1 } = false) ∧
    (let f : Fut := { tEnt with st := .cancelled, val := 0xB9 }
     (tFut f).Calm ∧ HasFut (tFut f) ((tFut f).g 1) f) ∧
    (let f : Fut := { tEnt with producer := 1 }
     (tFut f).Calm ∧ HasFut (tFut f) ((tFut f).g 1) f ∧ f.terminal = false ∧ f.producer = (tFut f).me.tid) ∧
    ((tFut tEnt).Calm ∧ HasFut (tFut tEnt) ((tFut tEnt).g 1) tEnt ∧ tEnt.terminal = false ∧ tEnt.producer ≠ (tFut tEnt).me.tid ∧ (tFut tEnt).me.isHandler = false ∧
      (tFut tEnt).me.tid ≠ 0 ∧ tEnt.waiters = []) :=
  ⟨⟨tCalm (by decide +kernel), tHas (by decide +kernel), by decide +kernel⟩, ⟨tCalm (by decide +kernel), tHas (by decide +kernel), by decide +kernel⟩,
    ⟨tCalm (by decide +kernel), tHas (by decide +kernel), by decide +kernel⟩, ⟨tCalm (by decide +kernel), tHas (by decide +kernel)⟩,
    ⟨tCalm (by decide +kernel), tHas (by decide +kernel), by decide +kernel⟩, tCalm (by decide +kernel), tHas (by decide +kernel), by decide +kernel⟩

/-- A record of zeros is in registers 1 to 8 and in memory at VA 64; register runs that wrap at g63 begin at 56. A task with a context slot and no future, and one with. -/
theorem witness_SpawnAndExit :
    (let s : State := { tBase.setG 20 64 with nextTid := 2 }
     s.Calm ∧ recordCause (Vector.replicate 8 0) = none ∧ s.tableFull s.me.pid (clusterOf s.core.id) = false ∧ s.core.deque.length < 32 ∧ s.nextTid ≠ 0 ∧ s.findTask s.nextTid = none ∧
      (∀ p, s.hasSpill p = false) ∧ (s.getCluster (clusterOf s.core.id)).futs = [] ∧
      (∀ i : Fin 8, (Vector.replicate 8 (0 : Word))[i] = s.g (1 + BitVec.ofNat 6 i)) ∧ (∀ i : Fin 8, (Vector.replicate 8 (0 : Word))[i] = s.g (56 + BitVec.ofNat 6 i)) ∧
      (s.setG 3 16).g 3 ≠ 0 ∧ ((s.setG 3 16).g 3).toNat % 8 = 0 ∧
      (s.g 20).toNat % 64 = 0 ∧ Reaches s (s.g 20) 64 .read (tLeaf s 64 .read) ∧ Good s (tLeaf s 64 .read).place 64 ∧
      ∀ i : Fin 8, (Vector.replicate 8 (0 : Word))[i] = BitVec.ofNat 64 (s.mem.read ((tLeaf s 64 .read).place.key + 8 * i) 8)) ∧
    (tBase.mxBusy = false ∧ ((tG 32).g 1).toNat % 64 ≠ 0 ∧ (0 : GReg).toNat = 0 ∧ 56 < (57 : GReg).toNat ∧ (1 : GReg).toNat ≤ 56 ∧
      recordCause (Vector.ofFn fun i : Fin 8 => tBase.g (1 + BitVec.ofNat 6 i.val)) = none ∧ (63 : GReg) ≠ 0 ∧ ((tBase.setG 63 4).g 63).toNat % 8 ≠ 0) ∧
    (let s := tBase
     s.Calm ∧ s.me.tid ≠ 0 ∧ s.opsOf s.me.tid = [] ∧ s.me.sends = [] ∧ s.me.tw[6] = 0 ∧ s.me.launched = none ∧ (s.getCluster (hCl s.me.self)).intAcc = [] ∧
      (s.clusters.all fun c => c.tiles.isEmpty) ∧ s.me.self = 0) ∧
    (let f : Fut := { tEnt with producer := 1 }
     let s := (tFut f).onMe fun t => { t with self := handleOf 0 0 5 7 }
     HasFut s s.me.self f ∧ f.st = .empty ∧ f.waiters = [] ∧ f.producer = s.me.tid ∧ f.refs ≠ 0) := by
  refine ⟨⟨tCalm ?_, ?_, ?_, ?_, ?_, ?_, ?_, ?_, ?_, ?_, ?_, ?_, ?_, tReaches ?_, ⟨?_, ?_⟩, ?_⟩, ?_, ⟨tCalm ?_, ?_⟩, tHas ?_, ?_⟩ <;> decide +kernel

/-- Every layer computes, and partition 0 has every cell. -/
def tCells : State := ({ tBase with roles := Vector.replicate 4 .compute } : State).onPart 0 fun p => { p with cells := BitVec.allOnes 1536 }

/-- n bytes of value v at VA a. -/
def tAtVa (s : State) (a n v : Nat) : State := { s with mem := s.mem.write (2 ^ 29 + a) n v }

/-- A ring control block at VA 0x1000: its ring at VA 0x2000, with HEAD, TAIL, LOG2N and ESIZE. -/
def tRing (head tail log esize : Nat) : State :=
  tAtVa (tG 0x1000) 0x1000 64 (0x2000 + head * 2 ^ 64 + tail * 2 ^ 128 + log * 2 ^ 192 + esize * 2 ^ 200)

/-- A full ring of 2 entries whose HEAD is 2^64 − 1, and its block as read. -/
def tFull : State := tRing 0xFFFFFFFFFFFFFFFF 1 1 8
def tRcb (s : State) : Rcb := rcbOf (s.mem.read (tLeaf s 0x1000 .atomic).place.key 64)

theorem witness_Atomics :
    (let x := tM 0x18 3 4 0 0 0 0 0
     tBase.NoWatch ∧ (tBase.eaA 0 x).toNat % 8 = 0 ∧ Reaches tBase (tBase.eaA 0 x) 8 .atomic (tLeaf tBase 0x18 .atomic) ∧ Good tBase (tLeaf tBase 0x18 .atomic).place 8 ∧
      (Instr.aadd 1 0 (.g 2) x).wf = true ∧ (Instr.acas 1 0 (.g 2) x).wf = true ∧ (Instr.afadd 1 0 (.g 2) x).wf = true ∧ (Instr.afmax 1 0 (.g 2) x).wf = true) ∧
    (let x := tM 0x4FFC 2 2 2 0 0 0 0
     tTile.NoWatch ∧ (tTile.eaA 0 x).toNat % 4 = 0 ∧ x.scope ≠ 1 ∧ Local tTile 2 (tTile.eaA 0 x) 4 1 ∧ tTile.localGood 2 (tTile.eaA 0 x) 4) ∧
    (tBase.mxBusy = false ∧ (tBase.eaA 0 (tM 4 3 0 0 0 0 0 0)).toNat % 8 ≠ 0 ∧ (tBase.eaA 0 (tM 8 3 0 1 0 0 0 0)).toNat % 8 = 0) ∧
    (let x := tM 8 1 0 0 0 1 0 0
     Reaches (tBad false) ((tBad false).eaA 0 x) 2 .atomic (tLeaf (tBad false) 8 .atomic) ∧ (tBad false).badLine (tLeaf (tBad false) 8 .atomic).place.key 2 = some (2 ^ 23, false) ∧
      (Instr.afmin 1 0 (.g 2) x).wf = true ∧ ((tBad false).eaA 0 x).toNat % 2 = 0) ∧
    ((tMe fun t => { t with det := true }).me.det = true ∧ (tMe fun t => { t with det := true }).mxBusy = false) :=
  ⟨⟨tNoWatch (by decide +kernel), by decide +kernel, tReaches (by decide +kernel), ⟨by decide +kernel, by decide +kernel⟩, by decide⟩,
    ⟨tNoWatch (by decide +kernel), by decide +kernel, by decide, tLocal (by decide +kernel), tLocalGood (by decide +kernel)⟩, by decide +kernel,
    ⟨tReaches (by decide +kernel), by decide +kernel, by decide, by decide +kernel⟩, by decide +kernel⟩

theorem witness_ReductionsAndFences :
    (let x := tM 0x3C 2 0 0 0 1 0 0
     let y := tM 0x3C 2 0 0 0 1 0 2
     (Instr.rdmin 0 (.k 1) x).wf = true ∧ (Instr.rdmax 0 (.k 1) y).wf = true ∧ (tBase.eaA 0 x).toNat % 4 = 0 ∧ Reaches tBase (tBase.eaA 0 x) 4 .atomic (tLeaf tBase 0x3C .atomic) ∧
      Good tBase (tLeaf tBase 0x3C .atomic).place 4 ∧ x.hint.l1p ≠ 2 ∧ y.hint.l1p = 2 ∧ tBase.NoWatch ∧ tBase.stagedWays tBase.core.id (l1Set (tLeaf tBase 0x3C .atomic).place.line) = [] ∧
      (Instr.rdfadd 0 (.k 0) (tM 0x3E 1 0 0 0 1 0 2)).wf = true ∧ (tBase.eaA 0 (tM 2 2 0 0 0 0 0 0)).toNat % 4 ≠ 0 ∧ tBase.mxBusy = false) ∧
    ((Instr.rdflush 0 (tM 7 0 0 0 0 0 0 0)).wf = true ∧ Reaches tBase (tBase.eaA 0 (tM 7 0 0 0 0 0 0 0)) 1 .read (tLeaf tBase 7 .read) ∧ Good tBase (tLeaf tBase 7 .read).place 1) ∧
    (tBase.Calm ∧ (0 : BitVec 6).toNat ≤ 3 ∧ (3 : BitVec 6).toNat ≤ 3 ∧ 1 ≤ (1 : BitVec 6).toNat ∧ (5 : BitVec 6).toNat ≤ 5) ∧
    (tBase.mxBusy = false ∧ 3 < (4 : BitVec 6).toNat ∧ (0 : BitVec 6).toNat < 1 ∧ 5 < (6 : BitVec 6).toNat) :=
  ⟨⟨by decide, by decide, by decide +kernel, tReaches (by decide +kernel), ⟨by decide +kernel, by decide +kernel⟩, by decide, by decide, tNoWatch (by decide +kernel), by decide +kernel⟩,
    ⟨by decide, tReaches (by decide +kernel), ⟨by decide +kernel, by decide +kernel⟩⟩, ⟨tCalm (by decide +kernel), by decide⟩, by decide +kernel⟩

/-- A counter at VA 0x1000 that holds 2^64 − 2: sums that just fit and that just do not, and values of T below, at and above it. -/
theorem witness_Counters :
    let s := tAtVa (tG 0xFFFFFFFFFFFFFFFE) 0x1000 8 0xFFFFFFFFFFFFFFFE
    let x := tM 0x1000 3 0 0 0 0 0 0
    let l := tLeaf s 0x1000 .atomic
    let r := tLeaf s 0x1000 .read
    ((Instr.ctradd 0 (.k 1) x).wf = true ∧ Reaches s (s.eaA 0 x) 8 .atomic l ∧ Good s l.place 8 ∧ (s.eaA 0 x).toNat % 8 = 0 ∧ s.NoWatch ∧ (1 : BitVec 6).msb = false ∧
      s.mem.read l.place.key 8 + (s.gk (.k 1)).toNat < 2 ^ 64 ∧ 2 ^ 64 ≤ s.mem.read l.place.key 8 + (s.gk (.k 2)).toNat) ∧
    (Reaches s (s.eaA 0 x) 8 .read r ∧ Good s r.place 8 ∧ (s.gk (.g 1)).toNat = s.mem.read r.place.key 8 ∧
      (s.gk (.k 1)).toNat < s.mem.read r.place.key 8 ∧ (tM 0x1000 3 0 0 0 1 0 0).mod.getLsbD 0 = true ∧ (Instr.ctrwait 1 0 (.k 1) (tM 0x1000 3 0 0 0 1 0 0)).wf = true) ∧
    (let u := tG 1
     Reaches u (u.eaA 0 x) 8 .read (tLeaf u 0x1000 .read) ∧ Good u (tLeaf u 0x1000 .read).place 8 ∧ u.mem.read (tLeaf u 0x1000 .read).place.key 8 < (u.gk (.g 1)).toNat ∧
      u.NoWatch ∧ u.me.isHandler = false ∧ u.me.tid ≠ 0) :=
  ⟨⟨by decide, tReaches (by decide +kernel), ⟨by decide +kernel, by decide +kernel⟩, by decide +kernel, tNoWatch (by decide +kernel), by decide +kernel⟩,
    ⟨tReaches (by decide +kernel), ⟨by decide +kernel, by decide +kernel⟩, by decide +kernel⟩,
    tReaches (by decide +kernel), ⟨by decide +kernel, by decide +kernel⟩, by decide +kernel, tNoWatch (by decide +kernel), by decide +kernel⟩

/-- A counter at VA 0x1000, g1 and g2 a record VA and a target cluster; a WAIT entry of a parked task whose T is the word's value, and one above. -/
theorem witness_CounterArming :
    (let s := tCells.setG 1 64
     let x := tM 0x1000 3 0 0 0 0 0 0
     Reaches s (s.eaA 0 x) 8 .read (tLeaf s 0x1000 .read) ∧ (s.eaA 0 x).toNat % 8 = 0 ∧ 1 ≤ (1 : GReg).toNat ∧ (62 : GReg).toNat ≤ 62 ∧ (5 : BitVec 6).msb = false ∧
      (s.g 1).toNat % 64 = 0 ∧ s.NoWatch ∧ Reaches s (s.g 1) 64 .read (tLeaf s 64 .read) ∧ Good s (tLeaf s 64 .read).place 64 ∧
      s.Together (s.g 1) (tLeaf s 64 .read) (s.eaA 0 x) (tLeaf s 0x1000 .read) ∧ s.Together (s.eaA 0 x) (tLeaf s 0x1000 .read) (s.g 1) (tLeaf s 64 .read) ∧
      (∀ i : Fin 8, (Vector.replicate 8 (0 : Word))[i] = BitVec.ofNat 64 (s.mem.read ((tLeaf s 64 .read).place.key + 8 * i) 8)) ∧
      recordCause (Vector.replicate 8 0) = none ∧ s.targetOk (s.g (1 + 1)) = true ∧ s.mem.read (tLeaf s 0x1000 .read).place.key 8 < (s.gk (.k 5)).toNat ∧
      (s.getSlice (s.homeSlice ((tLeaf s 0x1000 .read).place.key / 64))).marks = []) ∧
    (∀ t ∈ [(5 : Word), 6],
      let w : Watch := { key := 2 ^ 29, t := t, act := .wait 9, arrival := 0, pid := 0 }
      let x : Task := { tid := 9, st := .parked }
      let u : State := { tAtVa tBase 0 8 5 with tasks := [x] }
      let s := u.onSlice (u.homeSlice (2 ^ 29 / 64)) fun l => { l with watch := [w] }
      (s.getSlice (s.homeSlice (2 ^ 29 / 64))).watch = [w] ∧ (s.getSlice (s.homeSlice (2 ^ 29 / 64))).marks = [] ∧ s.findTask 9 = some x ∧ x.det = false ∧ x.st = .parked ∧
      (s.mem.read (2 ^ 29) 8 = 5)) :=
  ⟨⟨tReaches (by decide +kernel), by decide +kernel, by decide, by decide, by decide, by decide +kernel, tNoWatch (by decide +kernel), tReaches (by decide +kernel),
    ⟨by decide +kernel, by decide +kernel⟩, tTogether (by decide +kernel), tTogether (by decide +kernel), by decide +kernel, by decide +kernel, by decide +kernel,
    by decide +kernel, by decide +kernel⟩, tAll (by decide +kernel)⟩

/-- Rings of 2 entries of 8 bytes, full, and of one entry of 64 bytes, empty; blocks that are refused. -/
theorem witness_Queues :
    (tFull.NoWatch ∧ Reaches tFull (tFull.eaA 1 (tM 0 3 0 0 0 0 0 0)) 64 .atomic (tLeaf tFull 0x1000 .atomic) ∧ Good tFull (tLeaf tFull 0x1000 .atomic).place 64 ∧
      (tRcb tFull).ok = true ∧ (tRcb tFull).used = 2 ^ (tRcb tFull).log ∧ (tRcb tFull).hostvis = false ∧ (tRcb tFull).esize = 8 ∧
      Reaches tFull ((tRcb tFull).entry (tRcb tFull).head) 8 .read (tLeaf tFull ((tRcb tFull).entry (tRcb tFull).head) .read) ∧ Good tFull (tLeaf tFull ((tRcb tFull).entry (tRcb tFull).head) .read).place 8 ∧
      tFull.Together (tFull.eaA 1 (tM 0 3 0 0 0 0 0 0)) (tLeaf tFull 0x1000 .atomic) ((tRcb tFull).entry (tRcb tFull).head) (tLeaf tFull ((tRcb tFull).entry (tRcb tFull).head) .read)) ∧
    (let s := tRing 3 3 0 64
     s.NoWatch ∧ Reaches s (s.eaA 1 (tM 0 6 0 0 0 0 0 0)) 64 .atomic (tLeaf s 0x1000 .atomic) ∧ (tRcb s).used = 0 ∧ (tRcb s).esize = (tM 0 6 0 0 0 0 0 0).bytes ∧
      Reaches s ((tRcb s).entry (tRcb s).tail) 64 .write (tLeaf s ((tRcb s).entry (tRcb s).tail) .write) ∧
      s.Together (s.eaA 1 (tM 0 6 0 0 0 0 0 0)) (tLeaf s 0x1000 .atomic) ((tRcb s).entry (tRcb s).tail) (tLeaf s ((tRcb s).entry (tRcb s).tail) .write)) ∧
    (tBase.mxBusy = false ∧ ((tG 0x1020).eaA 1 (tM 0 3 0 0 0 0 0 0)).toNat % 64 ≠ 0) ∧
    ((tRcb (tRing 0 0 21 8)).ok = false ∧ (tRcb (tRing 0 0 1 9)).ok = false ∧ (tRcb (tRing 0 3 1 8)).ok = true ∧ 2 ^ (tRcb (tRing 0 3 1 8)).log < (tRcb (tRing 0 3 1 8)).used ∧
      tReachB (tRing 0 3 1 8) ((tRing 0 3 1 8).eaA 1 (tM 0 3 0 0 0 0 0 0)) 64 .atomic = true) :=
  ⟨⟨tNoWatch (by decide +kernel), tReaches (by decide +kernel), ⟨by decide +kernel, by decide +kernel⟩, by decide +kernel, by decide +kernel, by decide +kernel,
      by decide +kernel, tReaches (by decide +kernel), ⟨by decide +kernel, by decide +kernel⟩, tTogether (by decide +kernel)⟩,
    ⟨tNoWatch (by decide +kernel), tReaches (by decide +kernel), by decide +kernel, by decide +kernel, tReaches (by decide +kernel), tTogether (by decide +kernel)⟩, by decide +kernel, by decide +kernel⟩

/-- Class 3 is enabled in cluster 0; the destination is cluster 0 of this device. -/
def tMsg : State := (tCells.setG 1 0).onCluster 0 fun c => { c with classTab := c.classTab.set 3 { entry := 0x4000, prio := 1, budget := 5, enable := true } }

def tMessage : Message := { id := 5, srcDev := 0, srcCore := 2, cls := 3, flits := 4, payload := [1, 2, 3] }

theorem witness_MessageSends :
    (tMsg.Calm ∧ ((0 : BitVec 4) ≠ 8 ∧ (56 : GReg).toNat + (8 : BitVec 4).toNat ≤ 64 ∧ (29 : VReg).toNat + (3 : BitVec 4).toNat ≤ 32) ∧
      (Instr.msend 10 1 56 3 8).wf = true ∧ (Instr.msendv 10 1 29 3 3).wf = true ∧ (Instr.msend 10 1 0 3 0).wf = true) ∧
    ((tMsg.part 0).regs.maxmsg.toNat = 4 ∧ (tMsg.onPart 0 fun p => { p with regs := { p.regs with maxmsg := 1 } }).Calm ∧
      ((tMsg.onPart 0 fun p => { p with regs := { p.regs with maxmsg := 1 } }).part 0).regs.maxmsg.toNat < 1 + 1) ∧
    (tMsg.destOk (tMsg.g 1) = true ∧ (rd (tMsg.getCluster 0).classTab (3 : BitVec 4)).enable = true ∧ (rd (tMsg.getCluster 0).classTab (4 : BitVec 4)).enable = false ∧
      (tMsg.g 1).extractLsb' 16 10 = tMsg.deviceId ∧ tMsg.me.isHandler = false ∧ tMsg.msgsHeld 0 = [] ∧
      ({ tMsg with waits := [.messageArrive 0 tMessage] } : State).msgsHeld 0 ≠ [] ∧ (tMsg.setG 1 1).destOk ((tMsg.setG 1 1).g 1) = false) ∧
    (let s := tMsg.onMe fun t => { t with tw := t.tw.set 7 0x20000 }
     s.Calm ∧ s.me.isHandler = true ∧ s.me.sends.length < 8 ∧ s.destOk (s.g 1) = true) :=
  ⟨⟨tCalm (by decide +kernel), by decide⟩, ⟨by decide +kernel, tCalm (by decide +kernel), by decide +kernel⟩, by decide +kernel, tCalm (by decide +kernel), by decide +kernel⟩

/-- Another device is a peer that the destination may name. -/
theorem witness_MessageSends_away :
    let s := ({ tMsg with peers := [3] } : State).onCluster 0 fun c => { c with classTab := c.classTab.set 3 { entry := 0x4000, enable := true } }
    s.Calm ∧ (s.setG 1 0x30000).destOk 0x30000 = true ∧ (0x30000 : Word).extractLsb' 16 10 ≠ s.deviceId ∧ s.me.isHandler = false :=
  ⟨tCalm (by decide +kernel), by decide +kernel⟩

theorem witness_MessageRegistersAndHandlers :
    let m := tMessage
    (tMsg.me.det = false ∧ (tMsg.getCluster 0).msgs = [] ∧ (tMsg.getCluster 0).msgFrames = []) ∧
    (let s := tMsg.onMe fun t => { t with tw := t.tw.set 7 0x20000, msg := some m }
     s.me.msg = some m ∧ s.me.isHandler = true ∧ (s.gk (.k 23)).toNat ≤ 23 ∧ (s.gk (.k 2)).toNat ≤ 2 ∧ s.me.det = false) ∧
    (tMsg.me.msg = none ∧ tMsg.mxBusy = false) ∧
    (let s : State := { tMsg with ev := some (.messageArrive 0 m), nextTid := 2 }
     s.ev = some (.messageArrive 0 m) ∧ (s.getCluster 0).awake = true ∧ (rd (s.getCluster 0).classTab m.cls).enable = true ∧ (s.getCluster 0).msgs = [] ∧
      s.msgsHeld 0 = [] ∧ (s.getCluster 0).msgFrames = [] ∧ (fitRun (s.getCluster 0).sysFrames sysFrameCount 1).isSome = true ∧
      (s.allCores.all fun c => decide (c.deque.length < 32)) = true ∧ (s.getCluster 0).live.getLsbD m.cls.toNat = false ∧ s.nextTid ≠ 0 ∧ s.me.tid ≠ s.nextTid ∧
      ((s.onCluster 0 fun c => { c with live := 8 }).getCluster 0).live.getLsbD m.cls.toNat = true) := by decide +kernel

/-- The base state with its page strong (R218: ORD 1). -/
def tStrong : State := { tBase with mem := tBase.mem.write 0x220000 8 (2 ^ 29 + 0x7783) }

/-- A capsule block at VA 0x1000 whose footprint is line 2 of its page, with a lock word, a code address, a step word and an adoption word. -/
def tBlock (lock code stepw adopt : Nat) : State :=
  tAtVa (tStrong.setG 1 0x1000) 0x1000 128 (lock + stepw * 2 ^ 64 + code * 2 ^ 640 + 4 * 2 ^ 704 + adopt * 2 ^ 960)

/-- A task in the capsule of that block, which it holds. -/
def tHeld (f : Task → Task) : State := (tBlock 0x100000001 0 0 0).onMe fun t => f { t with capsule := true, cap := { block := 0x1000, foot := 4, ret := 0x5000 } }

def tCapB (s : State) : Bool :=
  let ea := s.eaA 1 (tM 0 0 0 0 0 0 0 0)
  let l := tLeaf s 0x1000 .atomic
  let b := blockAt s.mem l.place.key
  decide (s.me.capsule = false ∧ s.me.tid ≠ 0 ∧ s.me.isHandler = false ∧ s.mem.wf = true ∧ ea = 0x1000 ∧ l.ent.ord = 1 ∧ l.ent.kind = 0 ∧ b.formOk = true ∧ footOk b.foot ea = true ∧
    s.lostHome l.place 128 = false ∧ s.badLine l.place.key 128 = none) && tNoWatchB s && tReachB s 0x1000 128 .atomic

/-- The block of a state, as its commits read it. -/
def tBlk (s : State) : Block := blockAt s.mem (tLeaf s 0x1000 .atomic).place.key

/-- A holder in a state that may commit at once. -/
def tCommitB (s : State) : Bool :=
  let l := tLeaf s 0x1000 .atomic
  decide (s.me.capsule = true ∧ s.mem.wf = true ∧ s.me.cap.block = 0x1000 ∧ l.ent.ord = 1 ∧ l.ent.kind = 0 ∧ l.pa < 2 ^ 52 ∧ l.pa % 4096 = 0x1000 % 4096 ∧
    lockState (tBlk s).lock = 1 ∧ lockOwner (tBlk s).lock = s.me.tid ∧ s.me.cap.adopting = false ∧ s.lostHome l.place 128 = false ∧ s.badLine l.place.key 128 = none) &&
    tNoWatchB s && tReachB s 0x1000 128 .atomic

/-- A FREE and a DONE block; one of another address space; one whose holder has been descheduled for ADOPTDLY cycles, for one less, and one whose holder runs. -/
theorem witness_CapsuleEntry :
    (tCapB (tBlock 0 0x4000 0 0) = true ∧ lockState (tBlk (tBlock 0 0x4000 0 0)).lock = 0 ∧ tCapB (tBlock 3 0x4000 0 0) = true ∧ lockState (tBlk (tBlock 3 0x4000 0 0)).lock = 3) ∧
    (let s := tBlock 0x900000001 0x4000 0 (5 * 2 ^ 48)
     tCapB s = true ∧ lockState (tBlk s).lock = 1 ∧ adoptAsid (tBlk s).adoptw ≠ s.me.asid) ∧
    (let y : Task := { tid := 9, st := .parked }
     let s (c : Nat) : State := { tBlock 0x900000001 0x4000 0 0 with tasks := [y], clock := c }
     tCapB (s 2000) = true ∧ adoptAsid (tBlk (s 2000)).adoptw = (s 2000).me.asid ∧ (s 2000).findTask (tBlk (s 2000)).watched.1 = some y ∧ y.cl = (tBlk (s 2000)).watched.2 ∧ y.st = .parked ∧
      (s 2000).slow.getLsbD (layerOf y.cl).toNat = false ∧ ((s 2000).part 0).regs.adoptdly.toNat ≤ 2000 - y.desched ∧
      tCapB (s 1999) = true ∧ ¬ ((s 1999).part 0).regs.adoptdly.toNat ≤ 1999 - y.desched) ∧
    (let y : Task := { tid := 9, st := .running, core := 1 }
     let s : State := ({ tBlock 0x900000002 0x4000 0 9 with tasks := [y] } : State).putCore { id := 1, running := 9 }
     tCapB s = true ∧ lockState (tBlk s).lock = 2 ∧ s.findTask (tBlk s).watched.1 = some y ∧ y.cl = (tBlk s).watched.2 ∧ y.st = .running ∧
      (s.getCore 1).running = (tBlk s).watched.1 ∧ (tBlk s).watched.1 ≠ 0 ∧ (s.getCore 1).awake = true ∧ (s.getCore 1).halted = false) := by decide +kernel

theorem tCapB_reaches {s : State} (h : tCapB s = true) : Reaches s 0x1000 128 .atomic (tLeaf s 0x1000 .atomic) ∧ s.NoWatch := by
  simp only [tCapB, Bool.and_eq_true] at h
  exact ⟨tReaches h.2, tNoWatch h.1.2⟩

theorem tCommitB_reaches {s : State} (h : tCommitB s = true) : Reaches s 0x1000 128 .atomic (tLeaf s 0x1000 .atomic) ∧ s.NoWatch := by
  simp only [tCommitB, Bool.and_eq_true] at h
  exact ⟨tReaches h.2, tNoWatch h.1.2⟩

/-- A holder at its first step and at step 63, with the next PC 1 and 65,535 words from CODE; with a pending store in the footprint; one that was replaced; a task outside a
capsule; the two events; and a holder that stores inside and outside its footprint. -/
theorem witness_CapsuleCommits :
    (let s := tHeld id
     tCommitB s = true ∧ s.me.cap.pending = none ∧ stepOf (tBlk s).stepw = s.me.cap.expected ∧ s.me.cap.expected < 64 ∧ (s.pc + 12 - (tBlk s).code).toNat = 12 * 1) ∧
    (let s := (tAtVa (tHeld fun t => { t with pc := 12 * 65534, cap := { t.cap with expected := 63, pending := some (0x1080, 8, 5) } }) 0x1008 8 63)
     tCommitB s = true ∧ stepOf (tBlk s).stepw = s.me.cap.expected ∧ (s.pc + 12 - (tBlk s).code).toNat = 12 * 65535 ∧ (0x1080 : Word).toNat % 64 + 8 ≤ 64 ∧
      (0x1080 : Word).toNat % 4096 / 128 ≠ s.me.cap.block.toNat % 4096 / 128) ∧
    (let s := (tBlock 0 0 0 0).onMe fun t => { t with capsule := true, cap := { block := 0x1000, foot := 4, ret := 0x5000 }, ret := { how := 2 } }
     tReachB s s.me.cap.block 128 .atomic = true ∧ (tLeaf s 0x1000 .atomic).ent.ord = 1 ∧ (tLeaf s 0x1000 .atomic).ent.kind = 0 ∧ lockState (tBlk s).lock = 0 ∧ s.me.cap.adopting = false ∧ s.me.ret.how = 2 ∧
      s.badLine (tLeaf s 0x1000 .atomic).place.key 128 = none ∧ s.lostHome (tLeaf s 0x1000 .atomic).place 128 = false) ∧
    (tCalmB tBase = true ∧ tBase.me.capsule = false) ∧
    (let s : State := { tBase with ev := some (.capsuleDeliveryAck 0x20001000) }
     s.ev = some (.capsuleDeliveryAck 0x20001000) ∧ tNoWatchB s = true ∧ s.mem.wf = true) ∧
    ({ tBase with ev := some (.capsuleAdoptTimer 9) } : State).ev = some (.capsuleAdoptTimer 9) ∧
    (let s := tHeld id
     s.me.capsule = true ∧ s.mxBusy = false ∧ s.me.cap.stores = 0 ∧ (0x10B8 : Nat) / 4096 = s.me.cap.block.toNat / 4096 ∧ s.me.cap.foot.getLsbD (0x10B8 % 4096 / 64) = true ∧
      (s.ea (.g 0) (.g 0) (tM 0x10B8 3 0 0 0 0 0 0)).toNat % 8 = 0 ∧ s.me.cap.foot.getLsbD (0x10C0 % 4096 / 64) = false) ∧
    (let s := tHeld fun t => { t with cap := { t.cap with stores := 1, pending := some (0x1080, 8, 5) } }
     s.me.cap.stores ≠ 0 ∧ tReachB s (s.ea (.g 0) (.g 0) (tM 0x1080 3 0 0 0 0 0 0)) 8 .read = true ∧ (Instr.ld 1 (.g 0) (.g 0) (tM 0x1080 3 0 0 0 0 0 0)).wf = true) := by decide +kernel

/-- A barrier of this device alone: its descriptor at VA 0x1000, its group at VA 0x2000. -/
def tColl (op : Nat) (s : State) : State :=
  tAtVa (tAtVa s 0x1000 64 ((if op = 4 then 0 else 0x3000 + 0x3040 * 2 ^ 64) + 0x2000 * 2 ^ 128 + op * 2 ^ 192 + 2 * 2 ^ 200)) 0x2000 8 1

/-- The same for an operation on the two shape records at VA 0x3000. -/
def tCollOp (op : Nat) : State :=
  let x := 0x20000 + 2 ^ 64 * 0x400000004 + 2 ^ 192 * 16 + 2 ^ 448 * 0x0000020000020002
  tColl op (tAtVa (tAtVa (tG 0x1000) 0x3000 64 x) 0x3040 64 x)

/-- What COLL asks of its descriptor, its group and the records that it names. -/
def tCollB (s : State) (named : List (Word × Leaf)) : Bool :=
  let l := tLeaf s (s.g 1) .read
  let x := s.mem.read l.place.key 64
  let gva := BitVec.ofNat 64 (x / 2 ^ 128)
  let lg := tLeaf s gva .read
  let op := x / 2 ^ 192 % 256
  let n := s.mem.read lg.place.key 4
  let ids := (List.range n).map fun i => BitVec.ofNat 16 (s.mem.read (lg.place.key + 8 + 2 * i) 2)
  let record (r : Leaf) : List Word := (List.range 8).map fun i => BitVec.ofNat 64 (s.mem.read (r.place.key + 8 * i) 8)
  let all := (s.g 1, l) :: (gva, lg) :: named
  decide ((s.g 1).toNat % 64 = 0 ∧ op ≤ 4 ∧ x / 2 ^ 200 % 256 ≤ 2 ∧ x / 2 ^ 224 % 2 ^ 32 = 0 ∧ x / 2 ^ 384 = 0 ∧ gva = 0x2000 ∧ 1 ≤ n ∧ n ≤ 1024 ∧
      s.mem.read (lg.place.key + 4) 4 = 0 ∧ (op = 3 → x / 2 ^ 208 % 2 ^ 16 < n) ∧ s.memberId ∈ ids ∧ ids.Nodup) &&
    ((named.map Prod.fst) == if op = 4 then [] else [BitVec.ofNat 64 x, BitVec.ofNat 64 (x / 2 ^ 64)]) &&
    tReachB s (s.g 1) 64 .read && tReachB s gva (8 + 2 * n) .read && (s.tlbsFor (s.g 1)).isEmpty && (s.tlbsFor gva).isEmpty &&
    (named.all fun r => decide (r.1.toNat % 64 = 0 ∧ r.2 = tLeaf s r.1 .read ∧ (tsrOf (record r.2)).formCause = none ∧ (tsrOf (record r.2)).fmt = 0) &&
      tReachB s r.1 64 .read && !s.lostHome r.2.place 64 && (s.badLine r.2.place.key 64).isNone) &&
    all.all fun p => all.all fun q => tTogetherB s p.1 p.2 q.1 q.2

/-- A collective of the task. -/
def tPart : CollPart := { tid := 1, desc := 0x1000, id := 3, op := 4, rop := 0, root := 0, group := [0], rank := 0, ctag := 0, fmt := 0, ext := [], src := [], dst := [], ctr := 0, pid := 0, asid := 0 }

theorem witness_Collectives :
    (tCollB (tColl 4 (tG 0x1000)) [] = true ∧ ∀ op ∈ [0, 1, 2, 3],
      tCollB (tCollOp op) [(0x3000, tLeaf (tCollOp op) 0x3000 .read), (0x3040, tLeaf (tCollOp op) 0x3040 .read)] = true) ∧
    (tBase.mxBusy = false ∧ tBase.me.replayable = false ∧ ((tG 32).g 1).toNat % 64 ≠ 0) ∧
    ((tG 0x1000).colls.find? fun c => c.tid == 1 && c.desc == 0x1000) = none ∧
    (∀ q ∈ [{ tPart with finished := true }, { tPart with finished := true, outcome := some 0x106 }, tPart],
      (({ tG 0x1000 with colls := [q] } : State).colls.find? fun c => c.tid == 1 && c.desc == (tG 0x1000).g 1) = some q) ∧
    (let s : State := { tBase with ev := some (.collectiveComplete 3), colls := [tPart] }
     tPart.id = 3 ∧ tPart.finished = false ∧ s.findTask tPart.tid = some s.me ∧ tPart.op = 4 ∧ tPart.group = [s.memberId] ∧ s.pod.fenced.getLsbD s.memberId.toNat = false ∧ tPart.ctr = 0 ∧
      tPart.waiting = false ∧ tPart.spoiled = [] ∧ tPart.moved = false ∧ s.outs = [] ∧ s.waits = []) ∧
    (∀ r ∈ [(0x8000000000000005 : Word), 0x8000000000030005, 0],
      let s := ({ tBase with ev := some (.reductionPartialSum 0 3) } : State).onCore fun c => { c with redtree := r }
      (s.getCore 0).redtree = r ∧ s.agenda = []) ∧
    ((0x8000000000000005 : Word).extractLsb' 16 10 = tBase.deviceId ∧ (0x8000000000030005 : Word).extractLsb' 16 10 ≠ tBase.deviceId ∧ (0x8000000000030005 : Word).getLsbD 63 = true) :=
  ⟨⟨by decide +kernel, tAll (by decide +kernel)⟩, by decide +kernel, by decide +kernel, tAll (by decide +kernel), by decide +kernel, tAll (by decide +kernel), by decide +kernel⟩

theorem witness_TlbInvalidations : tBase.Calm ∧ tBase.me.asid = (tBase.part tBase.me.pid).sysasid ∧ ∀ c ∈ tBase.allCores, c.mx.queue = [] :=
  ⟨tCalm (by decide +kernel), by decide +kernel, tAll (by decide +kernel)⟩

/-- A TRAPPED task 9, and a number that names none. -/
def tTrapped : State := { tG 9 with tasks := [{ tid := 9, st := .trapped, intrap := true, parkCause := 0x128 }] }

theorem tTrapped_found : tTrapped.findTask 9 = some { tid := 9, st := .trapped, intrap := true, parkCause := 0x128 } := by decide +kernel

/-- The TRAPPED task 9 of the base state, named by g1, and a debug image at VA 0x10000, in g2, whose PC word is pc. -/
def tDebug (pc : Nat) : State := tAtVa (tTrapped.setG 2 0x10000) (0x10000 + 2624) 8 pc

/-- A partition area at VA 0x10000 whose header names a size of 256 bytes, a stepping, this device and the partition's cells. -/
def tImage (step : Nat) (cells : Nat) : State :=
  { tAtVa (tG 0x10000) 0x10000 208 (256 + 2 ^ 64 * step + 2 ^ 128 * cells) with
    images := [{ size := 256, key := 3, pid := 0, part := {}, tasks := [], cores := [], clusters := [], cm := [], watch := [], capWaits := [] }] }

/-- What the header says. -/
def tImageMine (s : State) : Bool :=
  let h := s.mem.read (tLeaf s (s.g 1) .read).place.key 256
  decide (h / 2 ^ 82 % 2 ^ 10 = s.deviceId.toNat ∧ h / 2 ^ 128 % 2 ^ 1536 = (s.part s.me.pid).cells.toNat) && s.alone

theorem tGood {s : State} {p : Phys} {n : Nat} (h : (!s.lostHome p n && (s.badLine p.key n).isNone) = true) : Good s p n := by
  simp only [Bool.and_eq_true, Bool.not_eq_true', Option.isNone_iff_eq_none] at h
  exact ⟨h.1, h.2⟩

/-- A number that names no task, and one that names a TRAPPED task, with an image whose PC is a multiple of 4 and one whose PC is not. -/
theorem witness_ReplaysAndDebugImages :
    (tTrapped.Calm ∧ tTrapped.me.asid = (tTrapped.part tTrapped.me.pid).sysasid ∧ (∀ c ∈ tTrapped.clusters, c.intAcc = []) ∧
      (tTrapped.g 1).extractLsb' 32 32 = 0 ∧ (tTrapped.g 1).extractLsb' 0 32 = 9 ∧ (9 : BitVec 32) ≠ tTrapped.me.tid) ∧
    (tBase.findTask ((tBase.g 1).extractLsb' 0 32) = none) ∧
    (Reaches (tDebug 0) ((tDebug 0).g 2) 4096 .write (tLeaf (tDebug 0) ((tDebug 0).g 2) .write) ∧ (tDebug 0).NoWatch) ∧
    (let s := tDebug 0x7FFFFFFFFFFFFFFC
     s.Calm ∧ s.findTask ((s.g 1).extractLsb' 0 32) = some { tid := 9, st := .trapped, intrap := true, parkCause := 0x128 } ∧
      Reaches s (s.g 2) 4096 .read (tLeaf s (s.g 2) .read) ∧ Good s (tLeaf s (s.g 2) .read).place 4096 ∧
      (BitVec.ofNat 64 (s.mem.read (tLeaf s (s.g 2) .read).place.key 4096 / 2 ^ (8 * 2624))).extractLsb' 0 2 = 0) ∧
    (let s := tDebug 1
     Reaches s (s.g 2) 4096 .read (tLeaf s (s.g 2) .read) ∧ Good s (tLeaf s (s.g 2) .read).place 4096 ∧
      (BitVec.ofNat 64 (s.mem.read (tLeaf s (s.g 2) .read).place.key 4096 / 2 ^ (8 * 2624))).extractLsb' 0 2 ≠ 0) :=
  ⟨⟨tCalm (by decide +kernel), by decide +kernel, tAll (by decide +kernel), by decide +kernel⟩, by decide +kernel,
    ⟨tReaches (by decide +kernel), tNoWatch (by decide +kernel)⟩,
    ⟨tCalm (by decide +kernel), by decide +kernel, tReaches (by decide +kernel), tGood (by decide +kernel), by decide +kernel⟩,
    ⟨tReaches (by decide +kernel), tGood (by decide +kernel), by decide +kernel⟩⟩

/-- An area that is too small for any image, and one image of a device with other cells. -/
theorem witness_PartitionImages :
    (tBase.Calm ∧ tBase.me.asid = (tBase.part tBase.me.pid).sysasid ∧ (tBase.g 2).toNat < imageSize tBase.freeCount) ∧
    (let s := tImage 5 1
     Reaches s (s.g 1) 256 .read (tLeaf s (s.g 1) .read) ∧ Good s (tLeaf s (s.g 1) .read).place 256 ∧ tImageMine s = false) := by
  refine ⟨⟨tCalm (by decide +kernel), by decide +kernel, ?_⟩, tReaches (by decide +kernel), tGood (by decide +kernel), by decide +kernel⟩
  have : (tBase.g 2).toNat = 0 := by decide +kernel
  unfold imageSize
  omega

/-- An area that takes the image. The size of an image is a constant that no proof sees: the witness takes it where the device's image has no
more than its header, a value that the constant may have. -/
theorem witness_PartitionImages_save (h : Config.imageBody ((tG 0x10000).setG 2 256).freeCount = 0) :
    let s := (tG 0x10000).setG 2 256
    let u : State := { s with freeCount := s.freeCount + 1 }
    imageSize s.freeCount ≤ (s.g 2).toNat ∧ s.me.tid ≠ 0 ∧ s.me.isHandler = false ∧ areaParts (s.g 1) (imageSize s.freeCount) = [(s.g 1, 256)] ∧
      Reaches u (s.g 1) 256 .write (tLeaf u (s.g 1) .write) ∧ u.Together (s.g 1) (tLeaf u (s.g 1) .write) (s.g 1) (tLeaf u (s.g 1) .write) := by
  have e : imageSize ((tG 0x10000).setG 2 256).freeCount = 256 := by unfold imageSize; rw [h]
  intro s u
  rw [e]
  exact ⟨by decide +kernel, by decide +kernel, by decide +kernel, by decide +kernel, tReaches (by decide +kernel), tTogether (by decide +kernel)⟩

/-- An image of another stepping, and one that this device holds: the stepping too is a constant that no proof sees. -/
theorem witness_PartitionImages_load (h : Config.stepping = 5) :
    (tImageMine (tImage 6 0) = true ∧ (tImage 6 0).mem.read (tLeaf (tImage 6 0) ((tImage 6 0).g 1) .read).place.key 256 / 2 ^ 64 % 2 ^ 16 ≠ Config.stepping.toNat) ∧
    (let s := tImage 5 0
     let l := tLeaf s (s.g 1) .read
     ∃ i i0, tImageMine s = true ∧ s.mem.read l.place.key 256 / 2 ^ 64 % 2 ^ 16 = Config.stepping.toNat ∧ s.Together (s.g 1) l (s.g 1) l ∧
      s.images.find? (fun i => i.size == s.mem.read l.place.key 256 % 2 ^ 64) = some i0 ∧ areaParts (s.g 1) i0.size = [(s.g 1, 256)] ∧
      Reaches s (s.g 1) 256 .read l ∧ Good s l.place 256 ∧
      s.images.find? (fun i => i.size == i0.size && imageMatches ([(s.g 1, 256)].flatMap fun q => natBytes q.2 (s.mem.read l.place.key q.2)) i) = some i ∧ s.roomFor i = true ∧
      (∀ x ∈ i.tasks, x.tid ≠ s.me.tid) ∧ i.watch = []) := by
  rw [h]
  refine ⟨⟨by decide +kernel, by decide +kernel⟩, ?_⟩
  let i : Image := { size := 256, key := 3, pid := 0, part := {}, tasks := [], cores := [], clusters := [], cm := [], watch := [], capWaits := [] }
  exact ⟨i, i, by decide +kernel, by decide +kernel, tTogether (by decide +kernel), by decide +kernel, by decide +kernel, tReaches (by decide +kernel), tGood (by decide +kernel),
    by decide +kernel, by decide +kernel, tAll (by decide +kernel), rfl⟩

/-- Every layer computes; partition 0 has the cell of bit 1; partition 1 stands stopped, with a record at PA 0x300000 that has one disabled stream, the
layer roles and the cells given, and a grace of g. -/
def tRecord (roles cells g : Nat) : State :=
  let s : State := ({ tBase with roles := Vector.replicate 4 .compute } : State).onPart 0 fun p => { p with cells := 2 }
  let s := s.onPart 1 fun p => { p with prec := 0x300000 }
  let m := s.mem.write 0x300000 104 (1 + 2 ^ 40 + 2 ^ 48 + 2 ^ 64 * g + 2 ^ 128 * roles + 2 ^ 192 * 0x200000 + 2 ^ 512 * 0x301000 + 2 ^ 768 * 0x302000)
  { s with mem := (m.write (0x300000 + 224) 192 cells).write (0x301000 + 42) 1 6 }

/-- What the root controller makes of the record. -/
def tStarts (s : State) : Option Nat × Option Cause × Bool :=
  let x := s.hbmRead (s.part 1).prec.toNat 512
  let r : PartRec := { bytes := x.2 }
  let u := x.1.takeRecord 1 r
  (u.startCause 1 r, u.layersCause 1 r, (u.changedLayers r).isEmpty && !(descOf (s.mem.read (r.dw 64) 64)).enable && r.nstream == 1)

/-- Partition 1 runs with no task; or with one, on core 384. -/
def tRuns (busy : Bool) : State :=
  let s := (tRecord 0 1 0).onPart 1 fun p => { p with run := true }
  if busy then ({ s with tasks := [{ tid := 5, pid := 1, st := .running, core := 384 }] } : State).putCore { id := 384, running := 5 } else s

def tEv (s : State) (e : Ev) : State := { s with ev := some e }

/-- A class table at VA 0x1000, with entry 14 as given. -/
def tClasses (h w : Nat) : State := tAtVa (tG 0x1000) (0x1000 + 16 * 14) 16 (h + 2 ^ 64 * w)

def tClassB (s : State) : Bool :=
  let l := tLeaf s (s.gk (.g 1) &&& 0xFFFFFFFFFFFFFFC0) .read
  let word (i : Nat) : Word := BitVec.ofNat 64 (s.mem.read (l.place.key + 8 * i) 8)
  (List.range 15).all fun i => decide ((word (2 * i + 1)).toNat < 2 ^ 16 ∧ (word (2 * i + 1)).getLsbD 5 = false ∧ (word (2 * i + 1)).getLsbD 2 = false ∧
      ((word (2 * i + 1)).getLsbD 4 = true → (word (2 * i + 1)).extractLsb' 0 2 ≠ 3 ∧ (word (2 * i)).extractLsb' 0 2 = 0))

/-- A record with a grace of 255 cycles fails at its second doubleword, one of 256 or none passes; a layer of another partition refuses; a record that
changes no layer starts. -/
theorem witness_PartitionLifecycle_start :
    (tStarts (tRecord 0 1 255)).1 = some 0x300008 ∧ (tRecord 0 1 255).part 1 = (tRecord 0 1 0).part 1 ∧ ((tRecord 0 1 0).part 1).run = false ∧
    (tStarts (tRecord 1 (2 ^ 384) 0)).1 = none ∧ (tStarts (tRecord 1 (2 ^ 384) 0)).2.1 = some 0x171 ∧
    tStarts (tRecord 0 1 256) = (none, none, true) ∧ tNoPartialsB (tRecord 0 1 256) = true ∧ (∀ c ∈ (tRecord 0 1 256).clusters, c.msgs = []) ∧
    (tEv (tRecord 0 1 0) (.partitionStart 1)).ev = some (.partitionStart 1) := by decide +kernel

theorem witness_PartitionLifecycle_stop :
    ((tRuns false).part 1).run = true ∧ ((tRecord 0 1 0).part 1).run = false ∧
    ((tRuns true).askStop 1).quiet 1 = false ∧ ((tRuns false).askStop 1).quiet 1 = true ∧
    ((tRuns false).part 1).saveTo = none ∧
    (let a : SaveArea := { asid := 1, va := 0x10000, phys := false, key := 3 }
     let s (b : Bool) := (tRuns b).onPart 1 fun p => { p with saveTo := some a }
     ((s true).part 1).saveTo = some a ∧ (s true).switchReady 1 = false ∧ (s false).switchReady 1 = true ∧ a.phys = false) ∧
    ([0, 1, 2, 3].all fun q : BitVec 2 => ((2 : BitVec 4).getLsbD q.toNat && ((tRuns false).part q).run) == (q == 1)) = true := by decide +kernel

/-- Entry 14 enabled with priority 2, one with the reserved priority 3, and one with a reserved bit. -/
theorem witness_PartitionLifecycle_classes :
    (∀ s ∈ [tClasses 0x4000 0x12, tClasses 0x4000 0x13, tClasses 0x4000 0x24],
      s.Calm ∧ s.me.asid = (s.part s.me.pid).sysasid ∧ Reaches s (s.gk (.g 1) &&& 0xFFFFFFFFFFFFFFC0) 256 .read (tLeaf s (s.gk (.g 1) &&& 0xFFFFFFFFFFFFFFC0) .read) ∧
        Good s (tLeaf s (s.gk (.g 1) &&& 0xFFFFFFFFFFFFFFC0) .read).place 256 ∧ ∀ c ∈ s.clusters, c.msgs = [] ∧ c.msgFrames = []) ∧
    tClassB (tClasses 0x4000 0x12) = true ∧ tClassB (tClasses 0x4000 0x13) = false ∧ tClassB (tClasses 0x4000 0x24) = false := by
  refine ⟨fun s hs => ?_, by decide +kernel, by decide +kernel, by decide +kernel⟩
  simp only [List.mem_cons, List.not_mem_nil, or_false] at hs
  obtain rfl | rfl | rfl := hs <;>
    exact ⟨tCalm (by decide +kernel), by decide +kernel, tReaches (by decide +kernel), tGood (by decide +kernel), tAll (by decide +kernel)⟩

/-- The state of tTile with g1 = v; its tile's id is 1. -/
def tTileG (v : Word) : State := tTile.setG 1 v

/-- The same with the tile's mode and state. -/
def tTileAs (m : TileMode) (st : TileSt) : State :=
  (tTileG 1).onCluster 0 fun c => { c with tiles := c.tiles.map fun t => { t with mode := m, st := st } }

/-- A shape record of 4 rows of 4 elements at VA 0x1000 in the record cache: a tile of 2 by 2 FP32 elements of it; g2 names the tile. -/
def tShape : RcEnt := { asid := 0, va := 0x1000, words := [0x20000, 0x400000004, 0, 16, 0, 0, 0, 0x0000020000020002] }
def tShaped (coords : Word) : State := (((tTileG 0x1000).setG 2 1).setG 3 coords).onCluster 0 fun c => { c with rcache := [tShape] }

/-- A tile argument entry at VA 0x1000, in g1. -/
def tArg (mode frames : Nat) : State := tAtVa (tG 0x1000) 0x1000 16 ((if mode = 4 then 0 else 0x20000) + 2 ^ 64 * (16 + 2 ^ 16 * 4 + 2 ^ 32 * mode + 2 ^ 40 * frames))

def tArgOf (s : State) : TileArg :=
  let v := s.mem.read (tLeaf s (s.g 1) .read).place.key 16
  tileArgOf (v % 2 ^ 64) (v / 2 ^ 64)

/-- The last 8 and the last 64 bytes of the tile, and one byte too far; an id of no tile. -/
theorem witness_TileAccesses :
    (let s := tTileG 1
     let x := tM 16376 3 0 2 0 0 0 0
     let z := tM 16320 6 0 2 0 0 0 0
     ∃ t, s.myTile (s.g 1) = some t ∧ t.failed = false ∧ t.st = .ready ∧ (s.tileOff (.g 0) x).toNat + x.bytes ≤ t.frames * 4096 ∧
      (s.tileOff (.g 0) z).toNat + z.bytes ≤ t.frames * 4096 ∧
      (Instr.tld 2 1 (.g 0) x).wf = true ∧ (Instr.tsv 2 1 (.g 0) x).wf = true ∧ (Instr.tldv 2 1 (.g 0) z).wf = true ∧ (Instr.tsvv 2 1 (.g 0) z).wf = true ∧
      Local s 2 (BitVec.ofNat 64 (t.frame * 4096) + s.tileOff (.g 0) x) 8 8 ∧ s.localGood 2 (BitVec.ofNat 64 (t.frame * 4096) + s.tileOff (.g 0) x) 8 ∧
      Local s 2 (BitVec.ofNat 64 (t.frame * 4096) + s.tileOff (.g 0) z) 64 1 ∧ s.localGood 2 (BitVec.ofNat 64 (t.frame * 4096) + s.tileOff (.g 0) z) 64 ∧
      z.mod.extractLsb' 4 2 = 0 ∧ s.mxBusy = false ∧ t.frames * 4096 < (s.tileOff (.g 0) (tM 16377 3 0 2 0 0 0 0)).toNat + 8) ∧
    ((tTileG 2).mxBusy = false ∧ (tTileG 2).myTile ((tTileG 2).g 1) = none) := by
  refine ⟨⟨{ frame := 1, frames := 4, st := .ready, mode := .inout, va := 0x10000, bytes := 16384, segs := [], asid := 0, owner := 1 },
    ?_, ?_, ?_, ?_, ?_, ?_, ?_, ?_, ?_, tLocal ?_, tLocalGood ?_, tLocal ?_, tLocalGood ?_, ?_⟩, ?_⟩ <;> decide +kernel

/-- Sizes of 1, 2^32 and one more; two ranges of cluster memory that meet without overlap; and a shape record that the cache holds. -/
theorem witness_TileCopies :
    (let s := (tTileG 4096).setG 2 8192
     let x : TX := { dk := true, sk := true, cnud := 0, ctr := 0, amt := 0, recp := 0 }
     s.Calm ∧ RecNamed s x.recp none ∧ (s.getCluster (clusterOf s.core.id)).ops.length < 64 ∧
      ((s.setG 3 4096).g 3).toNat = 4096 ∧ overlaps (s.g 1) (s.g 2) 4096 = false ∧ Local s 2 (s.g 1) 4096 1 ∧ Local s 2 (s.g 2) 4096 1 ∧
      overlaps (s.g 1) (s.g 2) 4097 = true) ∧
    ((tG 0x100000000).g 1).toNat = 2 ^ 32 ∧ 2 ^ 32 < ((tG 0x100000001).g 1).toNat ∧ ((tG 1).g 1).toNat = 1 ∧
    (let s := tShaped 0x200000002
     let c := s.coords 3
     ∃ y, s.Calm ∧ (s.getCluster (clusterOf s.core.id)).ops.length < 64 ∧ (s.g 1).toNat % 64 = 0 ∧
      (s.getCluster (clusterOf s.core.id)).rcache.find? (fun e => e.asid == s.me.asid && e.va == s.g 1) = some tShape ∧ (tsrOf tShape.words).cause = none ∧
      s.myTile (s.g 2) = some y ∧ y.failed = false ∧ y.st = .ready ∧ (tsrOf tShape.words).coordsOk c.1 c.2.1 c.2.2.1 c.2.2.2 = true ∧
      (tsrOf tShape.words).size ≤ y.frames * 4096) :=
  ⟨⟨tCalm (by decide +kernel), .inl (by decide), by decide +kernel, by decide +kernel, by decide +kernel, tLocal (by decide +kernel), tLocal (by decide +kernel), by decide +kernel⟩,
    by decide +kernel, by decide +kernel, by decide +kernel,
    ⟨{ frame := 1, frames := 4, st := .ready, mode := .inout, va := 0x10000, bytes := 16384, segs := [], asid := 0, owner := 1 },
      tCalm (by decide +kernel), by decide +kernel⟩⟩

theorem tOkB {ε α : Type} {e : Except ε α} (h : (match e with | .ok _ => true | .error _ => false) = true) : ∃ p, e = .ok p := by
  cases e with
  | ok p => exact ⟨p, rfl⟩
  | error _ => exact nomatch h

def tFreeB (s : State) (y : Tile) : Bool :=
  let cl := clusterOf s.core.id
  decide (s.myTile (s.g 1) = some y ∧ y.failed = false ∧ y.frames ≠ 0 ∧ s.opsOf s.me.tid = [] ∧ (s.getCluster cl).ops.length < 64 ∧ (s.getCluster cl).ops = [] ∧
    s.me.st = .running ∧ s.tasks = []) && tCalmB s

/-- The shape record that an entry names, as the record cache holds it. -/
def tArgShape (s : State) : Option Tsr :=
  let at_ : Word := s.g 1 - BitVec.ofNat 64 ((s.g 1).toNat % 64) + BitVec.ofNat 64 (64 * (tArgOf s).sri)
  if (tArgOf s).sri = 0 ∨ (tArgOf s).mode = 4 then none
  else ((s.getCluster (clusterOf s.core.id)).rcache.find? fun q => q.asid == s.me.asid && q.va == at_).map fun q => tsrOf q.words

/-- The runs of an entry that passes the checks of R27. -/
def tArgSegs (s : State) : List Seg := match (tArgOf s).check (tArgShape s) true with | .ok p => p.1 | .error _ => []

/-- The entry at VA 0x1000 names the shape record 64 bytes on. -/
def tArgShaped : State := (tAtVa (tG 0x1000) 0x1000 16 (0x20000 + 2 ^ 64 * (2 ^ 32 + 2 ^ 40 + 2 ^ 48))).onCluster 0 fun c => { c with rcache := [{ tShape with va := 0x1040 }] }

/-- A READY tile of each mode, one that fills, and one that drains; and entries with 1 frame, with 16 and with a shape record; and 49 frames held beside one of 16. -/
theorem witness_TileStates :
    (let y (m : TileMode) (st : TileSt) : Tile := { frame := 1, frames := 4, st := st, mode := m, va := 0x10000, bytes := 16384, segs := [], asid := 0, owner := 1 }
     tFreeB (tTileAs .inp .ready) (y .inp .ready) = true ∧ tFreeB (tTileAs .scratch .ready) (y .scratch .ready) = true ∧
      tFreeB (tTileAs .out .ready) (y .out .ready) = true ∧ tFreeB (tTileAs .inout .ready) (y .inout .ready) = true ∧
      tFreeB (tTileAs .inp .filling) (y .inp .filling) = true ∧ tFreeB (tTileAs .out .draining) (y .out .draining) = true) ∧
    (tBase.opsOf tBase.me.tid = [] ∧ tBase.Calm) ∧
    ((tG 2).myTile ((tG 2).g 1) = none) ∧
    (∀ s ∈ [tArg 4 1, tArg 4 16, tArg 1 1, tArgShaped], (s.g 1).toNat % 16 = 0 ∧ Reaches s (s.g 1) 16 .read (tLeaf s (s.g 1) .read) ∧ Good s (tLeaf s (s.g 1) .read).place 16 ∧
      ((tArgOf s).sri = 0 ∨ (tArgOf s).mode = 4 ∨ (tArgShape s).isSome = true) ∧ (∃ p, (tArgOf s).check (tArgShape s) true = .ok p) ∧
      s.framesOf (clusterOf s.core.id) s.me.tid + (tArgOf s).frames ≤ 64 ∧ ((s.getCluster (clusterOf s.core.id)).freeRun (tArgOf s).frames).isSome = true ∧
      ((tArgOf s).mode = 4 ∨ s.pinsFull (clusterOf s.core.id) s.me.pid s.me.asid (tileModeOf (tArgOf s).mode) (tArgSegs s) = false)) ∧
    (let s := (tArg 4 16).onCluster 0 fun c => { c with tiles := [{ frame := 1, frames := 49, st := .ready, mode := .scratch, va := 0, bytes := 64, segs := [], asid := 0, owner := 1 }] }
     Reaches s (s.g 1) 16 .read (tLeaf s (s.g 1) .read) ∧ (∃ p, (tArgOf s).check none true = .ok p) ∧ ¬s.framesOf (clusterOf s.core.id) s.me.tid + (tArgOf s).frames ≤ 64) := by
  refine ⟨by decide +kernel, ⟨by decide +kernel, tCalm (by decide +kernel)⟩, by decide +kernel, fun s hs => ?_,
    ⟨tReaches (by decide +kernel), tOkB (by decide +kernel), by decide +kernel⟩⟩
  simp only [List.mem_cons, List.not_mem_nil, or_false] at hs
  obtain rfl | rfl | rfl | rfl := hs <;>
    refine ⟨?_, tReaches ?_, tGood ?_, ?_, tOkB ?_, ?_, ?_, ?_⟩ <;> decide +kernel

/-- v1 holds 16 elements 1.0 of FP32, q1 selects all 16 and q2 the first three; the shadow unit contradicts an element. -/
def tOnes : State :=
  let s := tBase.setV 1 (BitVec.ofNat 512 ((List.range 16).foldl (fun n _ => n * 2 ^ 32 + 0x3F800000) 0))
  (s.setQ 1 0xFFFF).setQ 2 7
def tShadow (i : Nat) (v : ShadowVal) : State := tOnes.onCore fun c => { c with shadowErr := [(i, v)] }

/-- The largest FP32 number, −0, the smallest subnormal of FP16, and the greatest number of FP8E4. -/
theorem witness_RoundingExact :
    ([(1, 0x7F7FFFFF), (1, 0x80000000), (2, 1), (4, 0x7E), (0, 0x7FEFFFFFFFFFFFFF)].all fun p => decide (p.1 ≤ 8 ∧ p.2 < 2 ^ widthOf p.1) && !(decFloat p.1 p.2).isNan) = true := by
  decide +kernel

theorem witness_VectorFloat :
    ([0, 1, 2, 3].all fun f : BitVec 6 => fmtVFloat f) = true ∧ tBase.core.shadowErr = [] ∧
    (let x := tF 1 0x3F 0 false false 0 none
     let y := tF 1 0x3F 0 false false 0 (some 1)
     (tShadow 0 (true, 8192)).mxBusy = false ∧ (tShadow 15 (false, 8195)).mxBusy = false ∧ ((tShadow 15 (false, 8195)).q 1).getLsbD 15 = true ∧
      (let z := (fAdd 1 x.mode x.nanp (elem 32 (tOnes.v 1) 0) (tOnes.vgk 1 (.v 1) 0)).1
       shadowDiffers 1 z (true, 8192) = some true ∧ shadowDiffers 1 z (false, 8195) = some false ∧ shadowDiffers 1 z (false, 8194) = none) ∧
      shadowChecked 1 (fAdd 1 x.mode x.nanp (elem 32 (tOnes.v 1) 0) (tOnes.vgk 1 (.v 1) 0)) = true ∧
      shadowChecked 1 (fAdd 1 y.mode y.nanp (elem 32 (tOnes.v 1) 15) (tOnes.vgk 1 (.v 1) 15)) = true) := by decide +kernel

theorem witness_VectorInteger : ([9, 10, 11, 12].all fun f : BitVec 6 => fmtVInt f) = true := by decide

/-- The last element and the one past it; masks under which VCOMP reaches every element, and under which it does not. -/
theorem witness_VectorPermutations :
    ([0, 5, 9, 12, 13].all fun f : BitVec 6 => fmtWidthSet f) = true ∧
    (((tG 15).gk (.g 1)).toNat < 512 / widthOf 1) ∧ (512 / widthOf 1 ≤ ((tG 16).gk (.g 1)).toNat ∧ (tG 16).mxBusy = false) ∧
    ((tF 1 0x3F 0 false false 0 (some 1)).mask = some 1 ∧ (1 : QReg) ≠ 0 ∧ widthOf 1 ≤ 32 ∧
      (((List.range 16).filter fun i => (tOnes.q 1).getLsbD i).filter fun i => !(val 1 (elem 32 (tOnes.v 1) i)).isZero).length = 16 ∧
      (((List.range 16).filter fun i => (tOnes.q 2).getLsbD i).filter fun i => !(val 1 (elem 32 (tOnes.v 1) i)).isZero).length = 3) := by decide +kernel

theorem witness_VectorConversions :
    tBase.core.shadowErr = [] ∧ (Instr.vcvt 0 1 0 (tF 0 2 0 false false 3 none)).wf = true ∧ (Instr.vcvt 0 1 0 (tF 2 0 0 false true 3 none)).wf = true ∧
    (Instr.vcvt 0 1 2 (tF 1 0x24 0 false false 0 none)).wf = true ∧ (Instr.vscale 2 1 (tF 0x24 1 0 false false 0 none)).wf = true ∧
    (Instr.vred 2 1 (.g 0) (tF 9 0x3F 0 false false 7 none)).wf = true ∧ (Instr.vscan 2 1 (.g 0) (tF 9 0x3F 0 false false 7 none)).wf = true ∧
    (Instr.vdot4 0 1 2 (tF 0x0C 0x0A 0 false false 0 none)).wf = true ∧ (Instr.vdot4 0 1 2 (tF 5 1 0 false false 0 none)).wf = true ∧
    (Instr.vrng 0 1 2 (tF 1 0x3F 0 false false 0 none)).wf = true := by decide +kernel

/-- The task's unit, with 2 slots, 3 accumulators and a latch: slot 0 holds 32 rows of FP16, slot 1 of FP32, accumulator 0 is FP32, 2 an FP64 pair with 3. -/
def tMx (f : Matrix → Matrix) : State := tBase.onMx fun m =>
  f { m with
    bound := 1, sclaim := 7, zclaim := 0xF
    sIssue := ((m.sIssue.set 0 { st := .full, fmt := 2, rows := 32, rbytes := 128 }).set 1 { st := .full, fmt := 1, rows := 32, rbytes := 128 }).set 2 { st := .full, fmt := 0, rows := 1, rbytes := 8 }
    sRun := ((m.sRun.set 0 { st := .full, fmt := 2, rows := 32, rbytes := 128 }).set 1 { st := .full, fmt := 1, rows := 32, rbytes := 128 }).set 2 { st := .full, fmt := 0, rows := 1, rbytes := 8 }
    zIssue := m.zIssue.set 2 .fp64, zRun := m.zRun.set 2 .fp64 }

/-- The same with a command at the head of its queue. -/
def tMq (i : Instr) (a b : Word) : State := tMx fun m => { m with queue := [{ instr := i, addr := 0x4000, a := a, b := b }, { instr := .mzero 1 1, addr := 0x400C }] }

/-- Row r of a matrix. -/
def tRow (base stride : Word) (r : Nat) : Word := base + BitVec.ofNat 64 r * stride

/-- The base of a matrix in memory, and one 2 KiB before the end of the scratchpad. -/
def tMat : State := (tMx id).setG 1 0x10000
def tPad : State := (tMx id).setG 1 (0x1C000 - 2048)

/-- An unbound unit, one of the task, and one of another task. -/
theorem witness_MatrixClaims :
    (tBase.me.tid ≠ 0 ∧ tBase.core.mx.held = none ∧ tBase.core.mx.bound = 0 ∧ tBase.core.mx.queue.length < 16 ∧ tBase.core.mx.img.undef = [] ∧
      tBase.core.mx.bound ≠ tBase.me.tid) ∧
    (let s := tMx id
     s.me.tid ≠ 0 ∧ s.core.mx.held = none ∧ s.core.mx.bound = s.me.tid ∧ s.core.mx.queue.length < 16 ∧ s.core.mx.img.undef = []) ∧
    (let s := ({ tMx fun m => { m with bound := 9 } with tasks := [{ tid := 9, st := .parked, core := 0 }] } : State)
     s.me.tid ≠ 0 ∧ s.core.mx.held = none ∧ s.core.mx.bound ≠ 0 ∧ s.core.mx.bound ≠ s.me.tid ∧ s.core.mx.queue = [] ∧ s.spillMatrix.isSome = true) ∧
    (let q : MCmd := { instr := .mrel 7 0xF, addr := 0x4000 }
     let s := tMx fun m => { m with sclaim := 0, zclaim := 0, queue := [q] }
     s.me.tid ≠ 0 ∧ s.core.mx.held = none ∧ s.core.mx.bound = s.me.tid ∧ s.core.mx.queue = [q] ∧ s.core.mx.sclaim = 0 ∧ s.core.mx.zclaim = 0) := by decide +kernel

/-- Latches that end at the last element of a slot, in both orders; an MMA of each kind; a held queue; and a unit without claims. -/
theorem witness_MatrixIssue :
    (let s := tMx id
     let mx := s.core.mx
     s.me.tid ≠ 0 ∧ mx.bound = s.me.tid ∧ mx.held = none ∧ mx.queue.length < 16 ∧
      (rd mx.sIssue (0 : SReg)).st ≠ .empty ∧ (rd mx.sIssue (0 : SReg)).klen = 64 ∧ 16 ≤ latchLimit (widthOf 2) ∧ kofsOk 2 0 = true ∧ kofsOk 2 48 = true ∧ 48 + 16 ≤ (rd mx.sIssue (0 : SReg)).klen ∧
      16 ≤ (rd mx.sIssue (0 : SReg)).rows ∧ 31 + 1 ≤ (rd mx.sIssue (0 : SReg)).rows ∧ isBlock 2 = false ∧
      mx.sclaim.getLsbD 2 = true ∧ mx.zclaim.getLsbD 3 = true ∧ rd mx.zIssue (2 : ZReg) = .fp64 ∧ rd mx.zIssue (0 : ZReg) = .fp32 ∧ (31 : Word).toNat < 32) ∧
    (let l : Latch := { slot := 0, fmt := 2, nmaj := false, kofs := 0, klen := 16 }
     narrowFmt 2 = true ∧ l.klen ≤ latchLimit (max (widthOf 2) (widthOf l.fmt.toNat)) ∧ (tMx fun m => { m with latchIssue := some l }).core.mx.latchIssue = some l ∧
      intFmt 2 = false ∧ latchLimit (widthOf 0) ≠ 0 ∧ latchLimit (widthOf 1) ≠ 0) ∧
    (tBase.me.tid ≠ 0 ∧ tBase.core.mx.bound = 0 ∧ tBase.core.mx.queue.length < 16 ∧ tBase.mxBusy = false ∧ (tMx fun m => { m with bound := 9 }).core.mx.bound = 9) ∧
    (let s := tMx fun m => { m with held := some 0x07A, pendingTrap := some (0x07A, 0x4000), queue := [{ instr := .mzero 1 1, addr := 0x4000 }] }
     s.core.mx.bound = s.me.tid ∧ s.core.mx.held ≠ none) ∧
    (let s := tMx id
     s.core.mx.queue = [] ∧ s.core.mx.sclaim.getLsbD 15 = false ∧ s.core.mx.zclaim.getLsbD 15 = false ∧ s.mxBusy = false) := by decide +kernel

/-- Two rows from VA 0x10000 with a stride of 128, of FP16 and of a block format with its scales; and 32 rows of an accumulator in the scratchpad, up to its end. -/
theorem witness_MatrixTransfers :
    (tMat.me.tid ≠ 0 ∧ tMat.core.mx.bound = tMat.me.tid ∧ tMat.core.mx.queue = [] ∧ tMat.core.mx.held = none ∧ tMat.core.mx.sclaim.getLsbD 0 = true ∧
      mldsFmt 2 = true ∧ rbytesOk 2 128 = true ∧ (tMat.g 1).toNat % 2 = 0 ∧ (0x80 : Word).toNat % 2 = 0) ∧
    (∀ r < 2, Reaches tMat (tRow (tMat.g 1) 128 r) 128 .read (tLeaf tMat (tRow (tMat.g 1) 128 r) .read)) ∧
    (∀ r < 2, ∀ r' < 2, tMat.Together (tRow (tMat.g 1) 128 r) (tLeaf tMat (tRow (tMat.g 1) 128 r) .read) (tRow (tMat.g 1) 128 r') (tLeaf tMat (tRow (tMat.g 1) 128 r') .read)) ∧
    (mldsFmt 0x24 = true ∧ rbytesOk 0x24 64 = true ∧ (128 : Word).toInt * 8 % (16 * widthOf 0x24) = 0 ∧
      Reaches (tMat.setG 2 0x18000) ((tMat.setG 2 0x18000).g 2) (64 * 8 / widthOf 0x24 / 16) .read (tLeaf (tMat.setG 2 0x18000) ((tMat.setG 2 0x18000).g 2) .read) ∧
      (let s := tMat.setG 2 0x18000
       s.Together (s.g 1) (tLeaf s (s.g 1) .read) (s.g 2) (tLeaf s (s.g 2) .read) ∧ s.Together (s.g 2) (tLeaf s (s.g 2) .read) (s.g 2) (tLeaf s (s.g 2) .read))) ∧
    (tPad.core.mx.zclaim.getLsbD 0 = true ∧ rd tPad.core.mx.zIssue (0 : ZReg) = .fp32 ∧ mstzFmt 1 .fp32 = true ∧ (tPad.g 1).toNat % 4 = 0 ∧
      (∀ r < 32, Local tPad 1 (tRow (tPad.g 1) 64 r) 64 1)) ∧
    (tMat.core.mx.zclaim.getLsbD ((2 : ZReg) ^^^ 1).toNat = true ∧ mstzFmt 0 (rd tMat.core.mx.zIssue (2 : ZReg)) = true) := by
  refine ⟨by decide +kernel, fun r hr => tReaches ?_, fun r hr r' hr' => tTogether ?_,
    ⟨by decide +kernel, by decide +kernel, by decide +kernel, tReaches (by decide +kernel), tTogether (by decide +kernel), tTogether (by decide +kernel)⟩,
    ⟨by decide +kernel, by decide +kernel, by decide +kernel, by decide +kernel, fun r hr => tLocal ?_⟩, by decide +kernel⟩
  · have h : ∀ r < 2, tReachB tMat (tRow (tMat.g 1) 128 r) 128 .read = true := by decide +kernel
    exact h r hr
  · have h : ∀ r < 2, ∀ r' < 2, tTogetherB tMat (tRow (tMat.g 1) 128 r) (tLeaf tMat (tRow (tMat.g 1) 128 r) .read) (tRow (tMat.g 1) 128 r')
        (tLeaf tMat (tRow (tMat.g 1) 128 r') .read) = true := by decide +kernel
    exact h r hr r' hr'
  · have h : ∀ r < 32, tLocalB tPad 1 (tRow (tPad.g 1) 64 r) 64 1 = true := by decide +kernel
    exact h r hr

/-- An MMA whose operands are all 1.0, with the latch that it uses. -/
def tSampled : State := tMx fun m => { m with
  latchRun := some { slot := 0, fmt := 2, nmaj := false, kofs := 0, klen := 1 }, queue := [{ instr := .mma 0 0 2 31 0, addr := 0x4000 }]
  img := m.img.write 0 2 0x3C00 }

/-- A command of each kind at the head of the queue; and one found at fault. -/
theorem witness_MatrixCommands :
    (∀ i ∈ [Instr.mlds 0 1 (.g 0) 2 1 31 127 { nud := 0, l1p := 0 }, .mlatch 0 2 false 48 15, .mma 0 0 2 31 0, .mzero 2 0, .mzero 0 1, .mrdz 3 2 (.g 0) true, .mwrz 0 3 (.g 0) false,
        .mscale 0 1 1 0, .mstat 1 0x7F],
      let s := tMq i 0x1B000 128
      s.me.tid ≠ 0 ∧ s.core.mx.bound = s.me.tid ∧ s.core.mx.held = none ∧
        s.core.mx.queue = [{ instr := i, addr := 0x4000, a := 0x1B000, b := 128 }, { instr := .mzero 1 1, addr := 0x400C }] ∧ s.core.mx.img.wf = true ∧
        s.core.mx.img.undef = [] ∧ s.core.mxShadowErr = []) ∧
    (tLocalGoodB (tMq (.mzero 1 1) 0 0) 1 (0x1B000 + BitVec.ofNat 64 31 * 128) 128 = true) ∧
    (isBlock 2 = false ∧ (rd (tMq (.mzero 1 1) 0 0).core.mx.sRun (0 : SReg)).st ≠ .empty ∧ rd (tMq (.mzero 1 1) 0 0).core.mx.zRun (0 : ZReg) = .fp32 ∧
      rd (tMq (.mzero 1 1) 0 0).core.mx.zRun (2 : ZReg) = .fp64 ∧ (2 : ZReg).getLsbD 0 = false ∧ (31 : Word).toNat < 32 ∧
      (tMx fun m => { m with latchRun := some { slot := 0, fmt := 2, nmaj := false, kofs := 0, klen := 64 } }).core.mx.latchRun =
        some { slot := 0, fmt := 2, nmaj := false, kofs := 0, klen := 64 }) ∧
    ((tMq (.mlds 0 1 (.g 0) 2 1 31 127 { nud := 0, l1p := 0 }) 0x1B000 128).core.mx.loadsAgain 0 = false ∧ (tMx id).core.mx.sclaim ≠ 0 ∧
      (tSampled.core.mx.queue.map MCmd.instr = [.mma 0 0 2 31 0] ∧ tSampled.samples 0 0 2 32 0 0 0 = true)) :=
  ⟨tAll (by decide +kernel), by decide +kernel, by decide +kernel, by decide +kernel⟩

/-- Every layer computes and partition 0 has every cell; its stream 0 stands at command 8 of a ring of 64 at VA 0x80000 and may change roles; its status block
lies at VA 0x3000, and its launch queue 0 is enabled. -/
def tStream (f : Stream → Stream) : State :=
  (tCells.onPart 0 fun p => { p with lqtab := 0x302000, queues := p.queues.set 0 { enable := true, tickets := 1 } }).onStream 0 0 fun x =>
    f { x with st := .run, cmd := 8, desc := { base := 0x80000, submit := 0x3800, consumed := 0x3900, status := 0x3000, resume := 0x3A00, log2n := 6, enable := true, roleOk := true } }
def tCmdHdr : CmdHdr := { pid := 0, stream := 0, tag := 7 }

/-- A read answers v. -/
def tAnswers {α : Type} [DecidableEq α] (e : Except Cause (State × α)) (v : α) : Bool := match e with | .ok p => decide (p.2 = v) | .error _ => false

/-- What a read leaves of the state. -/
def tLeft {α : Type} (e : Except Cause (State × α)) (s : State) : State := match e with | .ok p => p.1 | .error _ => s

def tZeros : List Word := List.replicate 8 0

/-- What R53 asks of a role change of partition 0 on layer l. -/
def tCool (s : State) (l : BitVec 2) (r : Role) : Bool := drawOf (wr s.roles l r) s.slow ≤ s.limit && two.any fun k => rd (wr s.roles l r) k == .compute
def tOthers (s : State) (l : BitVec 2) : Bool := two.any fun p => p != 0 && (s.part p).run && s.usesLayer p l
def tStays (s : State) (l : BitVec 2) (r : Role) : Bool := two.any fun k => rd (wr s.roles l r) k == .compute && s.usesLayer 0 k

/-- Records of zeros, and one that names no code; counts of 0, 1, 2^20 and one more; sums of 2^64 − 1 and of one more; and a copy. -/
theorem witness_CommandWork :
    (let s := tStream id
     s.nextTid ≠ 0 ∧ s.me.tid ≠ s.nextTid ∧ (0x1000 : Word).toNat % 64 = 0 ∧ tAnswers (s.asWords 0 0 0x1000) tZeros = true ∧
      recordCause (Vector.ofFn fun k : Fin 8 => tZeros.getD k.val 0) = none ∧ (rd (s.part 0).queues (0 : BitVec 6)).enable = true ∧ (rd (s.part 0).queues (0 : BitVec 6)).recs.length < 64 ∧
      recordCause (Vector.ofFn fun k : Fin 8 => [1, 0, 0, 0, 0, 0, 0, 0].getD k.val 0) = some 0x0B0) ∧
    (let s := tAtVa (tStream id) 0x1000 8 1
     tAnswers (s.asWords 0 0 0x1000) [1, 0, 0, 0, 0, 0, 0, 0] = true ∧ (s.strm 0 0).count = none ∧ tAnswers (s.asRead 0 0 0x1000 8) 1 = true ∧
      (let u := (tLeft (s.asRead 0 0 0x1000 8) s).onStream 0 0 fun x => { x with count := some 1, sub := 0 }
       tAnswers (u.asWords 0 0 0x2000) tZeros = true)) ∧
    ((0x1020 : Word).toNat % 64 ≠ 0) ∧
    (let s (n : Nat) := tAtVa (tStream id) 0x1000 8 n
     tAnswers ((s 0x100001).asRead 0 0 0x1000 8) (2 ^ 20 + 1) = true ∧ tAnswers ((s 0).asRead 0 0 0x1000 8) 0 = true) ∧
    (let s := tAtVa (tStream id) 0x1000 8 (2 ^ 64 - 1)
     (match s.asPhys 0 0 0x1000 .atomic with
      | .ok (u, p) => decide (p.kind ≠ 4 ∧ u.mem.read p.key 8 + (0 : Word).toNat < 2 ^ 64 ∧ 2 ^ 64 ≤ u.mem.read p.key 8 + (1 : Word).toNat)
      | .error _ => false) = true ∧ (s.strm 0 0).copies = [] ∧ tNoPartialsB s = true ∧ tNoWatchB s = true) ∧
    (let s := tStream id
     overlaps 0x1000 0x2000 0x1001 = true ∧ overlaps 0x1000 0x2000 0x1000 = false ∧
      ((s.partClusters 0).find? fun cl => decide ((s.getCluster cl).ops.length < 64)) = some 0) := by decide +kernel

/-- Loops at their bounds; tests that hold and that fail; waits that end; and roles that R53 admits and refuses. -/
theorem witness_CommandFlow :
    (let s := tStream id
     let u := s.onStream 0 0 fun x => { x with st := .wait }
     (match u.asWrite 0 (u.strm 0 0).desc.asid (u.strm 0 0).desc.status 64 (u.strm 0 0).block with | .ok v => decide (v.parts = u.parts) | .error _ => false) = true) ∧
    (let s := tStream id
     let x := s.strm 0 0
     ((9 : Word) > x.cmd ∧ 2 ^ x.desc.log2n ≤ (64 : Word).toNat) ∧ ((8 : Word) ≤ x.cmd ∧ (8 : Word).toNat < 2 ^ x.desc.log2n) ∧
      (match s.bodyLoop 0 x 8 0 with | .ok b => !b | .error _ => false) = true) ∧
    (let s := tAtVa (tStream id) 0x80000 8 3
     (match s.bodyLoop 0 (s.strm 0 0) 8 0 with | .ok b => b | .error _ => false) = true) ∧
    (let s := tAtVa (tStream id) 0x1000 8 5
     tAnswers (s.asRead 0 0 0x1000 8) 5 = true ∧ (5 : Word).toNat ≤ 5 ∧ 5 < (6 : Word).toNat) ∧
    (let s := tStream id
     (s.strm 0 0).tasks = [] ∧ (s.strm 0 0).copies = [] ∧ tNoPartialsB s = true ∧ ∀ i < 64, s.mem.word ((s.part 0).lqtab + 8 * i) &&& 0xFFFF_FFFF_FFFE_F000 = 0) ∧
    (let s := { tStream id with mem := (tStream id).mem.write (0x302000 + 8 * 63) 8 0x1000 }
     s.mem.word ((s.part 0).lqtab + 8 * 63) &&& 0xFFFF_FFFF_FFFE_F000 ≠ 0) ∧
    ((tStream fun x => { x with tasks := [5] }).strm 0 0).tasks ≠ [] ∧ ((tStream fun x => { x with copies := [5] }).strm 0 0).copies ≠ [] ∧
    (let s := tEv (tStream fun x => { x with st := .wait, waiting := some (.cmdWaitctr tCmdHdr 0x1000 5) }) (.waitctrSatisfied 0 0)
     s.ev = some (.waitctrSatisfied 0 0) ∧ (s.strm 0 0).waiting = some (.cmdWaitctr tCmdHdr 0x1000 5)) ∧
    (let s := tEv (tStream fun x => { x with st := .wait, waiting := some (.cmdFence tCmdHdr) }) (.fenceCmdComplete 0 0)
     s.ev = some (.fenceCmdComplete 0 0) ∧ (s.strm 0 0).tasks = [] ∧ (s.strm 0 0).copies = [] ∧ (s.strm 0 0).st = .wait ∧ (s.strm 0 0).waiting = some (.cmdFence tCmdHdr)) := by decide +kernel

theorem witness_CommandFlow_roles :
    ((tStream fun x => { x with desc := { x.desc with roleOk := false } }).strm 0 0).desc.roleOk = false ∧
    (let s := tStream id
     (s.strm 0 0).desc.roleOk = true ∧ tCool s 1 .compute = false ∧ tCool s 1 .memory = true ∧ tOthers s 1 = false ∧ tStays s 1 .memory = true) ∧
    (let s := ((tStream id).onPart 0 fun p => { p with cells := 1 }).onPart 1 fun p => { p with cells := BitVec.ofNat 1536 (2 ^ 384), run := true }
     tCool s 1 .memory = true ∧ tOthers s 1 = true) ∧
    (let s := (tStream id).onPart 0 fun p => { p with cells := BitVec.ofNat 1536 (2 ^ 384) }
     tCool s 1 .memory = true ∧ tOthers s 1 = false ∧ tStays s 1 .memory = false) ∧
    (let s := tEv (tStream fun x => { x with st := .wait, waiting := some (.cmdRole tCmdHdr 1 1 0 0x1000) }) (.roleChangeEnd 0 0)
     s.ev = some (.roleChangeEnd 0 0) ∧ (s.strm 0 0).waiting = some (.cmdRole tCmdHdr 1 1 0 0x1000) ∧ (s.strm 0 0).st = .wait ∧
      (match s.asPhys 0 0 0x1000 .atomic with | .ok (u, p) => decide (p.kind ≠ 4 ∧ u.mem.read p.key 8 + 1 < 2 ^ 64) | .error _ => false) = true ∧
      tNoPartialsB s = true ∧ tNoWatchB s = true) ∧
    (let s := tEv (tStream fun x => { x with st := .error, count := some 2 }) (.streamResume 0 0)
     s.ev = some (.streamResume 0 0) ∧ (s.strm 0 0).st = .error ∧ tAnswers (s.asRead 0 (s.strm 0 0).desc.asid (s.strm 0 0).desc.resume 8) 0 = true) := by decide +kernel

/-- A key table at PA 0x303000 whose key 0 admits reads and writes of 4 KiB at VA 0x10000 of address space 0, and whose table has 2 entries. -/
def tKeys : State :=
  { tBase with
    mem := tBase.mem.write 0x303000 24 (0x10000 + 2 ^ 64 * 4096 + 2 ^ 128 * 0x30000)
    pod := { tBase.pod with keybase := 0x303000, keylog2n := 1, fenced := 4 } }

/-- The words of a key. -/
def tKeyW (s : State) (key i : Nat) : Word := s.mem.word (s.pod.keybase.toNat + 32 * key + 8 * i)

/-- Two requests in flight: one of the host, one of device 2. -/
def tOuts (dev : Option (BitVec 10)) : State :=
  { tBase with outs := [{ tid := 1, dev := dev, va := 0x7000, n := 8 }, { tid := 9, dev := some 2, va := 0x8000, n := 8 }] }

/-- The last doubleword of HBM with a sum of 2^64 − 1 and of one more; a length of 4 and a misaligned place; a posted write of 3 bytes; requests in flight. -/
theorem witness_HostEdge :
    (let s : State := tEv { tBase with mem := tBase.mem.write (2 ^ 39 - 8) 8 (2 ^ 64 - 1) } (.apertureAdd 7 (2 ^ 39 - 8) 8 0)
     s.ev = some (.apertureAdd 7 (2 ^ 39 - 8) 8 0) ∧ (2 ^ 39 - 8 : Word).toNat % 2 ^ 39 % 8 = 0 ∧ tNoPartialsB s = true ∧ tNoWatchB s = true ∧ s.mem.read (2 ^ 39 - 8) 8 + (0 : Word).toNat < 2 ^ 64 ∧
      2 ^ 64 ≤ s.mem.read (2 ^ 39 - 8) 8 + (1 : Word).toNat) ∧
    ((4 : BitVec 16) ≠ 8 ∧ (4 : Word).toNat % 8 ≠ 0) ∧
    (let s := tEv tBase (.hostPostedWrite 7 true 0x5000 [1, 2, 3])
     s.mem.wf = true ∧ tNoPartialsB s = true ∧ tNoWatchB s = true) ∧
    ((linesOf 0x5000 300).all fun l => !tBase.poison.contains l && !tBase.latent.contains l) = true ∧
    (tBase.allCores.all fun c => c.mx.queue.isEmpty) = true ∧
    (let s := tOuts none
     ∃ o os, s.outs = o :: os ∧ o ∉ os ∧ o.tid = 1 ∧ o.dev = none ∧ o.va = 0x7000 ∧ o.reply = none ∧ o.lost = false) := by
  refine ⟨by decide +kernel, by decide, by decide +kernel, by decide +kernel, by decide +kernel, _, _, rfl, by decide +kernel, by decide +kernel⟩

/-- A key past the table, a fenced device; the last 8 bytes that a key admits; and requests in flight. -/
theorem witness_PeerEdge :
    (tKeys.pod.fenced.getLsbD 2 = true ∧ tKeys.pod.fenced.getLsbD 1 = false ∧ 2 ^ tKeys.pod.keylog2n.toNat ≤ (2 : BitVec 26).toNat) ∧
    (let w := tKeyW tKeys 0
     (w 2).extractLsb' 19 45 = 0 ∧ w 1 ≠ 0 ∧ (w 2).getLsbD 16 = true ∧ (w 2).getLsbD 17 = true ∧ (w 0).toNat ≤ 0x10FF8 ∧ 0x10FF8 + 8 ≤ (w 0).toNat + (w 1).toNat ∧ w 3 = 0 ∧
      tKeys.keyPid ((w 2).extractLsb' 0 16) = some 0) ∧
    (match tKeys.asPhys 0 0 0x10FF8 .read with
      | .ok (u, p) => decide (u.mem = tKeys.mem ∧ p.kind ≠ 3 ∧ p.kind ≠ 4) && (linesOf p.key 8).all fun l => !tKeys.poison.contains l && !tKeys.latent.contains l
      | .error _ => false) = true ∧
    (match tKeys.asPhys 0 0 0x10FF8 .write with | .ok (u, p) => decide (u.mem = tKeys.mem ∧ p.kind ≠ 3 ∧ p.kind ≠ 4) | .error _ => false) = true ∧
    (0 < (8 : BitVec 7).toNat ∧ 0x10FF8 % 65536 + 8 ≤ 65536 ∧ tNoPartialsB tKeys = true ∧ tNoWatchB tKeys = true ∧ tKeys.mem.wf = true ∧ tKeys.colls = []) ∧
    (let s := tOuts (some 5)
     ∃ o os, s.outs = o :: os ∧ o ∉ os ∧ o.tid = 1 ∧ o.dev = some 5 ∧ o.va = 0x7000 ∧ o.reply = none ∧ o.lost = false ∧ o.fut = false) := by
  refine ⟨by decide +kernel, by decide +kernel, by decide +kernel, by decide +kernel, by decide +kernel, _, _, rfl, by decide +kernel, by decide +kernel⟩

/-- Rings of 64 records that have none, all but one and all of them, no ring; and one core that runs nothing. -/
theorem witness_ReliabilityEvents :
    (let p (tail head : Word) : Periscope := { prbase := 0x304006, prtail := tail, prhead := head }
     (∀ q ∈ [p 0 0, p 62 0xFFFFFFFFFFFFFFFF], q.prbase.toNat / 4096 % 2 ^ 40 * 4096 ≠ 0 ∧ (q.prtail - q.prhead).toNat ≠ 2 ^ (q.prbase.toNat % 64)) ∧
      ((p 63 0xFFFFFFFFFFFFFFFF).prtail - (p 63 0xFFFFFFFFFFFFFFFF).prhead).toNat = 2 ^ ((p 0 0).prbase.toNat % 64)) ∧
    (tBase.peri.prbase.toNat / 4096 % 2 ^ 40 * 4096 = 0) ∧ (tNoPartialsB tBase = true ∧ tNoWatchB tBase = true ∧ tBase.mem.wf = true) ∧
    (tBase.getCore 1).running = 0 ∧ tBase.tasksOf 1 = [] := by
  refine ⟨⟨tAll (by decide +kernel), by decide +kernel⟩, by decide +kernel, by decide +kernel, by decide +kernel, by decide +kernel⟩

/-- Core 0 runs nothing, and the task 5, in the state given, stands alone. -/
def tIdle (x : Task) (k : Core → Core) : State :=
  let s : State := { tCells with me := {}, tasks := [x] }
  s.onCore fun c => k { c with running := 0 }

/-- Task 5 with a record of zeros, replayable, for core 0. -/
def tRec (st : TaskSt) : Task := { tid := 5, st := st, tw := (Vector.replicate 8 0).set 7 0x800 }

/-- One more tile or one operation in the base state. -/
def tTileOf (st : TileSt) (arg : Bool) : State :=
  tCells.onCluster 0 fun c => { c with tiles := [{ frame := 1, frames := 4, st := st, mode := .inout, va := 0x10000, bytes := 16384, segs := [], asid := 0, owner := 1, arg := arg, freeOp := some 9 }] }
def tOp (f : EngOp → EngOp) : State :=
  tCells.onCluster 0 fun c => { c with ops := [f { id := 9, tid := 1, pid := 0, asid := 0, runs := [(.cm 0, .cm (2 ^ 23 - 100), 100)], bytes := 100, ctr := none, amt := 0, push := none, code := 0 }] }

theorem witness_SchedulingEvents :
    (let s := (({ tCells with tasks := [{ tid := 5 }] } : State).onPart 0 fun p => { p with queues := (p.queues.set 3 { enable := true, tickets := 7, recs := [5] }), x := 1 })
     (s.part 0).run = true ∧ (s.part 0).preempt = false ∧ s.eligibleQueues 0 = [] ++ ((3 : BitVec 6).toNat, 7) :: [] ∧ (rd (s.part 0).queues (3 : BitVec 6)).recs = [5]) ∧
    tCells.eligibleQueues 0 = [] ∧ (tCells.clusterIdle 0 = false ∧ tCells.clusterIdle 1 = true ∧ (tCells.getCluster 1).futs = []) ∧
    (tCells.coreIdle 0 = false ∧ tCells.coreIdle 1 = true ∧ tNoPartialsB tCells = true) ∧
    (let s := tCells.onCluster 0 fun c => { c with held := [(5, 1)] }
     (s.getCluster 0).held = (5, 1) :: [] ∧ (s.getCore 1).deque.length < 32) ∧
    (let s := tEv (tIdle (tRec .queued) fun c => { c with deque := [5] }) (.coreSelectWork 0)
     s.ev = some (.coreSelectWork s.core.id) ∧ s.me.tid = 0 ∧ s.corePid s.core.id = some 0 ∧ s.coreOpen 0 s.core.id = true ∧ s.core.prep = [] ∧
      s.readyFor 0 s.core.id = none ∧ s.core.deque = 5 :: [] ∧ s.findTask 5 = some (tRec .queued) ∧ (s.slotFor 0 s.core.id).isSome = true) ∧
    (let s := ({ tCells with tasks := [tRec .queued] } : State).onCore fun c => { c with deque := [5] }
     s.me.tid ≠ 0 ∧ s.me.tid ≠ 5 ∧ (s.freeSlotOf 0 s.core.id).isSome = true ∧ s.readyFor 0 s.core.id = none ∧ s.coreOpen 0 s.core.id = true) ∧
    ((tCells.getCluster 1).intAcc = []) ∧
    (let s := tIdle (tRec .preparing) fun c => { c with prep := [5] }
     s.findTask 5 = some (tRec .preparing) ∧ (tRec .preparing).tw[4] = 0 ∧ s.argTiles (tRec .preparing) = [] ∧ (s.allTasks.all fun y => !s.wantsFrames y) = true ∧
      (tRec .preparing).core = s.core.id ∧ s.me.tid = 0 ∧ s.core.running = 0 ∧ s.tilesReady (tRec .preparing) = true ∧ s.coreOpen 0 0 = true ∧
      s.detClosed 0 (twDet (tRec .preparing).tw[7]) 0 = false ∧ s.freeSlotOf 0 0 = some 0) ∧
    (((tTileOf .filling true).tileAt 0 1).isSome = true ∧ ((tTileOf .filling false).tileAt 0 1).isSome = true ∧ ((tTileOf .draining true).tileAt 0 1).isSome = true ∧
      (((tTileOf .draining true).tileAt 0 1).bind Tile.freeOp) = some 9 ∧ (((tTileOf .draining true).tileAt 0 1).map Tile.todo) = some [] ∧ (tTileOf .draining true).outs = [] ∧
      (((tTileOf .draining true).tileAt 0 1).map fun y => pagesOf y.segs) = some []) ∧
    (let s := tOp id
     ∃ o, (s.getCluster 0).ops.find? (fun o => o.id == 9) = some o ∧ o.ended = false ∧ o.drain = none ∧ o.stream = none ∧ s.outs = [] ∧ o.ctr = none ∧ o.push = none ∧
      o.runs = [(.cm 0, .cm (2 ^ 23 - 100), 100)] ∧ s.cm.wf = true ∧ (∀ i < 100, (2 ^ 23 * (0 : BitVec 8).toNat + 0 + i) / 64 ∉ s.localPoison ++ s.localLatent)) ∧
    (let s := tOp fun o => { o with paused := some (0x10000, 0x050) }
     ∃ o, (s.getCluster 0).ops.find? (fun o => o.id == 9) = some o ∧ o.paused = some (0x10000, 0x050)) ∧
    (let x : Task := { tRec .queued with launched := some 0 }
     let s := ({ tCells with tasks := [x] } : State).onCluster 0 fun c => { c with launchWait := [5] }
     (s.getCluster 0).launchWait = [5] ∧ s.findTask 5 = some x ∧ x.launched ≠ none ∧ (5 : BitVec 32) ≠ s.me.tid ∧
      (match s.allocFut x.pid 0 5 with | (u, .ok _) => decide (u.findTask 5 = some x) | _ => false) = true) := by
  refine ⟨?_, ?_, ?_, ?_, ?_, ?_, ?_, ?_, ?_, ?_, ⟨_, rfl, ?_⟩, ⟨_, rfl, ?_⟩, ?_⟩ <;> decide +kernel

theorem witness_TaskEvents :
    (let s := tCells.onPart 0 fun p => { p with regs := { p.regs with detctl := 1 } }
     let u := s.onCore fun c => { c with boundary := true }
     s.quantumOver 0 = false ∧ u.quantumOver 0 = true ∧ (u.allCores.all fun k => k.detReqs.isEmpty && k.qlog.isEmpty) = true) ∧
    ((tBase.getCore 1).followAt = none ∧ ((tBase.onCore fun c => { c with followAt := some (0x4000, 3) }).getCore 0).followAt = some (0x4000, 3)) ∧
    (let s := tMe fun t => { t with budget := 0 }
     s.me.tid ≠ 0 ∧ s.me.budget = 0 ∧ s.mxBusy = false ∧ s.core.mx.pendingTrap = none ∧ s.me.isHandler = false ∧ s.me.det = false ∧ (s.part s.me.pid).stopping = false ∧
      s.heldCore s.me.pid s.core.id = false) ∧
    ((tMe fun t => { t with budget := 0, tw := t.tw.set 7 0x20000 }).me.isHandler = true) ∧
    (tBase.quiet 0 = false ∧ (tIdle (tRec .queued) id).quiet 0 = true ∧ (tBase.part 0).stopping = false) ∧
    (let s := tFut tEnt
     tHasB s (s.g 1) tEnt = true ∧ tEnt.st = .empty ∧ tEnt.waiters = [] ∧ tEnt.live = true ∧ tEnt.refs ≠ 0 ∧ s.findTask tEnt.producer = none) ∧
    (tBase.handleCause 5 ≠ none) ∧
    (let x : Task := { tid := 9, st := .parked, parkCause := 0x0AA }
     x.det = false ∧ ({ tBase with tasks := [x] } : State).findTask 9 = some x ∧ tBase.findTask 9 = none) ∧
    (tBase.core.running = tBase.me.tid ∧ tBase.waits = [] ∧ tBase.drains = 0 ∧ (tBase.part 0).run = true ∧ (tBase.part 1).run = false) ∧
    (tCells.changeCause 0 1 .memory false = none ∧ tCells.changeCause 0 1 .compute false ≠ none) := by
  refine ⟨?_, ?_, ?_, ?_, ?_, ?_, ?_, ?_, ?_, ?_⟩ <;> decide +kernel

/-- A sample of the line and its tenant; a limit at each end of its range and one beyond; firmware that fails at stage 2. -/
theorem witness_CachesAndManagement :
    (tBase.mem.wf = true ∧ tNoPartialsB tBase = true ∧ tNoWatchB tBase = true) ∧
    (let s := tBase.onSlice 3 fun sl => { sl with lines := [{ line := 77, way := 0, due := 5 }], samples := [{ line := 78, asid := 0, pid := 0, due := 9 }] }
     (s.getSlice 3).lines.find? (fun y => y.line == (77 : Word).toNat && !y.replica) = some { line := 77, way := 0, due := 5 } ∧ (s.getSlice 3).samples.length < 256 ∧
      ({ line := 78, asid := 0, pid := 0, due := 9 } : Sample) ∈ (s.getSlice 3).samples) ∧
    (600 ≤ (600 : BitVec 16).toNat ∧ (2000 : BitVec 16).toNat ≤ 2000 ∧ (599 : BitVec 16).toNat < 600 ∧ 2000 < (2001 : BitVec 16).toNat) ∧
    (State.reset.power = 1 ∧ ({ State.reset with fwOk := false } : State).fwOk = false ∧ State.reset.fwOk = true ∧ 6 ≤ tBase.power) := by
  refine ⟨?_, ?_, ?_, ?_⟩ <;> decide +kernel

/-- The base state with a word at the PC. -/
def tWord (w : Nat) : State := State.reset.withFetchWord 96 w

/-- What a run that goes on leaves. -/
def tRunOk {α : Type} [DecidableEq α] (m : Act α) (s : State) (a : α) : Bool := match m.run s with | .ok b _ => decide (b = a) | .error _ _ => false

def tStepB (s : State) (bs : List Byte) : Bool :=
  match s.turns with
  | .core c :: ts =>
    decide (c = s.core.id ∧ s.agenda = [] ∧ s.power = 6 ∧ s.stopped = false ∧ s.recovery = false ∧ s.core.awake = true ∧ s.core.halted = false ∧ s.laggard = none ∧
      ({ s with turns := ts } : State).streamAtBoundary = false ∧ ({ s with turns := ts } : State).membersFirst = none ∧ (s.getCluster (clusterOf s.core.id)).awake = true ∧
      s.me.tid ≠ 0 ∧ s.me.budget ≠ 0 ∧ s.me.capsule = false ∧ s.me.mctx = none ∧
      s.me.reissue = [] ∧ s.mxBusy = false ∧ s.core.mx.pendingTrap = none ∧ s.badStore = none) && tRunOk fetchWord { s with turns := ts } bs
  | _ => false

/-- ADDI g2, g0, 5 at the PC of the base state; and the same where the guard q1, which is 0, does not let it run; and NOP in the last word of a page. -/
theorem witness_StepRunsDecoded :
    (let bs : List Byte := [5, 0, 0, 0, 0, 0, 0, 2, 0, 0, 0, 2]
     tStepB (tWord 0x0200_0000_0200_0000_0000_0005) bs = true ∧
      (match decode (wordOfBytes bs) with | .ok p => decide (p = (Header.always, Instr.addi 2 (.g 0) 5)) | .error _ => false) = true ∧
      starred (fields (wordOfBytes bs)).maj (fields (wordOfBytes bs)).min = false ∧ capsuleCause tBase.me (fields (wordOfBytes bs)) = none ∧
      tBase.membersHold (fields (wordOfBytes bs)) Header.always (.addi 2 (.g 0) 5) = none ∧
      tBase.guardHolds Header.always = true ∧ tBase.guardHolds { gneg := false, guard := 1, la := 0 } = false) := by decide +kernel

theorem witness_StepRunsDecoded_fetch :
    (let s := tMe fun t => { t with pc := 0x1FFF4 }
     Reaches s s.pc 12 .exec (tLeaf s s.pc .exec) ∧ Good s (tLeaf s s.pc .exec).place 12 ∧ s.pc.toNat % 64 = 52 ∧ s.core.icache = [] ∧
      tRunOk (fetchPart s.pc 12) s (List.replicate 12 0) = true) ∧
    (let s := tMe fun t => { t with pc := 0x1FFF8 }
     s.pc.toNat % 64 = 56 ∧
      (match (fetchPart s.pc (64 - s.pc.toNat % 64)).run s with
        | .ok a t => decide (a = List.replicate 8 0) && tRunOk (fetchPart (s.pc + BitVec.ofNat 64 (64 - s.pc.toNat % 64)) (12 - (64 - s.pc.toNat % 64))) t (List.replicate 4 0)
        | .error _ _ => false) = true) :=
  ⟨⟨tReaches (by decide +kernel), tGood (by decide +kernel), by decide +kernel, by decide +kernel, by decide +kernel⟩, by decide +kernel⟩

theorem witness_EncodeDecode :
    (let hd : Header := { gneg := true, guard := 7, la := 15 }
     hd.wf = true ∧ (Instr.addi 63 (.g 63) 0xFFFFFFFFFF).wf = true ∧ (encode hd (.addi 63 (.g 63) 0xFFFFFFFFFF)).isSome = true ∧
      Instr.ill.wf = true ∧ (encode hd .ill).isSome = true) := by decide +kernel

theorem witness_DecodeEncode :
    (match decode 0x1A50_0000_410B_D028_FC00_0000 with | .ok p => decide (p.2 ≠ .ill ∧ p.2 ≠ .unassignedEncoding) | .error _ => false) = true := by decide +kernel

/-- The step that runs ADDI, from a state whose memories are in the canonical form. -/
theorem witness_StepKeepsMemoryForm :
    (tWord 0x0200_0000_0200_0000_0000_0005).memWf ∧ (match step (tWord 0x0200_0000_0200_0000_0000_0005) with | .next t => decide (t.g 2 = 5) | _ => false) = true := by
  refine ⟨?_, by decide +kernel⟩
  unfold State.memWf
  decide +kernel

/-! ### Values that the manual prints -/

/-- What an instruction leaves of a state. -/
def tAfter (i : Instr) (s : State) : State := match exec i s with | .next t => t | _ => s

def tPair (a b : Word) : State := (tBase.setG 1 a).setG 2 b

/-- The table of R135. -/
theorem test_division_table :
    let r (i : Instr) (a b : Word) : Word := (tAfter i (tPair a b)).g 3
    (r (.div 3 (.g 1) (.g 2)) (-7) 2 = -3 ∧ r (.rem 3 (.g 1) (.g 2)) (-7) 2 = -1 ∧ r (.divn 3 (.g 1) (.g 2)) (-7) 2 = 0x7FFF_FFFF_FFFF_FFFC ∧ r (.remn 3 (.g 1) (.g 2)) (-7) 2 = 1) ∧
    (r (.div 3 (.g 1) (.g 2)) 7 (-2) = -3 ∧ r (.rem 3 (.g 1) (.g 2)) 7 (-2) = 1 ∧ r (.divn 3 (.g 1) (.g 2)) 7 (-2) = 0 ∧ r (.remn 3 (.g 1) (.g 2)) 7 (-2) = 7) ∧
    (r (.mulh 3 (.g 1) (.g 2)) (-1) 2 = 0xFFFF_FFFF_FFFF_FFFF ∧ r (.mulhn 3 (.g 1) (.g 2)) (-1) 2 = 1) := by decide +kernel

/-- The example of R140: a mask for 5 lanes, and all ones. -/
theorem test_pset : (tAfter (.pset 2 (.g 1) 0) (tG 5)).q 2 = 0x1F ∧ (tAfter (.pset 2 (.g 1) 0) (tG 200)).q 2 = 0xFFFF_FFFF_FFFF_FFFF := by decide +kernel

/-- The example of R32. -/
theorem test_future_handle : handleOf 3 147 37 0x102 = 0x8039_3128_0810_0000 := by decide

/-- The example of R57: LOTSEED 1, and queues 0, 3 and 5 with 100, 300 and 600 tickets. -/
theorem test_lottery_draws :
    let q (n : BitVec 12) (t : BitVec 32) : LaunchQ := { enable := true, tickets := n, recs := [t, t] }
    let s : State := ({ tBase with tasks := [{ tid := 5 }, { tid := 6 }, { tid := 7 }] } : State).onPart 0 fun p =>
      { p with queues := ((p.queues.set 0 (q 100 5)).set 3 (q 300 6)).set 5 (q 600 7), x := 1 }
    let draw (s : State) : State := tAfter .lotteryDraw (tEv s (.lotteryDraw 0))
    let started (s : State) (n : BitVec 6) : Nat := (rd (s.part 0).queues n).started.length
    let a := draw s
    let b := draw a
    let c := draw b
    ((a.part 0).x = 0x0004_2021 ∧ started a 3 = 1 ∧ started a 5 = 0) ∧ ((b.part 0).x = 0x0408_0601 ∧ started b 5 = 1) ∧ ((c.part 0).x = 0x9DCC_A8C5 ∧ started c 5 = 2) := by decide +kernel

/-- Rows of the table of R153: −3.25, 300 and 500 in the floating formats; flags are OF and NX. -/
theorem test_rounding_table :
    let n : Val := .num true 13 (-2) false
    let r (f : Nat) (v : Val) : Nat := (roundTo f .rne false v).1
    (r 0 n = 0xC00A_0000_0000_0000 ∧ r 1 n = 0xC050_0000 ∧ r 2 n = 0xC280 ∧ r 3 n = 0xC050 ∧ r 4 n = 0xC5 ∧ r 5 n = 0xC2 ∧ r 6 n = 0x32 ∧ r 7 n = 0x35 ∧ r 8 n = 0xD) ∧
    (r 4 (.num false 300 0 false) = 0x79 ∧ roundTo 4 .rne false (.num false 500 0 false) = (0x7E, flOF ||| flNX) ∧ roundTo 5 .rne false (.num false 500 0 false) = (0x60, flNX) ∧
      roundTo 5 .rne false (.num false 70000 0 false) = (0x7C, flOF ||| flNX)) := by decide +kernel

/-- The examples of R149. -/
theorem test_outlier_pairs :
    ([0xD5, 0x38, 0x8A, 0x88, 0xF8].map fun b => ((roundTo 1 .rne false (decO4 b).1).1, (roundTo 1 .rne false (decO4 b).2).1)) =
      [(0x40A0_0000, 0xC040_0000), (0x3F80_0000, 0), (0, 0xBE80_0000), (0xBC80_0000, 0), (0xC380_0000, 0)] := by decide +kernel

/-- The example of R154: the block sum is exact, and rounds to 14.0 without a flag. -/
theorem test_block_sum :
    let ps : List (Val × Val) := (val 2 0x6800, val 2 0x7000) :: (List.replicate 14 (val 2 0x3C00, val 2 0x3C00)) ++ [(val 2 0xE800, val 2 0x7000)]
    accumulate 1 .rne 0 (blockSum .rne ps) = (0x4160_0000, 0) := by decide +kernel

/-- The example of R168. -/
theorem test_vcomp :
    let s := ((tBase.setV 3 (BitVec.ofNat 512 (0x3FC0_0000 * 2 ^ 64 + 0xC000_0000 * 2 ^ 224 + 0x3E80_0000 * 2 ^ 352))).setQ 2 0xFFFF).setG 4 1000
    let t := tAfter (.vcomp 5 3 (.g 4) (tF 1 0x3F 0 false false 0 (some 2))) s
    (elem 64 (t.v 5) 0 = 0x0000_03EA_3FC0_0000 ∧ elem 64 (t.v 5) 1 = 0x0000_03EF_C000_0000 ∧ elem 64 (t.v 5) 2 = 0x0000_03F3_3E80_0000 ∧
      elem 64 (t.v 5) 3 = 0xFFFF_FFFF_0000_0000 ∧ elem 64 (t.v 5) 7 = 0xFFFF_FFFF_0000_0000) ∧ t.q 2 = 0 := by decide +kernel

/-- The example of R170: the two words quantize v1 to fp4_s8. -/
theorem test_quantize :
    let s := tBase.setV 1 (BitVec.ofNat 512 (0x4140_0000 + 0xC040_0000 * 2 ^ 32 + 0x3F33_3333 * 2 ^ 64 + 0x40A0_0000 * 2 ^ 96 + 0xBF80_0000 * 2 ^ 128 + 0x4020_0000 * 2 ^ 160))
    let at_ (w : Nat) (s : State) : State := match decodeTableWord 96 w with | some i => tAfter i s | none => s
    let t := at_ 0x1B00_0000_4241_0090_0400_0004 (at_ 0x1B50_0000_0441_0090_0400_0000 s)
    t.g 4 = 0x80 ∧ t.v 2 = 0x29_41B7 ∧ t.me.fflags = flNX ||| flUF := by decide +kernel

/-- The example of R213: three misses of a set. -/
theorem test_victims :
    let l (way : Nat) (due : BitVec 32) (streaming stale : Bool) : SLine := { line := way, way := way, due := due, streaming := streaming, stale := stale }
    let set := [l 0 20050 false false, l 1 21500 false false, l 2 15000 false true, l 3 0 true false, l 4 21500 false false, l 5 19000 false false] ++
      (List.range 10).map fun i => l (6 + i) 20050 false false
    let next (set : List SLine) : Nat := (victimWay SLine.way SLine.streaming SLine.stale (fun l => ageDiff l.due 20000) set (List.range 16)).1
    let put (set : List SLine) (w : Nat) : List SLine := l w 20016 false false :: set.filter fun x => x.way != w
    next set = 3 ∧ next (put set 3) = 2 ∧ next (put (put set 3) 2) = 1 := by decide +kernel

/-- The example of R247: a tile of an fp4_s8 tensor and its scales. -/
theorem test_shape_segments :
    let t := tsrOf [0x1_0000, 64 + 8 * 2 ^ 32, 0, 32, 0, 0, 0x0000_7F00_3000_0000, 4 + 32 * 2 ^ 16 + 0x24 * 2 ^ 32 + 2 * 2 ^ 40]
    (t.segs (32, 2, 0, 0)).map (fun g => (g.off, g.va)) = [(0, 0x1_0050), (16, 0x1_0070), (32, 0x1_0090), (48, 0x1_00B0),
      (64, 0x0000_7F00_3000_000A), (66, 0x0000_7F00_3000_000E), (68, 0x0000_7F00_3000_0012), (70, 0x0000_7F00_3000_0016)] ∧ t.size = 72 := by decide +kernel

/-- R81: three COMPUTE layers and one MEMORY layer at 600 W issue on one cycle of 16. -/
theorem test_throttle : throttleOf #v[.compute, .compute, .compute, .memory] 0 600 = 1 ∧ throttleOf #v[.compute, .compute, .compute, .memory] 0 2000 = 16 := by decide

/-- The VBUS-SWAP record of R411, as it stands in the ring. -/
theorem test_record_words :
    let r : PRecord :=
      { type := 0x0C, sev := 2, unit := 3, layer := 2, cluster := 5, slice := 0, core := 0, port := 2, lane := 300, address := 0xC280_0200, syndrome := 0x200, count := 1
        localctr := 0x4_51E0_2A10, detail := 0xE9, asid := 0, tid := 0 }
    let s : State := tEv { tBase with peri := { prbase := 0x40_0000_0000 + 7, prtail := 0x41, prhead := 0x40, prseq := 0x41, prctl := 3 } } (.periscopeRecord r)
    let t := tAfter .periscopeRecord s
    (t.mem.word 0x40_0000_1040 = 0x41 ∧ t.mem.word 0x40_0000_1048 = 0x0C47_0A00_044B_0000 ∧ t.mem.word 0x40_0000_1050 = 0xC280_0200 ∧ t.mem.word 0x40_0000_1058 = 0x0000_0200_0000_0001) ∧
    (t.mem.word 0x40_0000_1060 = 0x4_51E0_2A10 ∧ t.mem.word 0x40_0000_1068 = 0xE9 ∧ t.mem.word 0x40_0000_1070 = 0) := by decide +kernel

/-! ### One step on a small state -/

/-- R134: ADD wraps. -/
theorem test_add_wraps : (tAfter (.add 3 (.g 1) (.g 2)) (tPair 0xFFFF_FFFF_FFFF_FFFF 2)).g 3 = 1 := by decide +kernel

/-- R231: LD of 2 bytes with a sign. -/
theorem test_ld_signed : (tAfter (.ld 3 (.g 1) (.g 0) (tM 0 1 0 0 0 1 0 0)) (tAtVa (tG 0x1000) 0x1000 2 0x8001)).g 3 = 0xFFFF_FFFF_FFFF_8001 := by decide +kernel

/-- R231: ST writes its bytes in rising order; the byte behind them stands. -/
theorem test_st_bytes : (tAfter (.st 2 (.g 1) (.g 0) (tM 0 2 0 0 0 0 0 0)) (tPair 0x1000 0x11_2233_4455)).mem.read (2 ^ 29 + 0x1000) 5 = 0x22334455 := by decide +kernel

/-- R298, R299: AADD answers the old value, and memory holds the sum. -/
theorem test_aadd :
    let t := tAfter (.aadd 3 1 (.g 2) (tM 0 3 0 0 0 0 0 0)) (tAtVa (tPair 0x1000 5) 0x1000 8 0xFFFF_FFFF_FFFF_FFFF)
    t.g 3 = 0xFFFF_FFFF_FFFF_FFFF ∧ t.mem.read (2 ^ 29 + 0x1000) 8 = 4 := by decide +kernel

/-- R141: BRA −1 goes to the word before its own. -/
theorem test_bra : (tAfter (.bra 0xFFFFFFFFFF) tBase).pc = tBase.pc - 12 := by decide +kernel

end Sys2Proof.Tests
end

section
/-!
PROOFS. The divisions of the integer register group (R135), and the instructions that trap or return from a trap (R129, R131, R133).
-/

namespace Sys2Proof.Machine

/-! ### How an instruction ends -/

/-- An instruction that ends with a scalar result completes. -/
theorem completes_of_putG {i : Instr} {s : State} {d : GReg} {v : Word} (h : exec i s = putG d v s) : Completes i s (s.setG d v) :=
  goes_goTo h

/-- A stop is carried out at once where no matrix command is queued (R200). -/
theorem stop_of_idle {s : State} (h : s.mxBusy = false) (e : Stop) : stop e s = .next (s.stopWith e) := by
  simp [stop, State.endStop, h]

/-! ### Divisions (R135) -/

/-- The signed quotient of two words, reduced to a word: only −2^63 by −1 needs the reduction. -/
theorem sdiv_eq_ofInt_tdiv (x y : Word) : x.sdiv y = BitVec.ofInt 64 (x.toInt.tdiv y.toInt) :=
  BitVec.eq_of_toInt_eq (by rw [BitVec.toInt_sdiv, BitVec.toInt_ofInt])

theorem srem_eq_ofInt_tmod (x y : Word) : x.srem y = BitVec.ofInt 64 (x.toInt.tmod y.toInt) := by
  rw [← BitVec.toInt_srem, BitVec.ofInt_toInt]

theorem udiv_eq_ofNat_div (x y : Word) : x / y = BitVec.ofNat 64 (x.toNat / y.toNat) := by
  rw [← BitVec.toNat_udiv, BitVec.ofNat_toNat, BitVec.setWidth_eq]

theorem umod_eq_ofNat_mod (x y : Word) : x % y = BitVec.ofNat 64 (x.toNat % y.toNat) := by
  rw [← BitVec.toNat_umod, BitVec.ofNat_toNat, BitVec.setWidth_eq]

section
variable (s : State) (d : GReg) (a b : GK)

theorem exec_div : exec (.div d a b) s = putDiv d (s.gk a) (s.gk b) (BitVec.ofInt 64 ((s.gk a).toInt.tdiv (s.gk b).toInt)) s := by
  rw [← sdiv_eq_ofInt_tdiv]; rfl

theorem exec_divn : exec (.divn d a b) s = putDiv d (s.gk a) (s.gk b) (BitVec.ofNat 64 ((s.gk a).toNat / (s.gk b).toNat)) s := by
  rw [← udiv_eq_ofNat_div]; rfl

theorem exec_rem : exec (.rem d a b) s = putDiv d (s.gk a) (s.gk b) (BitVec.ofInt 64 ((s.gk a).toInt.tmod (s.gk b).toInt)) s := by
  rw [← srem_eq_ofInt_tmod]; rfl

theorem exec_remn : exec (.remn d a b) s = putDiv d (s.gk a) (s.gk b) (BitVec.ofNat 64 ((s.gk a).toNat % (s.gk b).toNat)) s := by
  rw [← umod_eq_ofNat_mod]; rfl

theorem exec_mulh : exec (.mulh d a b) s = putG d (mulHigh (s.gk a) (s.gk b)) s := rfl

theorem exec_mulhn : exec (.mulhn d a b) s = putG d (mulHighU (s.gk a) (s.gk b)) s := rfl

end

section
variable {i : Instr} {s : State} {d : GReg} {x y v : Word}

/-- A division by another number than 0 completes with its result. -/
theorem completes_of_putDiv (h : exec i s = putDiv d x y v s) (hy : y ≠ 0) : Completes i s (s.setG d v) :=
  completes_of_putG (h.trans (if_neg hy))

/-- A division by 0 traps, whatever its result would be. -/
theorem traps_of_putDiv (h : exec i s = putDiv d x y v s) (hy : y = 0) (hb : s.mxBusy = false) :
    exec i s = .next (s.deliver 0x128 x s.pc) :=
  h.trans ((if_pos hy).trans (stop_of_idle hb _))

end

/-- Settles O2: each of the four divisions ends by `putDiv`, with the quotient or remainder of R135. -/
theorem divisions : Obligations.Divisions := by
  refine ⟨fun s d a b hb => ⟨?_, ?_, ?_, ?_⟩, fun s d a b hb hidle i hi => ?_, fun s d a b ha hb => ?_, fun s d a b ha hb => ?_⟩
  · exact completes_of_putDiv (exec_div s d a b) hb
  · exact completes_of_putDiv (exec_divn s d a b) hb
  · exact completes_of_putDiv (exec_rem s d a b) hb
  · exact completes_of_putDiv (exec_remn s d a b) hb
  · simp only [List.mem_cons, List.not_mem_nil, or_false] at hi
    obtain rfl | rfl | rfl | rfl := hi
    · exact traps_of_putDiv (exec_div s d a b) hb hidle
    · exact traps_of_putDiv (exec_divn s d a b) hb hidle
    · exact traps_of_putDiv (exec_rem s d a b) hb hidle
    · exact traps_of_putDiv (exec_remn s d a b) hb hidle
  · have hb0 : s.gk b ≠ 0 := by rw [hb]; decide
    have hq := completes_of_putDiv (exec_div s d a b) hb0
    have hr := completes_of_putDiv (exec_rem s d a b) hb0
    -- The quotient and the remainder of the two words are closed terms, which evaluate.
    rw [ha, hb] at hq hr
    exact ⟨hq, hr⟩
  · have hs := completes_of_putG (exec_mulh s d a b)
    have hu := completes_of_putG (exec_mulhn s d a b)
    rw [ha, hb] at hs hu
    exact ⟨hs, hu⟩

/-! ### Traps and the return from a handler (R129, R131, R133) -/

/-- ERET leaves a matrix unit that holds no queue as it is (R196). -/
theorem State.releaseQueue_of_not_held {s : State} (h : s.core.mx.held = none) : s.releaseQueue = s := by
  simp [State.releaseQueue, h]

/-- There ERET retires and leaves the handler, and nothing more. -/
theorem State.eret_of_not_held {s : State} (h : s.core.mx.held = none) : s.eret = s.retire.onMe Task.leaveHandler :=
  State.releaseQueue_of_not_held (s := s.retire.onMe Task.leaveHandler) h

theorem exec_eret_of_intrap {s : State} (h : s.me.intrap = true) : exec .eret s = .next s.eret := if_pos h

theorem exec_eret_of_not_intrap {s : State} (h : s.me.intrap = false) : exec .eret s = stop (.trap 0x031 s.pc) s :=
  if_neg (by simp [h])

/-- Settles O7: each of the trapping instructions ends by `stop`, and ERET in a handler by `State.eret`. -/
theorem trapInstructions : Obligations.TrapInstructions := by
  refine ⟨fun s n a imm hidle => ⟨?_, ?_, ?_, ?_, fun hin => ?_⟩, fun s hin hheld => ?_⟩
  · exact stop_of_idle hidle (.trap 0x011 s.pc)
  · exact stop_of_idle hidle (.trap 0x010 s.pc)
  · exact stop_of_idle hidle (.trapDone (n.setWidth 9) (s.gk a))
  · exact stop_of_idle hidle (.trapDone 0x008 (imm.setWidth 64))
  · exact (exec_eret_of_not_intrap hin).trans (stop_of_idle hidle _)
  · refine ⟨s.retire.onMe Task.leaveHandler, ?_, rfl, rfl, rfl, rfl, rfl, rfl, rfl, rfl, rfl, rfl, rfl, rfl, rfl⟩
    rw [exec_eret_of_intrap hin, State.eret_of_not_held hheld]

end Sys2Proof.Machine
end
